-- ==== Sys2Proof/Word.lean ====
section
/-!
DEFINITION. The word types of the Niryah 740 and their plainest arithmetic (13_instruction_encoding
R314, R324; 08_the_tile R195; 00_scope R3).
-/
namespace Sys2Proof

/-- One byte of any space (R3). -/
abbrev Byte := BitVec 8
/-- One instruction word (R314). -/
abbrev Word32 := BitVec 32
/-- One scalar register, control register or address value (R324, R190). -/
abbrev Dword := BitVec 64
/-- One row of an accumulator tile or of a row queue: 2,048 bits (R195, R200). -/
abbrev Row := BitVec 2048

/-- Bits hi..lo of a 64-bit value as a number (R6). -/
def bits (v : Dword) (hi lo : Nat) : Nat := (v.toNat >>> lo) % 2 ^ (hi + 1 - lo)

/-- Bit k of a 64-bit value. -/
def bit (v : Dword) (k : Nat) : Bool := v.getLsbD k

end Sys2Proof
end

