-- ==== Sys2Proof/Syntax.lean ====
section
/-!
DEFINITION. The syntax of the model: ONE inductive with a constructor for each row of
spec/opcode_table.json. 201 rows are instruction words (13_instruction_encoding Tables 13-9 to 13-16;
the operand fields are those of Tables 13-2, 15-1, 16-2, 17-2, 17-6 and 18-1), 118 rows are whole steps
of the package that no word asks for (95_what_each_step_holds): a message or register write from outside,
or a background step of an engine. What such a message or write brings, or which unit steps, stands in an
`Arg` that the machine's state holds beside the step; everything else the step reads from the state.
-/
namespace Sys2Proof

/-- What comes with a step that has no word: numbers (unit, function, queue, level; a truth value is 1 or
0), a 64-bit value written to a register, the bytes of a message, sensor readings,
and a list of 64-bit fields. Each constructor's docstring says which it uses. -/
structure Arg where
  a : Nat := 0
  b : Nat := 0
  c : Nat := 0
  d : Nat := 0
  v : Dword := 0
  bytes : List Byte := []
  ints : List Int := []
  ints2 : List Int := []
  dwords : List Dword := []
  deriving DecidableEq, Repr

/-- One row of the table of operations and events. A word's fields L and G are the bundle's (R314), see
`Word`. -/
inductive Instr where
  /-- ADD (R339): Adds two scalars modulo 2^64. Fields d [17:12], a [11:6], b [5:0]. -/
  | add (d : BitVec 6) (a : BitVec 6) (b : BitVec 6)
  /-- ADDI (R339): Adds a signed immediate to a scalar. Fields d [17:12], a [11:6], i [5:0]. -/
  | addi (d : BitVec 6) (a : BitVec 6) (i : BitVec 6)
  /-- SUB (R339): Subtracts two scalars modulo 2^64. Fields d [17:12], a [11:6], b [5:0]. -/
  | sub (d : BitVec 6) (a : BitVec 6) (b : BitVec 6)
  /-- MUL (R339): Multiplies two scalars, keeping the low 64 bits. Fields d [17:12], a [11:6], b [5:0]. -/
  | mul (d : BitVec 6) (a : BitVec 6) (b : BitVec 6)
  /-- MULH (R339): Gives the high 64 bits of the signed product. Fields d [17:12], a [11:6], b [5:0]. -/
  | mulh (d : BitVec 6) (a : BitVec 6) (b : BitVec 6)
  /-- MULHU (R339): Gives the high 64 bits of the unsigned product. Fields d [17:12], a [11:6], b [5:0]. -/
  | mulhu (d : BitVec 6) (a : BitVec 6) (b : BitVec 6)
  /-- DIV (R341): Signed division toward zero, all ones on division by zero. Fields d [17:12], a [11:6], b [5:0]. -/
  | div (d : BitVec 6) (a : BitVec 6) (b : BitVec 6)
  /-- DIVU (R341): Unsigned division, all ones on division by zero. Fields d [17:12], a [11:6], b [5:0]. -/
  | divu (d : BitVec 6) (a : BitVec 6) (b : BitVec 6)
  /-- REM (R341): Signed remainder, the dividend on division by zero. Fields d [17:12], a [11:6], b [5:0]. -/
  | rem (d : BitVec 6) (a : BitVec 6) (b : BitVec 6)
  /-- REMU (R341): Unsigned remainder, the dividend on division by zero. Fields d [17:12], a [11:6], b [5:0]. -/
  | remu (d : BitVec 6) (a : BitVec 6) (b : BitVec 6)
  /-- AND (R339): Bitwise and of two scalars. Fields d [17:12], a [11:6], b [5:0]. -/
  | and (d : BitVec 6) (a : BitVec 6) (b : BitVec 6)
  /-- ANDI (R339): Bitwise and with a signed immediate. Fields d [17:12], a [11:6], i [5:0]. -/
  | andi (d : BitVec 6) (a : BitVec 6) (i : BitVec 6)
  /-- OR (R339): Bitwise or of two scalars. Fields d [17:12], a [11:6], b [5:0]. -/
  | or (d : BitVec 6) (a : BitVec 6) (b : BitVec 6)
  /-- ORI (R339): Bitwise or with a signed immediate. Fields d [17:12], a [11:6], i [5:0]. -/
  | ori (d : BitVec 6) (a : BitVec 6) (i : BitVec 6)
  /-- XOR (R339): Bitwise exclusive or of two scalars. Fields d [17:12], a [11:6], b [5:0]. -/
  | xor (d : BitVec 6) (a : BitVec 6) (b : BitVec 6)
  /-- XORI (R339): Bitwise exclusive or with a signed immediate. Fields d [17:12], a [11:6], i [5:0]. -/
  | xori (d : BitVec 6) (a : BitVec 6) (i : BitVec 6)
  /-- SHL (R340): Shifts left by B[5:0]. Fields d [17:12], a [11:6], b [5:0]. -/
  | shl (d : BitVec 6) (a : BitVec 6) (b : BitVec 6)
  /-- SHLI (R340): Shifts left by an unsigned immediate 0-63. Fields d [17:12], a [11:6], k [5:0]. -/
  | shli (d : BitVec 6) (a : BitVec 6) (k : BitVec 6)
  /-- SHR (R340): Logical shift right by B[5:0]. Fields d [17:12], a [11:6], b [5:0]. -/
  | shr (d : BitVec 6) (a : BitVec 6) (b : BitVec 6)
  /-- SHRI (R340): Logical shift right by an unsigned immediate. Fields d [17:12], a [11:6], k [5:0]. -/
  | shri (d : BitVec 6) (a : BitVec 6) (k : BitVec 6)
  /-- SRA (R340): Arithmetic shift right by B[5:0]. Fields d [17:12], a [11:6], b [5:0]. -/
  | sra (d : BitVec 6) (a : BitVec 6) (b : BitVec 6)
  /-- SRAI (R340): Arithmetic shift right by an unsigned immediate. Fields d [17:12], a [11:6], k [5:0]. -/
  | srai (d : BitVec 6) (a : BitVec 6) (k : BitVec 6)
  /-- CLZ (R339): Counts leading zero bits. Fields d [17:12], a [11:6]. -/
  | clz (d : BitVec 6) (a : BitVec 6)
  /-- POPC (R339): Counts set bits. Fields d [17:12], a [11:6]. -/
  | popc (d : BitVec 6) (a : BitVec 6)
  /-- MIN (R339): Signed minimum. Fields d [17:12], a [11:6], b [5:0]. -/
  | min (d : BitVec 6) (a : BitVec 6) (b : BitVec 6)
  /-- MAX (R339): Signed maximum. Fields d [17:12], a [11:6], b [5:0]. -/
  | max (d : BitVec 6) (a : BitVec 6) (b : BitVec 6)
  /-- MINU (R339): Unsigned minimum. Fields d [17:12], a [11:6], b [5:0]. -/
  | minu (d : BitVec 6) (a : BitVec 6) (b : BitVec 6)
  /-- MAXU (R339): Unsigned maximum. Fields d [17:12], a [11:6], b [5:0]. -/
  | maxu (d : BitVec 6) (a : BitVec 6) (b : BitVec 6)
  /-- SEL (R347): Selects a source or the old destination by a predicate, poisoning on a poisoned predicate. Fields d [17:12], a [11:6], n [5:5], p [3:0]. -/
  | sel (d : BitVec 6) (a : BitVec 6) (n : BitVec 1) (p : BitVec 4)
  /-- LI (R342): Loads a signed immediate. Fields d [17:12], i [11:0]. -/
  | li (d : BitVec 6) (i : BitVec 12)
  /-- ADDX (R343): Adds a scaled scalar to the destination. Fields d [17:12], a [11:6], k [5:0]. -/
  | addx (d : BitVec 6) (a : BitVec 6) (k : BitVec 6)
  /-- CMP_EQ (R344): Writes a predicate pair for equality. Fields p [17:15], a [11:6], b [5:0]. -/
  | cmpEq (p : BitVec 3) (a : BitVec 6) (b : BitVec 6)
  /-- CMP_NE (R344): Writes a predicate pair for inequality. Fields p [17:15], a [11:6], b [5:0]. -/
  | cmpNe (p : BitVec 3) (a : BitVec 6) (b : BitVec 6)
  /-- CMP_LT (R344): Writes a predicate pair for signed less than. Fields p [17:15], a [11:6], b [5:0]. -/
  | cmpLt (p : BitVec 3) (a : BitVec 6) (b : BitVec 6)
  /-- CMP_LE (R344): Writes a predicate pair for signed less or equal. Fields p [17:15], a [11:6], b [5:0]. -/
  | cmpLe (p : BitVec 3) (a : BitVec 6) (b : BitVec 6)
  /-- CMP_LTU (R344): Writes a predicate pair for unsigned less than. Fields p [17:15], a [11:6], b [5:0]. -/
  | cmpLtu (p : BitVec 3) (a : BitVec 6) (b : BitVec 6)
  /-- CMP_LEU (R344): Writes a predicate pair for unsigned less or equal. Fields p [17:15], a [11:6], b [5:0]. -/
  | cmpLeu (p : BitVec 3) (a : BitVec 6) (b : BitVec 6)
  /-- CMPI_EQ (R344): Compares with an immediate for equality. Fields p [17:15], a [11:6], i [5:0]. -/
  | cmpiEq (p : BitVec 3) (a : BitVec 6) (i : BitVec 6)
  /-- CMPI_NE (R344): Compares with an immediate for inequality. Fields p [17:15], a [11:6], i [5:0]. -/
  | cmpiNe (p : BitVec 3) (a : BitVec 6) (i : BitVec 6)
  /-- CMPI_LT (R344): Compares with an immediate, signed less than. Fields p [17:15], a [11:6], i [5:0]. -/
  | cmpiLt (p : BitVec 3) (a : BitVec 6) (i : BitVec 6)
  /-- CMPI_LE (R344): Compares with an immediate, signed less or equal. Fields p [17:15], a [11:6], i [5:0]. -/
  | cmpiLe (p : BitVec 3) (a : BitVec 6) (i : BitVec 6)
  /-- CMPI_LTU (R344): Compares with a sign-extended immediate, unsigned less than. Fields p [17:15], a [11:6], i [5:0]. -/
  | cmpiLtu (p : BitVec 3) (a : BitVec 6) (i : BitVec 6)
  /-- CMPI_LEU (R344): Compares with a sign-extended immediate, unsigned less or equal. Fields p [17:15], a [11:6], i [5:0]. -/
  | cmpiLeu (p : BitVec 3) (a : BitVec 6) (i : BitVec 6)
  /-- PSET (R345): Combines two predicates by and, or, xor or and-not. Fields f [17:16], d [15:12], a [11:8], b [7:4]. -/
  | pset (f : BitVec 2) (d : BitVec 4) (a : BitVec 4) (b : BitVec 4)
  /-- PMOV (R346): Moves a value between predicates and scalars. Fields d [17:12], a [11:6], k [5:4]. -/
  | pmov (d : BitVec 6) (a : BitVec 6) (k : BitVec 2)
  /-- BR (R349): Branches by a signed word offset. Fields i [17:0]. -/
  | br (i : BitVec 18)
  /-- CALL (R349): Branches and writes the link into s59. Fields i [17:0]. -/
  | call (i : BitVec 18)
  /-- RET (R350): Branches to the address in s59. -/
  | ret
  /-- JR (R350): Branches to a register address, optionally writing a link. Fields d [17:12], a [11:6]. -/
  | jr (d : BitVec 6) (a : BitVec 6)
  /-- BQ (R351): Pops a scalar queue item and branches on its value. Fields q [17:16], t [15:14], i [13:0]. -/
  | bq (q : BitVec 2) (t : BitVec 2) (i : BitVec 14)
  /-- LOOP (R353): Starts the loop engine with a register count and K stages. Fields a [17:12], k [11:9], e [8:0]. -/
  | loop (a : BitVec 6) (k : BitVec 3) (e : BitVec 9)
  /-- LOOPI (R353): Starts the loop engine with an immediate count and K stages. Fields k [17:15], n [14:7], e [6:0]. -/
  | loopi (k : BitVec 3) (n : BitVec 8) (e : BitVec 7)
  /-- CSRR (R356): Reads a control register into a scalar. Fields d [17:12], c [11:0]. -/
  | csrr (d : BitVec 6) (c : BitVec 12)
  /-- CSRW (R356): Writes a control register. Fields s [17:12], c [11:0]. -/
  | csrw (s : BitVec 6) (c : BitVec 12)
  /-- CSRS (R356): Sets bits of a control register. Fields s [17:12], c [11:0]. -/
  | csrs (s : BitVec 6) (c : BitVec 12)
  /-- CSRC (R356): Clears bits of a control register. Fields s [17:12], c [11:0]. -/
  | csrc (s : BitVec 6) (c : BitVec 12)
  /-- LDB (R362): Loads a sign-extended byte. Fields d [17:12], a [11:6], s [5:5], i [4:0]. -/
  | ldb (d : BitVec 6) (a : BitVec 6) (s : BitVec 1) (i : BitVec 5)
  /-- LDBU (R362): Loads a zero-extended byte. Fields d [17:12], a [11:6], s [5:5], i [4:0]. -/
  | ldbu (d : BitVec 6) (a : BitVec 6) (s : BitVec 1) (i : BitVec 5)
  /-- LDH (R362): Loads a sign-extended half-word. Fields d [17:12], a [11:6], s [5:5], i [4:0]. -/
  | ldh (d : BitVec 6) (a : BitVec 6) (s : BitVec 1) (i : BitVec 5)
  /-- LDHU (R362): Loads a zero-extended half-word. Fields d [17:12], a [11:6], s [5:5], i [4:0]. -/
  | ldhu (d : BitVec 6) (a : BitVec 6) (s : BitVec 1) (i : BitVec 5)
  /-- LDW (R362): Loads a sign-extended word. Fields d [17:12], a [11:6], s [5:5], i [4:0]. -/
  | ldw (d : BitVec 6) (a : BitVec 6) (s : BitVec 1) (i : BitVec 5)
  /-- LDWU (R362): Loads a zero-extended word. Fields d [17:12], a [11:6], s [5:5], i [4:0]. -/
  | ldwu (d : BitVec 6) (a : BitVec 6) (s : BitVec 1) (i : BitVec 5)
  /-- LDD (R362): Loads a double word. Fields d [17:12], a [11:6], s [5:5], i [4:0]. -/
  | ldd (d : BitVec 6) (a : BitVec 6) (s : BitVec 1) (i : BitVec 5)
  /-- STB (R362): Stores a byte. Fields s [17:12], a [11:6], i [5:0]. -/
  | stb (s : BitVec 6) (a : BitVec 6) (i : BitVec 6)
  /-- STH (R362): Stores a half-word. Fields s [17:12], a [11:6], i [5:0]. -/
  | sth (s : BitVec 6) (a : BitVec 6) (i : BitVec 6)
  /-- STW (R362): Stores a word. Fields s [17:12], a [11:6], i [5:0]. -/
  | stw (s : BitVec 6) (a : BitVec 6) (i : BitVec 6)
  /-- STD (R362): Stores a double word. Fields s [17:12], a [11:6], i [5:0]. -/
  | std (s : BitVec 6) (a : BitVec 6) (i : BitVec 6)
  /-- LDV (R364): Loads one 256-byte row into a vector name. Fields d [17:12], a [11:6], s [5:5], i [4:0]. -/
  | ldv (d : BitVec 6) (a : BitVec 6) (s : BitVec 1) (i : BitVec 5)
  /-- STV (R364): Stores one 256-byte row from a vector name. Fields s [17:12], a [11:6], i [5:0]. -/
  | stv (s : BitVec 6) (a : BitVec 6) (i : BitVec 6)
  /-- AMO (R365): Performs a 64-bit atomic operation at the home controller with optional acquire and release. Fields d [17:12], a [11:6], f [5:2], o [1:0]. -/
  | amo (d : BitVec 6) (a : BitVec 6) (f : BitVec 4) (o : BitVec 2)
  /-- CAS (R366): Performs a 64-bit compare-and-swap at the home controller. Fields d [17:12], a [11:6], o [1:0]. -/
  | cas (d : BitVec 6) (a : BitVec 6) (o : BitVec 2)
  /-- OWNX (R368): Hands an owned region to another task of the launch with release. Fields a [11:6], b [5:0]. -/
  | ownx (a : BitVec 6) (b : BitVec 6)
  /-- OWNA (R368): Takes a FREE region or a hand-over addressed to the task, with acquire. Fields a [11:6]. -/
  | owna (a : BitVec 6)
  /-- OWNS (R368): Turns an owned region SHARED_RO or ATOMIC with release. Fields a [11:6], k [0:0]. -/
  | owns (a : BitVec 6) (k : BitVec 1)
  /-- OWNF (R368): Returns a region to FREE with release. Fields a [11:6]. -/
  | ownf (a : BitVec 6)
  /-- OWNQ (R370): Returns a region's state word without changing it. Fields d [17:12], a [11:6]. -/
  | ownq (d : BitVec 6) (a : BitVec 6)
  /-- SEMSIG (R371): Signals a semaphore by n. Fields a [11:6], b [5:0]. -/
  | semsig (a : BitVec 6) (b : BitVec 6)
  /-- SEMWAIT (R372): Waits on a semaphore for n, blocking until granted. Fields a [11:6], b [5:0]. -/
  | semwait (a : BitVec 6) (b : BitVec 6)
  /-- SEMTRY (R371): Tries to take n from a semaphore and reports success. Fields d [17:12], a [11:6], b [5:0]. -/
  | semtry (d : BitVec 6) (a : BitVec 6) (b : BitVec 6)
  /-- PREFG (R375): Prefetches global bytes into the stage caches and a translation into the TLB. Fields a [11:6], k [5:3]. -/
  | prefg (a : BitVec 6) (k : BitVec 3)
  /-- VADD (R382): Lane-wise addition. Fields d [17:12], a [11:6], b [5:0]. -/
  | vadd (d : BitVec 6) (a : BitVec 6) (b : BitVec 6)
  /-- VSUB (R382): Lane-wise subtraction. Fields d [17:12], a [11:6], b [5:0]. -/
  | vsub (d : BitVec 6) (a : BitVec 6) (b : BitVec 6)
  /-- VMUL (R382): Lane-wise multiplication. Fields d [17:12], a [11:6], b [5:0]. -/
  | vmul (d : BitVec 6) (a : BitVec 6) (b : BitVec 6)
  /-- VFMA (R382): Lane-wise fused multiply-add into the old destination. Fields d [17:12], a [11:6], b [5:0]. -/
  | vfma (d : BitVec 6) (a : BitVec 6) (b : BitVec 6)
  /-- VFMS (R382): Lane-wise fused multiply-subtract from the old destination. Fields d [17:12], a [11:6], b [5:0]. -/
  | vfms (d : BitVec 6) (a : BitVec 6) (b : BitVec 6)
  /-- VMIN (R383): Lane-wise minimum. Fields d [17:12], a [11:6], b [5:0]. -/
  | vmin (d : BitVec 6) (a : BitVec 6) (b : BitVec 6)
  /-- VMAX (R383): Lane-wise maximum. Fields d [17:12], a [11:6], b [5:0]. -/
  | vmax (d : BitVec 6) (a : BitVec 6) (b : BitVec 6)
  /-- VABS (R384): Lane-wise absolute value. Fields d [17:12], a [11:6]. -/
  | vabs (d : BitVec 6) (a : BitVec 6)
  /-- VNEG (R384): Lane-wise negation. Fields d [17:12], a [11:6]. -/
  | vneg (d : BitVec 6) (a : BitVec 6)
  /-- VAND (R385): Bitwise and of two rows. Fields d [17:12], a [11:6], b [5:0]. -/
  | vand (d : BitVec 6) (a : BitVec 6) (b : BitVec 6)
  /-- VOR (R385): Bitwise or of two rows. Fields d [17:12], a [11:6], b [5:0]. -/
  | vor (d : BitVec 6) (a : BitVec 6) (b : BitVec 6)
  /-- VXOR (R385): Bitwise exclusive or of two rows. Fields d [17:12], a [11:6], b [5:0]. -/
  | vxor (d : BitVec 6) (a : BitVec 6) (b : BitVec 6)
  /-- VNOT (R385): Bitwise complement of a row. Fields d [17:12], a [11:6]. -/
  | vnot (d : BitVec 6) (a : BitVec 6)
  /-- VSHL (R386): Lane-wise shift left by an immediate. Fields d [17:12], a [11:6], k [5:0]. -/
  | vshl (d : BitVec 6) (a : BitVec 6) (k : BitVec 6)
  /-- VSHR (R386): Lane-wise logical shift right by an immediate. Fields d [17:12], a [11:6], k [5:0]. -/
  | vshr (d : BitVec 6) (a : BitVec 6) (k : BitVec 6)
  /-- VSRA (R386): Lane-wise arithmetic shift right by an immediate. Fields d [17:12], a [11:6], k [5:0]. -/
  | vsra (d : BitVec 6) (a : BitVec 6) (k : BitVec 6)
  /-- VRSHR (R387): Lane-wise rounding shift right, optionally narrowing with saturation. Fields d [17:12], a [11:6], n [5:5], k [4:0]. -/
  | vrshr (d : BitVec 6) (a : BitVec 6) (n : BitVec 1) (k : BitVec 5)
  /-- VCMP (R388): Writes a relation code per lane. Fields d [17:12], a [11:6], b [5:0]. -/
  | vcmp (d : BitVec 6) (a : BitVec 6) (b : BitVec 6)
  /-- VSEL (R389): Selects lanes of two rows by the old destination lanes. Fields d [17:12], a [11:6], b [5:0]. -/
  | vsel (d : BitVec 6) (a : BitVec 6) (b : BitVec 6)
  /-- VMOV (R385): Copies a row. Fields d [17:12], a [11:6]. -/
  | vmov (d : BitVec 6) (a : BitVec 6)
  /-- VZERO (R390): Writes a zero row without poison. Fields d [17:12]. -/
  | vzero (d : BitVec 6)
  /-- VBCAST (R390): Broadcasts a scalar into every lane. Fields d [17:12], a [11:6]. -/
  | vbcast (d : BitVec 6) (a : BitVec 6)
  /-- VEXT (R390): Extracts one lane into a scalar. Fields d [17:12], a [11:6], b [5:0]. -/
  | vext (d : BitVec 6) (a : BitVec 6) (b : BitVec 6)
  /-- VINS (R390): Inserts a scalar into one lane. Fields d [17:12], a [11:6], b [5:0]. -/
  | vins (d : BitVec 6) (a : BitVec 6) (b : BitVec 6)
  /-- VSLIDE (R392): Slides a row across a register pair by a scalar amount. Fields d [17:12], a [11:6], b [5:0]. -/
  | vslide (d : BitVec 6) (a : BitVec 6) (b : BitVec 6)
  /-- VSLIDEI (R392): Slides a row across a register pair by an immediate amount. Fields d [17:12], a [11:6], r [5:5], z [4:4], k [3:0]. -/
  | vslidei (d : BitVec 6) (a : BitVec 6) (r : BitVec 1) (z : BitVec 1) (k : BitVec 4)
  /-- VPERM (R391): Permutes lanes by an index row. Fields d [17:12], a [11:6], b [5:0]. -/
  | vperm (d : BitVec 6) (a : BitVec 6) (b : BitVec 6)
  /-- VIOTA (R390): Writes a scalar plus the lane index to each lane. Fields d [17:12], a [11:6]. -/
  | viota (d : BitVec 6) (a : BitVec 6)
  /-- VRED (R393): Reduces the lanes of a row pairwise into a scalar. Fields d [17:12], a [11:6], f [5:4]. -/
  | vred (d : BitVec 6) (a : BitVec 6) (f : BitVec 2)
  /-- VMAC2 (R394): Accumulates INT16 pair products into INT32 lanes with one saturation. Fields d [17:12], a [11:6], b [5:0]. -/
  | vmac2 (d : BitVec 6) (a : BitVec 6) (b : BitVec 6)
  /-- VDOT4 (R394): Accumulates INT8 quad products into INT32 lanes with one saturation. Fields d [17:12], a [11:6], b [5:0]. -/
  | vdot4 (d : BitVec 6) (a : BitVec 6) (b : BitVec 6)
  /-- VCVT (R395): Converts lanes between types under FRM.RM. Fields d [17:12], a [11:6], t [5:2], h [1:0]. -/
  | vcvt (d : BitVec 6) (a : BitVec 6) (t : BitVec 4) (h : BitVec 2)
  /-- VCVTS (R396): Converts FP32 lanes with stochastic rounding, advancing CTR by 64. Fields d [17:12], a [11:6], h [1:0]. -/
  | vcvts (d : BitVec 6) (a : BitVec 6) (h : BitVec 2)
  /-- VTYPE (R397): Writes the type tag of an accumulator tile. Fields k [16:12], t [11:8]. -/
  | vtype (k : BitVec 5) (t : BitVec 4)
  /-- VWIN (R398): Writes VWA, VWB, VROT or VRB. Fields s [17:16], v [4:0]. -/
  | vwin (s : BitVec 2) (v : BitVec 5)
  /-- FEXP2 (R399): Lane-wise 2^x. Fields d [17:12], a [11:6]. -/
  | fexp2 (d : BitVec 6) (a : BitVec 6)
  /-- FLOG2 (R399): Lane-wise log2 x. Fields d [17:12], a [11:6]. -/
  | flog2 (d : BitVec 6) (a : BitVec 6)
  /-- FRCP (R399): Lane-wise correctly rounded reciprocal. Fields d [17:12], a [11:6]. -/
  | frcp (d : BitVec 6) (a : BitVec 6)
  /-- FRSQ (R399): Lane-wise reciprocal square root. Fields d [17:12], a [11:6]. -/
  | frsq (d : BitVec 6) (a : BitVec 6)
  /-- FSQRT (R399): Lane-wise correctly rounded square root. Fields d [17:12], a [11:6]. -/
  | fsqrt (d : BitVec 6) (a : BitVec 6)
  /-- FTANH (R399): Lane-wise tanh. Fields d [17:12], a [11:6]. -/
  | ftanh (d : BitVec 6) (a : BitVec 6)
  /-- FSIGM (R399): Lane-wise logistic sigmoid. Fields d [17:12], a [11:6]. -/
  | fsigm (d : BitVec 6) (a : BitVec 6)
  /-- FERF (R399): Lane-wise error function. Fields d [17:12], a [11:6]. -/
  | ferf (d : BitVec 6) (a : BitVec 6)
  /-- RNG (R403): Writes CG4 random values per lane and advances CTR. Fields d [17:12]. -/
  | rng (d : BitVec 6)
  /-- VPART (R404): Writes the indices of non-zero then zero lanes and their count. Fields d [17:12], a [11:6], b [5:0]. -/
  | vpart (d : BitVec 6) (a : BitVec 6) (b : BitVec 6)
  /-- VTOPK (R405): Selects the k largest lanes of each group. Fields d [17:12], a [11:6], k [5:3], s [2:0]. -/
  | vtopk (d : BitVec 6) (a : BitVec 6) (k : BitVec 3) (s : BitVec 3)
  /-- MXQ (R407): Quantises 64 FP32 lanes into two E2M1 blocks of an MX row. Fields d [17:12], a [11:6], h [1:0]. -/
  | mxq (d : BitVec 6) (a : BitVec 6) (h : BitVec 2)
  /-- MXD (R408): Dequantises 64 E2M1 elements of an MX row into FP32 lanes. Fields d [17:12], a [11:6], h [1:0]. -/
  | mxd (d : BitVec 6) (a : BitVec 6) (h : BitVec 2)
  /-- FSCALE (R400): Multiplies lanes by 2^n. Fields d [17:12], a [11:6], b [5:0]. -/
  | fscale (d : BitVec 6) (a : BitVec 6) (b : BitVec 6)
  /-- FCLASS (R401): Writes a class number per lane. Fields d [17:12], a [11:6]. -/
  | fclass (d : BitVec 6) (a : BitVec 6)
  /-- FMINMAXN (R402): Writes the number-preferring lane minimum and maximum to a register pair. Fields d [17:12], a [11:6], b [5:0]. -/
  | fminmaxn (d : BitVec 6) (a : BitVec 6) (b : BitVec 6)
  /-- MCFG_T (R414): Writes the matrix operand types ATYPE and BTYPE. Fields a [11:8], b [7:4]. -/
  | mcfgT (a : BitVec 4) (b : BitVec 4)
  /-- MCFG_W (R414): Writes the W pointer WPTR from a W address. Fields a [11:6]. -/
  | mcfgW (a : BitVec 6)
  /-- MLDA (R416): Fills a latch buffer with 32 strided rows from S or A. Fields n [17:17], a [11:6], b [5:0]. -/
  | mlda (n : BitVec 1) (a : BitVec 6) (b : BitVec 6)
  /-- MGATH (R417): Fills a latch buffer with 32 rows chosen by an index vector. Fields n [17:17], a [11:6], b [5:0]. -/
  | mgath (n : BitVec 1) (a : BitVec 6) (b : BitVec 6)
  /-- MMA (R420): Performs one matrix step accumulating into a tile. Fields k [16:12], n [11:11]. -/
  | mma (k : BitVec 5) (n : BitVec 1)
  /-- MMAZ (R420): Performs one matrix step onto a zero accumulator. Fields k [16:12], n [11:11]. -/
  | mmaz (k : BitVec 5) (n : BitVec 1)
  /-- MMASK (R415): Writes the row and column limits RLIM and CLIM. Fields r [17:12], c [11:5]. -/
  | mmask (r : BitVec 6) (c : BitVec 7)
  /-- MDRAIN (R422): Pushes the 32 rows of a tile into a result queue. Fields k [16:12], n [11:8]. -/
  | mdrain (k : BitVec 5) (n : BitVec 4)
  /-- MZERO (R422): Zeroes a tile and sets its tag. Fields k [16:12], t [11:8]. -/
  | mzero (k : BitVec 5) (t : BitVec 4)
  /-- MSPILL (R422): Writes a tile's 8,192 bytes to S or global memory. Fields k [16:12], a [11:6]. -/
  | mspill (k : BitVec 5) (a : BitVec 6)
  /-- MFILL (R422): Reads 8,192 bytes into a tile and sets its tag. Fields k [16:12], a [11:6], t [5:2]. -/
  | mfill (k : BitVec 5) (a : BitVec 6) (t : BitVec 4)
  /-- MWAIT (R424): Waits for matrix operations on a tile, or all of them, to complete. Fields k [16:12], x [0:0]. -/
  | mwait (k : BitVec 5) (x : BitVec 1)
  /-- MSTAT (R424): Reports the matrix queue and pending fills. Fields d [17:12]. -/
  | mstat (d : BitVec 6)
  /-- SLOAD (R425): Copies a stream program from S into a stream engine. Fields n [17:16], a [11:6]. -/
  | sload (n : BitVec 2) (a : BitVec 6)
  /-- SGO (R425): Checks and starts a loaded stream program. Fields n [17:16]. -/
  | sgo (n : BitVec 2)
  /-- SSTOP (R425): Stops a running stream engine at its next row boundary. Fields n [17:16]. -/
  | sstop (n : BitVec 2)
  /-- SWAIT (R425): Waits until a stream engine has ended and its last row is done. Fields n [17:16]. -/
  | swait (n : BitVec 2)
  /-- QBIND (R426): Sets the producer, consumer and port binding of a hardware queue. Fields n [17:14], p [13:10], c [9:6], o [5:4]. -/
  | qbind (n : BitVec 4) (p : BitVec 4) (c : BitVec 4) (o : BitVec 2)
  /-- QFLUSH (R426): Discards the items of a bound queue. Fields n [17:14]. -/
  | qflush (n : BitVec 4)
  /-- QSTAT (R426): Reports a queue's count, reservations and binding. Fields d [17:12], n [11:8]. -/
  | qstat (d : BitVec 6) (n : BitVec 4)
  /-- CPY (R428): Issues a copy between spaces on a copy channel. Fields d [17:12], a [11:6], c [5:0]. -/
  | cpy (d : BitVec 6) (a : BitVec 6) (c : BitVec 6)
  /-- CPYP (R430): Issues posts to another task's space or queue. Fields d [17:12], a [11:6], c [5:0]. -/
  | cpyp (d : BitVec 6) (a : BitVec 6) (c : BitVec 6)
  /-- CPYM (R431): Issues one global read delivered to every tile of the gang. Fields d [17:12], a [11:6], c [5:0]. -/
  | cpym (d : BitVec 6) (a : BitVec 6) (c : BitVec 6)
  /-- CWAIT (R432): Waits for a channel's WPOS to reach a value or for all its commands. Fields n [17:17], a [11:6], x [0:0]. -/
  | cwait (n : BitVec 1) (a : BitVec 6) (x : BitVec 1)
  /-- CWPOS (R432): Reports the WPOS a channel will reach after its issued commands. Fields d [17:12], n [11:11]. -/
  | cwpos (d : BitVec 6) (n : BitVec 1)
  /-- SEAMO (R265): Opens a seam set from a descriptor and returns its handle. Fields d [17:12], a [11:6]. -/
  | seamo (d : BitVec 6) (a : BitVec 6)
  /-- SEAMG (R271): Sends a token's gate record to every stripe panel. Fields h [17:12], t [11:6], a [5:0]. -/
  | seamg (h : BitVec 6) (t : BitVec 6) (a : BitVec 6)
  /-- SEAMP (R272): Sends one expert's slab row for a token. Fields h [17:12], t [11:6], a [5:0]. -/
  | seamp (h : BitVec 6) (t : BitVec 6) (a : BitVec 6)
  /-- SEAMC_CLOSE (R283): Closes a seam set after its slots settle and returns RCNT. Fields d [17:12], h [11:6]. -/
  | seamcClose (d : BitVec 6) (h : BitVec 6)
  /-- SEAMC_SETTLE (R283): Settles a HELD slot under ZERO or RENORM. Fields t [17:12], h [11:6]. -/
  | seamcSettle (t : BitVec 6) (h : BitVec 6)
  /-- SEAMS (R282): Returns a seam status word. Fields d [17:12], h [11:6], t [5:0]. -/
  | seams (d : BitVec 6) (h : BitVec 6) (t : BitVec 6)
  /-- WPOP (R434): Pops a work queue into a register pair. Fields d [17:12], n [11:10], b [9:9]. -/
  | wpop (d : BitVec 6) (n : BitVec 2) (b : BitVec 1)
  /-- WPOP_Q (R434): Pops a work queue, pushing outcome and item into a scalar queue. Fields n [11:10], b [9:9], m [7:4]. -/
  | wpopQ (n : BitVec 2) (b : BitVec 1) (m : BitVec 4)
  /-- WPUSH (R435): Pushes an item onto a work queue. Fields d [17:12], a [11:6], n [5:4], b [3:3]. -/
  | wpush (d : BitVec 6) (a : BitVec 6) (n : BitVec 2) (b : BitVec 1)
  /-- WCLOSE (R435): Closes a work queue. Fields n [5:4]. -/
  | wclose (n : BitVec 2)
  /-- COLL (R436): Starts a collective from a descriptor in S. Fields d [17:12], a [11:6]. -/
  | coll (d : BitVec 6) (a : BitVec 6)
  /-- COLLW (R438): Waits for or polls a collective. Fields d [17:12], a [11:6], b [0:0]. -/
  | collw (d : BitVec 6) (a : BitVec 6) (b : BitVec 1)
  /-- LIFE (R439): Sets the lifetime class and extend bit of valid row groups in a range. Fields a [17:12], b [11:6], c [5:4], x [3:3]. -/
  | life (a : BitVec 6) (b : BitVec 6) (c : BitVec 2) (x : BitVec 1)
  /-- REFR (R439): Queues refreshes of valid row groups in a range. Fields a [17:12], b [11:6]. -/
  | refr (a : BitVec 6) (b : BitVec 6)
  /-- AGEQ (R439): Returns the state of one row group. Fields d [17:12], a [11:6]. -/
  | ageq (d : BitVec 6) (a : BitVec 6)
  /-- DMAQ (R440): Queues a COPYH entry on a VF's DMA queue from a command core. Fields d [17:12], a [11:6], b [5:0]. -/
  | dmaq (d : BitVec 6) (a : BitVec 6) (b : BitVec 6)
  /-- NOP (R442): Does nothing. -/
  | nop
  /-- BAR (R444): Ends the task's phase at a level and waits for the barrier. Fields v [1:0]. -/
  | bar (v : BitVec 2)
  /-- BARQ (R446): Requests a barrier arrival without waiting and returns the phase to come. Fields d [17:12], v [1:0]. -/
  | barq (d : BitVec 6) (v : BitVec 2)
  /-- FENCE (R447): Waits until earlier global accesses are performed at a scope. Fields c [2:0]. -/
  | fence (c : BitVec 3)
  /-- CHK (R448): Branches when a register is poisoned or late. Fields k [17:16], r [15:10], i [9:0]. -/
  | chk (k : BitVec 2) (r : BitVec 6) (i : BitVec 10)
  /-- CHKT (R449): Raises the poison trap when a register is poisoned or late. Fields k [17:16], r [15:10]. -/
  | chkt (k : BitVec 2) (r : BitVec 6)
  /-- PCLR (R450): Clears a register's poison bit. Fields k [17:16], r [15:10]. -/
  | pclr (k : BitVec 2) (r : BitVec 6)
  /-- TRAP (R451): Raises the software trap 0x0C. Fields n [11:0]. -/
  | trap (n : BitVec 12)
  /-- TRET (R454): Returns from a trap to TEPC, resetting SFC and resuming halted engines. -/
  | tret
  /-- YIELD (R456): Stops the task at a yield point when a soft yield is pending. -/
  | yield
  /-- SWPT (R457): Chooses a schedule variant at a switch point and continues at its target. Fields k [11:0]. -/
  | swpt (k : BitVec 12)
  /-- DONE (R458): Ends the task once its engines are quiet. -/
  | done
  /-- WAITE (R459): Waits for an enabled event or a time-out. Fields d [17:12], a [11:6], m [5:0]. -/
  | waite (d : BitVec 6) (a : BitVec 6) (m : BitVec 6)
  /-- BRK (R451): Raises the breakpoint trap 0x0D. Fields n [11:0]. -/
  | brk (n : BitVec 12)
  /-- GCOND (R460): Stores a graph condition word with release. Fields a [11:6], b [5:0]. -/
  | gcond (a : BitVec 6) (b : BitVec 6)
  /-- ECALL (R455): Raises the command core's level by one through an environment call. -/
  | ecall
  /-- FRZ (R462): Requests a freeze or a soft yield of a gang. Fields d [17:12], a [11:6], y [0:0]. -/
  | frz (d : BitVec 6) (a : BitVec 6) (y : BitVec 1)
  /-- THAW (R462): Resumes a gang in place or on committed sites. Fields d [17:12], a [11:6], b [5:0]. -/
  | thaw (d : BitVec 6) (a : BitVec 6) (b : BitVec 6)
  /-- PARK (R462): Saves a parked gang's arrays and frees its sites. Fields d [17:12], a [11:6]. -/
  | park (d : BitVec 6) (a : BitVec 6)
  /-- PMPW (R465): Writes a protection window's base and limit in one step. Fields n [17:14], a [11:6], b [5:0]. -/
  | pmpw (n : BitVec 4) (a : BitVec 6) (b : BitVec 6)
  /-- TLBI (R466): Invalidates translations of a range across the partition. Fields a [11:6], b [5:0]. -/
  | tlbi (a : BitVec 6) (b : BitVec 6)
  /-- KEYL (R467): Loads a key into a key slot and erases it from core memory. Fields a [11:6], b [5:0]. -/
  | keyl (a : BitVec 6) (b : BitVec 6)
  /-- SLOTB (R468): Installs a resident-model slot record. Fields d [17:12], a [11:6], b [5:0]. -/
  | slotb (d : BitVec 6) (a : BitVec 6) (b : BitVec 6)
  /-- SITEQ (R464): Reports the state of a site. Fields d [17:12], a [11:6]. -/
  | siteq (d : BitVec 6) (a : BitVec 6)
  /-- SITEC (R463): Holds, commits or releases a rectangle of sites. Fields d [17:12], a [11:6], b [5:0]. -/
  | sitec (d : BitVec 6) (a : BitVec 6) (b : BitVec 6)
  /-- QCBB (R469): Carries out a queue-bind request from a command core. Fields d [17:12], a [11:6], b [5:0]. -/
  | qcbb (d : BitVec 6) (a : BitVec 6) (b : BitVec 6)
  /-- HALT (R470): Stops the command core, which the watchdog then restarts. -/
  | halt
  /-- BH (R323): Bundle header giving an optional stamp and numerics profile. Fields s [25:25], v [24:24], p [23:16], t [15:0]. -/
  | bh (s : BitVec 1) (v : BitVec 1) (p : BitVec 8) (t : BitVec 16)
  /-- KX (R316): Extends the immediate of the preceding word. Fields i [25:0]. -/
  | kx (i : BitVec 26)
  /-- COLD_START (R36): Power-on or PCIe fundamental reset runs the boot ROM and the cold-start bring-up steps, leaving state as Table 2-5 gives. -/
  | coldStart
  /-- BSTAT_GO (R35): A host write of 1 to BSTAT.GO in phase 1 checks the recovery window and, on success, writes the image to flash and boots it; otherwise it records FAIL. -/
  | bstatGo
  /-- WSREQ_GO (R39): A host write of 1 to WSREQ.GO with no request outstanding asks the monitor for a warm start and sets RES to 3. -/
  | wsreqGo
  /-- WARM_START_DECISION (R39): Within 10 ms the monitor accepts the warm start (RES 1) or refuses it because a preserve partition has an admitted launch (RES 2). -/
  | warmStartDecision
  /-- DIE_READY (R37): When a die's HBM channels are trained and zeroed and its self-test passes, the monitor sets its DIERDY bit and its panels accept launches in reduced service. `Arg`: die in a, pass in b. -/
  | dieReady
  /-- CALIBRATION_COMPLETE (R42): On completion of a die's retention calibration the monitor writes TEMPTAB, restores FMASK, sets DIECAL, resets row-group ages and posts event 0x0011. `Arg`: die in a, limits in dwords. -/
  | calibrationComplete
  /-- SVNUP_WRITE (R34): A level-2 write to SVNUP raises MINSVN to the written value when it is above MINSVN and no higher than the running image's SVN; otherwise it is ignored. `Arg`: panel in a, v in v. -/
  | svnupWrite
  /-- ATTESTATION_REQUEST (R44): A DOE object of type 0x01 is answered within 50 ms with a signed attestation report, or a malformed-flagged unsigned one for a bad payload length. `Arg`: payload in bytes. -/
  | attestationRequest
  /-- CERTIFICATE_REQUEST (R44): A DOE object of type 0x02 is answered within 50 ms with the identity certificate. -/
  | certificateRequest
  /-- UCIE_LINK_FAILURE (R17): A die-to-die link that cannot be repaired at training leaves both of its dies in reduced service. `Arg`: dieA in a, dieB in b. -/
  | ucieLinkFailure
  /-- UALINK_LANE_FAILURE (R22): A UALink port with a failed lane trains at x2 and reports the reduced width to the monitor. `Arg`: port in a. -/
  | ualinkLaneFailure
  /-- LAUNCH_PACKET (R26): A launch packet arriving over UALink or Ultra Ethernet is checked for form, sender, sequence and residency, and is accepted, refused, or answered as a duplicate or out of sequence. `Arg`: port in a, addr in b, msg in bytes. -/
  | launchPacket
  /-- LAUNCH_PACKET_RECHECK (R27): A launch packet waiting on a LOADING slot is checked again when the load ends, and its report is then sent. `Arg`: part in a. -/
  | launchPacketRecheck
  /-- FORWARDED_WRITE (R114): A forwarded-write message at the destination stores VALUE at the word with release, in SEQ order, ignoring stale or unmatched messages. `Arg`: part in a, msg in bytes. -/
  | forwardedWrite
  /-- FORWARD_END (R113): A forward-end message ends a forwarding entry at the source, posts event 0x0061 and unallocates its regions. `Arg`: part in a, msg in bytes. -/
  | forwardEnd
  /-- REMOTE_WRITE (R22): A remote write from another package is performed as completer, and after MCUT is forwarded for a forwarded word. `Arg`: part in a, addr in b, data in bytes. -/
  | remoteWrite
  /-- REMOTE_READ (R429): A remote read from another package is served only from a SHARED_RO region and refused otherwise. `Arg`: part in a, addr in b, len in c. -/
  | remoteRead
  /-- SENSOR_SAMPLE (R31): Every 10 us the sensors are sampled and the power manager updates caps, grants, retention bands and stack derate states. `Arg`: panelT in ints, stackT in ints2, watts in a. -/
  | sensorSample
  /-- CLOCK_RESTART (R149): After a grant change the die clock restarts and GLVL and PWGNT take the new level on that cycle. `Arg`: die in a. -/
  | clockRestart
  /-- DOORBELL (R49): A doorbell write makes the command core re-read TAIL from the QCB, or is recorded for a queue that is not BOUND. `Arg`: vfn in a, qidx in b. -/
  | doorbell
  /-- NOP_COMMAND (R75): Command NOP completes at once when it starts. `Arg`: vfn in a, qidx in b. -/
  | nopCommand
  /-- INVOKE (R61): Command INVOKE passes the residency check and is accepted as a launch of a resident-model slot with up to 16 buffer addresses. `Arg`: vfn in a, qidx in b. -/
  | invoke
  /-- LOADSLOT (R66): Command LOADSLOT holds the image and weight regions and begins loading a slot from local HBM or the fabric. `Arg`: vfn in a, qidx in b. -/
  | loadslot
  /-- UNLOADSLOT (R68): Command UNLOADSLOT moves a RESIDENT slot to UNLOADING; its record follows when the slot becomes EMPTY. `Arg`: vfn in a, qidx in b. -/
  | unloadslot
  /-- SWAPWEIGHTS (R69): Command SWAPWEIGHTS makes a new weight generation current, waiting while four generations are live. `Arg`: vfn in a, qidx in b. -/
  | swapweights
  /-- GRAPH (R71): Command GRAPH starts a resident task graph from its descriptor under the residency check. `Arg`: vfn in a, qidx in b. -/
  | graph
  /-- COPYH (R76): Command COPYH copies between host memory and HBM after checking region states, holding FREE regions IN_TRANSFER. `Arg`: vfn in a, qidx in b. -/
  | copyh
  /-- SIGNAL (R72): Command SIGNAL signals a semaphore or stores a value to a signal word with release. `Arg`: vfn in a, qidx in b. -/
  | signal
  /-- WAIT (R73): Command WAIT blocks its queue until a semaphore count or signal-word condition holds, or a time-out. `Arg`: vfn in a, qidx in b. -/
  | wait
  /-- FENCE_COMMAND (R74): Command FENCE starts when every earlier command of its queue has completed, and later entries start only after it. `Arg`: vfn in a, qidx in b. -/
  | fenceCommand
  /-- MARK (R75): Command MARK completes when every earlier command of its queue has started, echoing its value as INVID. `Arg`: vfn in a, qidx in b. -/
  | mark
  /-- WAIT_SATISFIED (R73): A pending WAIT whose condition comes to hold takes its count and completes, letting its queue go on. `Arg`: vfn in a, qidx in b. -/
  | waitSatisfied
  /-- WAIT_TIMEOUT (R73): A pending WAIT whose time-out expires completes with STATUS 7 and takes nothing. `Arg`: vfn in a, qidx in b. -/
  | waitTimeout
  /-- CCONS_POLL (R52): While a completion ring is full the command core re-reads CCONS every 1 us and resumes when space exists. `Arg`: vfn in a, qidx in b. -/
  | cconsPoll
  /-- COPYH_DONE (R77): A host copy completes, returning held regions to FREE with release and writing its record. `Arg`: copy in a. -/
  | copyhDone
  /-- PAGE_REQUEST_RESPONSE (R78): A PRI response for a host page resumes the copy or, when refused, ends it with STATUS 8. `Arg`: copy in a, granted in b. -/
  | pageRequestResponse
  /-- SLOT_LOAD_DONE (R65): A slot load ends: an accepted image makes the slot RESIDENT with generation 1, a rejected image or failed fabric read returns it to EMPTY. `Arg`: vfn in a, slot in b, failed in c. -/
  | slotLoadDone
  /-- GENERATION_RETIRED (R69): A non-current generation whose invocations have all completed retires, freeing its regions and writing the pending SWAPWEIGHTS or UNLOADSLOT record. `Arg`: vfn in a, slot in b, gen in c. -/
  | generationRetired
  /-- BIND (R55): QBREQ operation BIND reads and caches a valid QCB and moves the queue from UNBOUND to BOUND. `Arg`: req in v. -/
  | bind
  /-- REBIND (R55): QBREQ operation REBIND returns a DETACHED or ERROR queue to BOUND if bytes 0-47 match the cache, else refuses with cause 4. `Arg`: req in v. -/
  | rebind
  /-- DETACH (R55): QBREQ operation DETACH stops a BOUND queue starting new commands and records its doorbells. `Arg`: req in v. -/
  | detach
  /-- RELEASE (R55): QBREQ operation RELEASE discards the cache of a DETACHED or ERROR queue with no started command outstanding. `Arg`: req in v. -/
  | release
  /-- HANDLE_COMMIT (R79): Writing 1 to HBCTL.COMMIT copies the staged base, length, RD, WR and PASID into buffer handle HBIDX. `Arg`: vfn in a, ctl in v. -/
  | handleCommit
  /-- PCREATE (R90): Monitor operation PCREATE forms a partition from a panel mask with an empty region table and cleared counters. -/
  | pcreate
  /-- PDESTROY (R90): Monitor operation PDESTROY destroys every VF of the partition, clears its counters, zeroes local state and frees its panels. -/
  | pdestroy
  /-- PSEND (R89): Monitor operation PSEND writes or clears an entry of the partition's authorised-sender list. -/
  | psend
  /-- PMARK (R89): Monitor operation PMARK sets or clears a partition's preserve mark. -/
  | pmark
  /-- PFAB (R89): Monitor operation PFAB writes or clears an entry of the partition's fabric node table. -/
  | pfab
  /-- VFCREATE (R91): Monitor operation VFCREATE forms a VF with its quotas, key, semaphore map and save area. -/
  | vfcreate
  /-- VFDESTROY (R97): Monitor operation VFDESTROY stops, freezes and discards the VF's work, aborts its commands, erases its key and unallocates everything. -/
  | vfdestroy
  /-- VFQUOTA (R92): Monitor operation VFQUOTA replaces a VF's quotas after checking the partition sums. -/
  | vfquota
  /-- VFKEY (R99): Monitor operation VFKEY places a new key in the VF's slot when it holds no regions beyond its save area. -/
  | vfkey
  /-- VFALLOC (R94): Monitor operation VFALLOC allocates, maps and zeroes regions for a VF, interleaved over its channels. -/
  | vfalloc
  /-- VFALLOC_ZEROED (R101): VFALLOC writes its result when every region of the range has been zeroed. -/
  | vfallocZeroed
  /-- VFFREE (R94): Monitor operation VFFREE returns FREE regions of the VF to UNALLOC and unmaps them. -/
  | vffree
  /-- MSTART (R111): Migration operation MSTART moves the VF to TRACK and starts dirty tracking. -/
  | mstart
  /-- MSNAP (R111): Migration operation MSNAP writes the dirty bitmap to the host buffer and clears it. -/
  | msnap
  /-- MQUIESCE (R111): Migration operation MQUIESCE stops the VF's commands and holds its launches at their next level-2 barrier. -/
  | mquiesce
  /-- QUIESCE_COMPLETE (R111): When every launch of a quiescing VF is held or done, the VF becomes QUIESCED and event 0x0060 follows. `Arg`: vfn in a. -/
  | quiesceComplete
  /-- MQUIESCE_TIMEOUT (R111): An MQUIESCE whose time limit expires is refused with cause 1 and the VF returns to TRACK. `Arg`: vfn in a. -/
  | mquiesceTimeout
  /-- MCUT (R113): Migration operation MCUT creates forwarding entries for forwardable WAITs and cuts the VF over, or refuses. -/
  | mcut
  /-- MSAVE (R112): Migration operation MSAVE writes the VF's state record to the host buffer. -/
  | msave
  /-- MRESTORE (R112): Migration operation MRESTORE restores a state record into a destination VF, leaving its queues DETACHED. -/
  | mrestore
  /-- MRELAY (R111): Migration operation MRELAY begins relaying forwarded writes and destroys the source VF except forwarded words. -/
  | mrelay
  /-- MFWDC (R113): Migration operation MFWDC cancels a forwarding entry, posting event 0x0061. -/
  | mfwdc
  /-- MABORT (R111): Migration operation MABORT returns the VF to NORMAL, discarding entries and resuming launches and queues. -/
  | mabort
  /-- VF_COUNT_LOWERED (R91): When the host lowers the SR-IOV VF count below a VFN, that VF is destroyed as by VFDESTROY. `Arg`: count in a. -/
  | vfCountLowered
  /-- WATCHDOG_EXPIRY (R110): WDCNT reaching zero reloads from WDPER and raises the watchdog interrupt, or restarts the core if it was still pending. `Arg`: panel in a. -/
  | watchdogExpiry
  /-- WDACK (R110): Any write to WDACK clears the pending watchdog interrupt. `Arg`: panel in a. -/
  | wdack
  /-- TEMPTAB_WRITE (R220): A monitor write to TT0-TT5 stores each field clamped to its floor and 4,000 ticks, effective at the next tick. `Arg`: panel in a, n in b, v in v. -/
  | temptabWrite
  /-- SLCTL_WRITE (R128): A write to SLCTL takes effect at the next slice boundary, or makes a boundary at once when no slice was running and it enables a valid table. `Arg`: panel in a, v in v. -/
  | slctlWrite
  /-- PTROOT_WRITE (R242): A lead-core level-2 write to PTROOT sets the table root and invalidates every TLB and walk cache of the partition. `Arg`: panel in a, v in v. -/
  | ptrootWrite
  /-- FLTR_SUPPLY (R248): FLTR with GO and REF 0 makes the walker walk again, resolving the fault record on a permitting leaf or refusing it. `Arg`: panel in a, cnt in b. -/
  | fltrSupply
  /-- FLTR_REFUSE (R248): FLTR with GO and REF 1 refuses the fault record, ending the launch or the copy. `Arg`: panel in a, cnt in b. -/
  | fltrRefuse
  /-- PAGE_WALK (R240): A panel walker completes a four-level walk, ending in a permitting leaf or a failed walk. `Arg`: agent in a, eng in b, va in c, acc in d. -/
  | pageWalk
  /-- SCHEDULER_SELECTION (R126): When sites are free for a pending gang, the scheduler selects a head launch by priority, age and round robin and places one gang. `Arg`: part in a. -/
  | schedulerSelection
  /-- RESERVATION_RETRY (R123): After a refused hold, the reservation retries once its deterministic back-off of 64 x 2^n cycles expires. `Arg`: launch in a, gang in b. -/
  | reservationRetry
  /-- SLICE_BOUNDARY (R129): At the end of a quantum the device sets CUR, raises event SL, stops the outgoing VF's queues and starts the incoming VF's. `Arg`: part in a. -/
  | sliceBoundary
  /-- RESIDENCY_ROTATION (R143): After a launch's admitted gangs have all been blocked for 50 us, the oldest-blocked gang is yielded or frozen and an undispatched gang admitted. `Arg`: launch in a. -/
  | residencyRotation
  /-- YIELD_DEADLINE (R182): A gang asked to yield that has not yielded 20 us after the request is frozen. `Arg`: launch in a, gang in b. -/
  | yieldDeadline
  /-- YIELD_COMPLETE (R183): When every task of a yielding gang has stopped with quiet engines, each writes a yield record and its site becomes PARKED. `Arg`: launch in a, gang in b. -/
  | yieldComplete
  /-- BARRIER_ARRIVAL (R261): A task's arrival at a barrier is recorded once its earlier posts are written and its ownership releases completed. `Arg`: tile in a, level in b. -/
  | barrierArrival
  /-- GRAPH_NODE_RUN (R140): A graph node that has received its awaited completions runs as a launch, copy, signal, conditional or while node. `Arg`: run in a, node in b. -/
  | graphNodeRun
  /-- GRAPH_DEADLINE_OVERRUN (R141): A node's deadline counter passing DLINE counts one overrun for that activation without stopping the node. `Arg`: run in a, node in b. -/
  | graphDeadlineOverrun
  /-- SCAN_OUT_COMPLETE (R166): A frozen tile's scan-out ends and its shadow image lies in its save slot; the task becomes PARKED. `Arg`: tile in a. -/
  | scanOutComplete
  /-- INBOX_HELD_DELIVERY (R174): A held post to a hardware queue that had no room is delivered once the queue has room, followed by the packets then next. `Arg`: tile in a. -/
  | inboxHeldDelivery
  /-- PACKET_RESEND (R172): A request packet refused with a retry response is sent again by its source engine 256 die cycles later. `Arg`: tile in a. -/
  | packetResend
  /-- STREAM_ROW_TRANSFER (R206): A running stream engine moves one row between a space and its queue when the queue has room or data. `Arg`: tile in a, n in b. -/
  | streamRowTransfer
  /-- COPY_CHANNEL_TRANSFER (R209): A copy channel writes the next part of its current command in address order and advances WPOS. `Arg`: tile in a, n in b. -/
  | copyChannelTransfer
  /-- POST_ARRIVAL (R204): An inbound post is written whole at its destination, or refused with retry for a full queue, or discarded for an unbound queue. `Arg`: tile in a. -/
  | postArrival
  /-- LATCH_FILL (R418): The gather unit completes a fill of an A-latch buffer from S or A. `Arg`: tile in a. -/
  | latchFill
  /-- MATRIX_OP_COMPLETE (R423): A queued matrix operation completes its step, drain, zeroing, spill or fill. `Arg`: tile in a. -/
  | matrixOpComplete
  /-- LIFETIME_TICK (R219): Every 500 ns each running tile's valid row groups age by one tick. -/
  | lifetimeTick
  /-- ROW_GROUP_EXPIRY (R223): A row group whose age reaches its class limit is extended to LC3 if X is set, else made invalid with CLR set and the expiry logged in LSTAT. `Arg`: tile in a, grp in b. -/
  | rowGroupExpiry
  /-- REFRESH_QUEUED (R223): A held row group whose age reaches the refresh interval is queued for refresh. `Arg`: tile in a, grp in b. -/
  | refreshQueued
  /-- ROW_GROUP_REFRESH (R224): The refresh engine restores a queued row group in place and sets its age to 0 within 1 us of its tick. `Arg`: tile in a, grp in b. -/
  | rowGroupRefresh
  /-- ROW_GROUP_CLEAR (R228): The refresh engine clears a row group with CLR set to zero, releasing any write that waits on it. `Arg`: tile in a, grp in b. -/
  | rowGroupClear
  /-- ELD3_READ (R235): Reading ELD3 returns entry bytes 24-31 and marks the selected entry read. `Arg`: panel in a. -/
  | eld3Read
  /-- ELCLR (R235): Writing 1 to ELCLR clears every entry of the panel log, CE, UE, LOST and NEXT. `Arg`: panel in a, v in v. -/
  | elclr
  /-- EINJC_WRITE (R238): A level-2 write to EINJC arms an error injection into the next write of the named word, or is ignored for a bad ARY or SITE. `Arg`: panel in a, v in v. -/
  | einjcWrite
  /-- ELQSEL_WRITE (R237): A host write to ELQSEL sets BUSY and asks the monitor for an entry of a log. `Arg`: v in v. -/
  | elqselWrite
  /-- LOG_QUERY_DONE (R237): Within 10 us the monitor copies the entry and ELCNT into the window and clears BUSY. -/
  | logQueryDone
  /-- ELQD3_READ (R237): Reading ELQD3 returns entry bytes 24-31 and marks the entry read. -/
  | elqd3Read
  /-- ELQCLR (R237): Writing 1 to ELQCLR clears the log named by ELQSEL.LOG. `Arg`: v in v. -/
  | elqclr
  /-- OWNERSHIP_REPLY (R368): The home's reply to an ownership word arrives, completing the word and its bundle or trapping with no effect. `Arg`: tile in a. -/
  | ownershipReply
  /-- GATE_RECORD_ARRIVAL (R271): A stripe panel classifies a gate record: stored making the slot GATED, counted as duplicate or late, or refused with retry. `Arg`: panel in a. -/
  | gateRecordArrival
  /-- PUT_ARRIVAL (R272): A stripe panel classifies a put by Table 11-4: stored setting its bit, counted as stray, late or duplicate, or refused with retry. `Arg`: panel in a. -/
  | putArrival
  /-- SEAM_RESEND (R273): A refused seam packet is resent 256 die cycles after the refusal, in number order. `Arg`: tile in a. -/
  | seamResend
  /-- SEAM_TIMEOUT (R278): A slot timer firing settles the slot under ZERO or RENORM, or makes it HELD with trap 0x0A under FAULT. `Arg`: panel in a, sidx in b, slot in c. -/
  | seamTimeout
  /-- SLOT_RELEASE (R276): A settled slot is combined and written to its destination in turn, raising RCNT and freeing the slot for its next token. `Arg`: panel in a, sidx in b, slot in c. -/
  | slotRelease
  /-- SEAM_REFILL (R285): Before a task of the owning launch next issues, a spilled set is refilled into a set index of its stripe panels. `Arg`: panel in a, sidx in b. -/
  | seamRefill
  /-- COLLECTIVE_COMPLETE (R437): The collective service finishes a collective, writing results and returning its buffers to OWNED. `Arg`: coll in a. -/
  | collectiveComplete
  /-- TASK_DONE (R458): A task that issued DONE finishes once its engines are quiet, and its gang or launch may then end. `Arg`: tile in a. -/
  | taskDone
  /-- WAITE_TIMEOUT (R459): A WAITE whose time-out expires returns with the time-out flag set. `Arg`: agent in a. -/
  | waiteTimeout
  /-- REGISTER_WRITE (R4): A write to a register with no behaviour of its own stores its RW fields and ignores RO and reserved ones. `Arg`: fn in a, off in b, v in v. -/
  | registerWrite
  /-- MEMORY_RESPONSE (R363): The home returns the result of a global load, AMO or CAS, which is written into its destination register (poisoned on an uncorrectable error) and releases readers held by the scoreboard. `Arg`: agent in a. -/
  | memoryResponse
  /-- FABRIC_TRANSPORT_FAILURE (R429): A transport failure reported by UALink or Ultra Ethernet during a fabric-source copy ends the launch with STATUS 12 and DETAIL 0. `Arg`: tile in a, n in b. -/
  | fabricTransportFailure
  /-- SRIOV_VF_ENABLE (R91): The host enables VFs through SR-IOV, after which each enabled VF has its doorbell page and may be created by VFCREATE. `Arg`: count in a. -/
  | sriovVfEnable
  deriving DecidableEq, Repr

/-- An instruction word with the fields every word has (R314): L closes the bundle, G is the guard. A K
word has no guard (R314): `guard` is 0 there. -/
structure Word where
  last  : Bool
  guard : BitVec 4
  instr : Instr
  deriving DecidableEq, Repr

end Sys2Proof
end

