-- ==== Sys2Proof/WellFormed.lean ====
section
/-!
DEFINITION. Well-formed instructions: the limits the spec sets on the operand bits alone, which a reserved
bit test of the decoder does not see (13_instruction_encoding R315, R320 step 3, and the limits stated with
each word in chapters 14 to 18). A word that breaks one raises illegal instruction (0x01). For the steps
that have no word the limits are the ranges of the units they name.
-/
namespace Sys2Proof

/-- PMOV (R346): K is 0 to 2, and a field that names a predicate has its top two bits zero. -/
def Limits.pmov (d a : BitVec 6) (k : BitVec 2) : Bool :=
  match k.toNat with
  | 0 => decide (d < 16) && decide (a < 16)
  | 1 => decide (d < 16)
  | 2 => decide (a < 16)
  | _ => false

/-- A field that names the even register of a scalar or vector pair (R366, R402, R434). -/
def Limits.evenPair (d : BitVec 6) : Bool := decide (d.toNat % 2 = 0) && decide (d ≤ 58)

/-- A type code an accumulator tag may hold (R195): not 10, 14 or 15. -/
def Limits.heldTag (t : BitVec 4) : Bool := decide (t ≠ 10) && decide (t < 14)

/-- A type code VCVT may name as its source (R395): not 3, 10, 14 or 15. -/
def Limits.tagType (t : BitVec 4) : Bool := decide (t ≠ 3) && Limits.heldTag t

/-- An operand pair of Table 17-4. -/
def Limits.mmaPair (a b : BitVec 4) : Bool :=
  match a.toNat, b.toNat with
  | 9, 9 => true
  | 8, 8 => true
  | 6, 6 => true
  | 7, 7 => true
  | 4, 4 => true
  | 4, 5 => true
  | 5, 4 => true
  | 5, 5 => true
  | 0, 0 => true
  | 10, 10 => true
  | _, _ => false

/-- Producer codes of Table 17-7. -/
def Limits.producer (n p : Nat) : Bool :=
  if p = 0 then true
  else if p ≤ 4 then decide (n < 8) || decide (12 ≤ n)
  else if p ≤ 7 then decide (n < 8)
  else if p = 8 then decide (n < 8) || decide (12 ≤ n)
  else if p = 9 then decide (8 ≤ n) && decide (n < 12)
  else if p ≤ 11 then decide (12 ≤ n)
  else false

/-- Consumer codes of Table 17-7. -/
def Limits.consumer (n c : Nat) : Bool :=
  if c ≤ 5 then true else if c ≤ 7 then decide (n < 12) else false

/-- QBIND (R426): codes Table 17-7 allows, a zero port field when neither side is the task, and not both
sides the task. -/
def Limits.qbind (n p c : BitVec 4) (o : BitVec 2) : Bool :=
  Limits.producer n.toNat p.toNat && Limits.consumer n.toNat c.toNat &&
    (decide (p = 8) || decide (c = 5) || decide (o = 0)) && !(decide (p = 8) && decide (c = 5))

/-- CHK, CHKT, PCLR (R442, Table 18-1): no port, K not 3, a predicate below 16. -/
def Limits.checkReg (k : BitVec 2) (r : BitVec 6) : Bool :=
  match k.toNat with
  | 0 => decide (r < 60)
  | 1 => decide (r < 60)
  | 2 => decide (r < 16)
  | _ => false

/-- BH (R323): STAMP zero without SV, PROF zero without PV, PROF at most 7. -/
def Limits.header (s v : BitVec 1) (p : BitVec 8) (t : BitVec 16) : Bool :=
  (decide (s = 1) || decide (t = 0)) && (decide (v = 1) || decide (p = 0)) && decide (p ≤ 7)

/-- The limits on an instruction's operands. -/
def Instr.wellFormed (i : Instr) : Bool :=
  match i with
  | .add _ _ _ => true
  | .addi _ _ _ => true
  | .sub _ _ _ => true
  | .mul _ _ _ => true
  | .mulh _ _ _ => true
  | .mulhu _ _ _ => true
  | .div _ _ _ => true
  | .divu _ _ _ => true
  | .rem _ _ _ => true
  | .remu _ _ _ => true
  | .and _ _ _ => true
  | .andi _ _ _ => true
  | .or _ _ _ => true
  | .ori _ _ _ => true
  | .xor _ _ _ => true
  | .xori _ _ _ => true
  | .shl _ _ _ => true
  | .shli _ _ _ => true
  | .shr _ _ _ => true
  | .shri _ _ _ => true
  | .sra _ _ _ => true
  | .srai _ _ _ => true
  | .clz _ _ => true
  | .popc _ _ => true
  | .min _ _ _ => true
  | .max _ _ _ => true
  | .minu _ _ _ => true
  | .maxu _ _ _ => true
  | .sel _ _ _ _ => true
  | .li _ _ => true
  | .addx _ _ _ => true
  | .cmpEq p _ _ => p ≠ 0
  | .cmpNe p _ _ => p ≠ 0
  | .cmpLt p _ _ => p ≠ 0
  | .cmpLe p _ _ => p ≠ 0
  | .cmpLtu p _ _ => p ≠ 0
  | .cmpLeu p _ _ => p ≠ 0
  | .cmpiEq p _ _ => p ≠ 0
  | .cmpiNe p _ _ => p ≠ 0
  | .cmpiLt p _ _ => p ≠ 0
  | .cmpiLe p _ _ => p ≠ 0
  | .cmpiLtu p _ _ => p ≠ 0
  | .cmpiLeu p _ _ => p ≠ 0
  | .pset _ _ _ _ => true
  | .pmov d a k => Limits.pmov d a k
  | .br _ => true
  | .call _ => true
  | .ret => true
  | .jr _ _ => true
  | .bq _ _ _ => true
  | .loop _ _ e => 2 ≤ e
  | .loopi _ _ e => 2 ≤ e
  | .csrr _ _ => true
  | .csrw _ _ => true
  | .csrs _ _ => true
  | .csrc _ _ => true
  | .ldb _ _ _ _ => true
  | .ldbu _ _ _ _ => true
  | .ldh _ _ _ _ => true
  | .ldhu _ _ _ _ => true
  | .ldw _ _ _ _ => true
  | .ldwu _ _ _ _ => true
  | .ldd _ _ _ _ => true
  | .stb _ _ _ => true
  | .sth _ _ _ => true
  | .stw _ _ _ => true
  | .std _ _ _ => true
  | .ldv _ _ _ _ => true
  | .stv _ _ _ => true
  | .amo _ _ f _ => f ≤ 8
  | .cas d _ _ => Limits.evenPair d
  | .ownx _ _ => true
  | .owna _ => true
  | .owns _ _ => true
  | .ownf _ => true
  | .ownq _ _ => true
  | .semsig _ _ => true
  | .semwait _ _ => true
  | .semtry _ _ _ => true
  | .prefg _ _ => true
  | .vadd _ _ _ => true
  | .vsub _ _ _ => true
  | .vmul _ _ _ => true
  | .vfma _ _ _ => true
  | .vfms _ _ _ => true
  | .vmin _ _ _ => true
  | .vmax _ _ _ => true
  | .vabs _ _ => true
  | .vneg _ _ => true
  | .vand _ _ _ => true
  | .vor _ _ _ => true
  | .vxor _ _ _ => true
  | .vnot _ _ => true
  | .vshl _ _ _ => true
  | .vshr _ _ _ => true
  | .vsra _ _ _ => true
  | .vrshr _ a n _ => n = 0 ∨ a ≤ 58
  | .vcmp _ _ _ => true
  | .vsel _ _ _ => true
  | .vmov _ _ => true
  | .vzero _ => true
  | .vbcast _ _ => true
  | .vext _ _ _ => true
  | .vins _ _ _ => true
  | .vslide _ _ _ => true
  | .vslidei _ a _ z _ => z = 1 ∨ a ≤ 58
  | .vperm _ _ _ => true
  | .viota _ _ => true
  | .vred _ _ f => f ≠ 3
  | .vmac2 _ _ _ => true
  | .vdot4 _ _ _ => true
  | .vcvt _ _ t _ => Limits.tagType t
  | .vcvts _ _ _ => true
  | .vtype _ t => Limits.heldTag t
  | .vwin s v => s ≠ 2 ∨ v ≤ 3
  | .fexp2 _ _ => true
  | .flog2 _ _ => true
  | .frcp _ _ => true
  | .frsq _ _ => true
  | .fsqrt _ _ => true
  | .ftanh _ _ => true
  | .fsigm _ _ => true
  | .ferf _ _ => true
  | .rng _ => true
  | .vpart _ _ _ => true
  | .vtopk _ _ k s => k.toNat + 1 ≤ 2 ^ s.toNat
  | .mxq _ _ _ => true
  | .mxd _ _ _ => true
  | .fscale _ _ _ => true
  | .fclass _ _ => true
  | .fminmaxn d _ _ => Limits.evenPair d
  | .mcfgT a b => Limits.mmaPair a b
  | .mcfgW _ => true
  | .mlda _ _ _ => true
  | .mgath _ _ _ => true
  | .mma _ _ => true
  | .mmaz _ _ => true
  | .mmask r c => r ≤ 32 ∧ c ≤ 64
  | .mdrain _ n => 8 ≤ n ∧ n ≤ 11
  | .mzero _ t => Limits.heldTag t
  | .mspill _ _ => true
  | .mfill _ _ t => Limits.heldTag t
  | .mwait k x => x = 0 ∨ k = 0
  | .mstat _ => true
  | .sload _ _ => true
  | .sgo _ => true
  | .sstop _ => true
  | .swait _ => true
  | .qbind n p c o => Limits.qbind n p c o
  | .qflush _ => true
  | .qstat _ _ => true
  | .cpy _ _ _ => true
  | .cpyp _ _ _ => true
  | .cpym _ _ _ => true
  | .cwait _ a x => x = 0 ∨ a = 0
  | .cwpos _ _ => true
  | .seamo _ _ => true
  | .seamg _ _ _ => true
  | .seamp _ _ _ => true
  | .seamcClose _ _ => true
  | .seamcSettle _ _ => true
  | .seams _ _ _ => true
  | .wpop d _ _ => Limits.evenPair d
  | .wpopQ _ _ m => 12 ≤ m
  | .wpush _ _ _ _ => true
  | .wclose _ => true
  | .coll _ _ => true
  | .collw _ _ _ => true
  | .life _ _ _ _ => true
  | .refr _ _ => true
  | .ageq _ _ => true
  | .dmaq _ _ _ => true
  | .nop => true
  | .bar _ => true
  | .barq _ _ => true
  | .fence c => c ≤ 4
  | .chk k r _ => Limits.checkReg k r
  | .chkt k r => Limits.checkReg k r
  | .pclr k r => Limits.checkReg k r
  | .trap _ => true
  | .tret => true
  | .yield => true
  | .swpt k => k ≤ 255
  | .done => true
  | .waite _ _ m => m.getLsbD 5 = false
  | .brk _ => true
  | .gcond _ _ => true
  | .ecall => true
  | .frz _ _ _ => true
  | .thaw _ _ _ => true
  | .park _ _ => true
  | .pmpw _ _ _ => true
  | .tlbi _ _ => true
  | .keyl _ _ => true
  | .slotb _ _ _ => true
  | .siteq _ _ => true
  | .sitec _ _ _ => true
  | .qcbb _ _ _ => true
  | .halt => true
  | .bh s v p t => Limits.header s v p t
  | .kx _ => true
  | .coldStart => true
  | .bstatGo => true
  | .wsreqGo => true
  | .warmStartDecision => true
  | .dieReady => true
  | .calibrationComplete => true
  | .svnupWrite => true
  | .attestationRequest => true
  | .certificateRequest => true
  | .ucieLinkFailure => true
  | .ualinkLaneFailure => true
  | .launchPacket => true
  | .launchPacketRecheck => true
  | .forwardedWrite => true
  | .forwardEnd => true
  | .remoteWrite => true
  | .remoteRead => true
  | .sensorSample => true
  | .clockRestart => true
  | .doorbell => true
  | .nopCommand => true
  | .invoke => true
  | .loadslot => true
  | .unloadslot => true
  | .swapweights => true
  | .graph => true
  | .copyh => true
  | .signal => true
  | .wait => true
  | .fenceCommand => true
  | .mark => true
  | .waitSatisfied => true
  | .waitTimeout => true
  | .cconsPoll => true
  | .copyhDone => true
  | .pageRequestResponse => true
  | .slotLoadDone => true
  | .generationRetired => true
  | .bind => true
  | .rebind => true
  | .detach => true
  | .release => true
  | .handleCommit => true
  | .pcreate => true
  | .pdestroy => true
  | .psend => true
  | .pmark => true
  | .pfab => true
  | .vfcreate => true
  | .vfdestroy => true
  | .vfquota => true
  | .vfkey => true
  | .vfalloc => true
  | .vfallocZeroed => true
  | .vffree => true
  | .mstart => true
  | .msnap => true
  | .mquiesce => true
  | .quiesceComplete => true
  | .mquiesceTimeout => true
  | .mcut => true
  | .msave => true
  | .mrestore => true
  | .mrelay => true
  | .mfwdc => true
  | .mabort => true
  | .vfCountLowered => true
  | .watchdogExpiry => true
  | .wdack => true
  | .temptabWrite => true
  | .slctlWrite => true
  | .ptrootWrite => true
  | .fltrSupply => true
  | .fltrRefuse => true
  | .pageWalk => true
  | .schedulerSelection => true
  | .reservationRetry => true
  | .sliceBoundary => true
  | .residencyRotation => true
  | .yieldDeadline => true
  | .yieldComplete => true
  | .barrierArrival => true
  | .graphNodeRun => true
  | .graphDeadlineOverrun => true
  | .scanOutComplete => true
  | .inboxHeldDelivery => true
  | .packetResend => true
  | .streamRowTransfer => true
  | .copyChannelTransfer => true
  | .postArrival => true
  | .latchFill => true
  | .matrixOpComplete => true
  | .lifetimeTick => true
  | .rowGroupExpiry => true
  | .refreshQueued => true
  | .rowGroupRefresh => true
  | .rowGroupClear => true
  | .eld3Read => true
  | .elclr => true
  | .einjcWrite => true
  | .elqselWrite => true
  | .logQueryDone => true
  | .elqd3Read => true
  | .elqclr => true
  | .ownershipReply => true
  | .gateRecordArrival => true
  | .putArrival => true
  | .seamResend => true
  | .seamTimeout => true
  | .slotRelease => true
  | .seamRefill => true
  | .collectiveComplete => true
  | .taskDone => true
  | .waiteTimeout => true
  | .registerWrite => true
  | .memoryResponse => true
  | .fabricTransportFailure => true
  | .sriovVfEnable => true

/-- A well-formed word: its instruction has a word of its own and keeps its limits; a K word has no guard
(R314). -/
def Word.wellFormed (w : Word) : Bool :=
  w.instr.wellFormed &&
    match w.instr with
    | .bh _ _ _ _ => decide (w.guard = 0)
    | .kx _ => decide (w.guard = 0)
    | _ => true

end Sys2Proof
end

