-- ==== Sys2Proof/Decode.lean ====
section
/-!
DEFINITION. The decoder, total on any 32 bits (13_instruction_encoding R314, R315, R322, R327; operand
layouts of Tables 13-2, 15-1, 15-4, 16-2, 17-2, 17-6, 18-1), and after it the encoder, written from the
same tables. A word that no row describes is refused by name.
-/
namespace Sys2Proof

/-- Why 32 bits are no instruction word. All three are the illegal-instruction trap 0x01 when a bundle
holds the word (R320 step 3). -/
inductive DecodeError where
  /-- The engine has no such opcode (R327). -/
  | reservedOpcode
  /-- A reserved operand bit is set, or an own layout is broken (R315). -/
  | reservedBit
  /-- A K word of KIND 0b10 or 0b11 (R322). -/
  | reservedKind
  deriving DecidableEq, Repr

/-- Operands of engine C, control and scalar words, by opcode (Table 13-9). -/
def decodeC (op : Nat) (x : BitVec 18) : Except DecodeError Instr :=
  match op with
  | 1 => .ok (.add (x.extractLsb' 12 6) (x.extractLsb' 6 6) (x.extractLsb' 0 6))
  | 2 => .ok (.addi (x.extractLsb' 12 6) (x.extractLsb' 6 6) (x.extractLsb' 0 6))
  | 3 => .ok (.sub (x.extractLsb' 12 6) (x.extractLsb' 6 6) (x.extractLsb' 0 6))
  | 4 => .ok (.mul (x.extractLsb' 12 6) (x.extractLsb' 6 6) (x.extractLsb' 0 6))
  | 5 => .ok (.mulh (x.extractLsb' 12 6) (x.extractLsb' 6 6) (x.extractLsb' 0 6))
  | 6 => .ok (.mulhu (x.extractLsb' 12 6) (x.extractLsb' 6 6) (x.extractLsb' 0 6))
  | 7 => .ok (.div (x.extractLsb' 12 6) (x.extractLsb' 6 6) (x.extractLsb' 0 6))
  | 8 => .ok (.divu (x.extractLsb' 12 6) (x.extractLsb' 6 6) (x.extractLsb' 0 6))
  | 9 => .ok (.rem (x.extractLsb' 12 6) (x.extractLsb' 6 6) (x.extractLsb' 0 6))
  | 10 => .ok (.remu (x.extractLsb' 12 6) (x.extractLsb' 6 6) (x.extractLsb' 0 6))
  | 11 => .ok (.and (x.extractLsb' 12 6) (x.extractLsb' 6 6) (x.extractLsb' 0 6))
  | 12 => .ok (.andi (x.extractLsb' 12 6) (x.extractLsb' 6 6) (x.extractLsb' 0 6))
  | 13 => .ok (.or (x.extractLsb' 12 6) (x.extractLsb' 6 6) (x.extractLsb' 0 6))
  | 14 => .ok (.ori (x.extractLsb' 12 6) (x.extractLsb' 6 6) (x.extractLsb' 0 6))
  | 15 => .ok (.xor (x.extractLsb' 12 6) (x.extractLsb' 6 6) (x.extractLsb' 0 6))
  | 16 => .ok (.xori (x.extractLsb' 12 6) (x.extractLsb' 6 6) (x.extractLsb' 0 6))
  | 17 => .ok (.shl (x.extractLsb' 12 6) (x.extractLsb' 6 6) (x.extractLsb' 0 6))
  | 18 => .ok (.shli (x.extractLsb' 12 6) (x.extractLsb' 6 6) (x.extractLsb' 0 6))
  | 19 => .ok (.shr (x.extractLsb' 12 6) (x.extractLsb' 6 6) (x.extractLsb' 0 6))
  | 20 => .ok (.shri (x.extractLsb' 12 6) (x.extractLsb' 6 6) (x.extractLsb' 0 6))
  | 21 => .ok (.sra (x.extractLsb' 12 6) (x.extractLsb' 6 6) (x.extractLsb' 0 6))
  | 22 => .ok (.srai (x.extractLsb' 12 6) (x.extractLsb' 6 6) (x.extractLsb' 0 6))
  | 23 => if x.extractLsb' 0 6 = 0 then .ok (.clz (x.extractLsb' 12 6) (x.extractLsb' 6 6)) else .error .reservedBit
  | 24 => if x.extractLsb' 0 6 = 0 then .ok (.popc (x.extractLsb' 12 6) (x.extractLsb' 6 6)) else .error .reservedBit
  | 25 => .ok (.min (x.extractLsb' 12 6) (x.extractLsb' 6 6) (x.extractLsb' 0 6))
  | 26 => .ok (.max (x.extractLsb' 12 6) (x.extractLsb' 6 6) (x.extractLsb' 0 6))
  | 27 => .ok (.minu (x.extractLsb' 12 6) (x.extractLsb' 6 6) (x.extractLsb' 0 6))
  | 28 => .ok (.maxu (x.extractLsb' 12 6) (x.extractLsb' 6 6) (x.extractLsb' 0 6))
  | 29 => if x.extractLsb' 4 1 = 0 then .ok (.sel (x.extractLsb' 12 6) (x.extractLsb' 6 6) (x.extractLsb' 5 1) (x.extractLsb' 0 4)) else .error .reservedBit
  | 30 => .ok (.li (x.extractLsb' 12 6) (x.extractLsb' 0 12))
  | 31 => .ok (.addx (x.extractLsb' 12 6) (x.extractLsb' 6 6) (x.extractLsb' 0 6))
  | 32 => if x.extractLsb' 12 3 = 0 then .ok (.cmpEq (x.extractLsb' 15 3) (x.extractLsb' 6 6) (x.extractLsb' 0 6)) else .error .reservedBit
  | 33 => if x.extractLsb' 12 3 = 0 then .ok (.cmpNe (x.extractLsb' 15 3) (x.extractLsb' 6 6) (x.extractLsb' 0 6)) else .error .reservedBit
  | 34 => if x.extractLsb' 12 3 = 0 then .ok (.cmpLt (x.extractLsb' 15 3) (x.extractLsb' 6 6) (x.extractLsb' 0 6)) else .error .reservedBit
  | 35 => if x.extractLsb' 12 3 = 0 then .ok (.cmpLe (x.extractLsb' 15 3) (x.extractLsb' 6 6) (x.extractLsb' 0 6)) else .error .reservedBit
  | 36 => if x.extractLsb' 12 3 = 0 then .ok (.cmpLtu (x.extractLsb' 15 3) (x.extractLsb' 6 6) (x.extractLsb' 0 6)) else .error .reservedBit
  | 37 => if x.extractLsb' 12 3 = 0 then .ok (.cmpLeu (x.extractLsb' 15 3) (x.extractLsb' 6 6) (x.extractLsb' 0 6)) else .error .reservedBit
  | 38 => if x.extractLsb' 12 3 = 0 then .ok (.cmpiEq (x.extractLsb' 15 3) (x.extractLsb' 6 6) (x.extractLsb' 0 6)) else .error .reservedBit
  | 39 => if x.extractLsb' 12 3 = 0 then .ok (.cmpiNe (x.extractLsb' 15 3) (x.extractLsb' 6 6) (x.extractLsb' 0 6)) else .error .reservedBit
  | 40 => if x.extractLsb' 12 3 = 0 then .ok (.cmpiLt (x.extractLsb' 15 3) (x.extractLsb' 6 6) (x.extractLsb' 0 6)) else .error .reservedBit
  | 41 => if x.extractLsb' 12 3 = 0 then .ok (.cmpiLe (x.extractLsb' 15 3) (x.extractLsb' 6 6) (x.extractLsb' 0 6)) else .error .reservedBit
  | 42 => if x.extractLsb' 12 3 = 0 then .ok (.cmpiLtu (x.extractLsb' 15 3) (x.extractLsb' 6 6) (x.extractLsb' 0 6)) else .error .reservedBit
  | 43 => if x.extractLsb' 12 3 = 0 then .ok (.cmpiLeu (x.extractLsb' 15 3) (x.extractLsb' 6 6) (x.extractLsb' 0 6)) else .error .reservedBit
  | 44 => if x.extractLsb' 0 4 = 0 then .ok (.pset (x.extractLsb' 16 2) (x.extractLsb' 12 4) (x.extractLsb' 8 4) (x.extractLsb' 4 4)) else .error .reservedBit
  | 45 => if x.extractLsb' 0 4 = 0 then .ok (.pmov (x.extractLsb' 12 6) (x.extractLsb' 6 6) (x.extractLsb' 4 2)) else .error .reservedBit
  | 46 => .ok (.br (x.extractLsb' 0 18))
  | 47 => .ok (.call (x.extractLsb' 0 18))
  | 48 => if x.extractLsb' 0 18 = 0 then .ok (.ret) else .error .reservedBit
  | 49 => if x.extractLsb' 0 6 = 0 then .ok (.jr (x.extractLsb' 12 6) (x.extractLsb' 6 6)) else .error .reservedBit
  | 50 => .ok (.bq (x.extractLsb' 16 2) (x.extractLsb' 14 2) (x.extractLsb' 0 14))
  | 51 => .ok (.loop (x.extractLsb' 12 6) (x.extractLsb' 9 3) (x.extractLsb' 0 9))
  | 52 => .ok (.loopi (x.extractLsb' 15 3) (x.extractLsb' 7 8) (x.extractLsb' 0 7))
  | 53 => .ok (.csrr (x.extractLsb' 12 6) (x.extractLsb' 0 12))
  | 54 => .ok (.csrw (x.extractLsb' 12 6) (x.extractLsb' 0 12))
  | 55 => .ok (.csrs (x.extractLsb' 12 6) (x.extractLsb' 0 12))
  | 56 => .ok (.csrc (x.extractLsb' 12 6) (x.extractLsb' 0 12))
  | _ => .error .reservedOpcode

/-- Operands of engine L, memory words, by opcode (Table 13-10). -/
def decodeL (op : Nat) (x : BitVec 18) : Except DecodeError Instr :=
  match op with
  | 1 => .ok (.ldb (x.extractLsb' 12 6) (x.extractLsb' 6 6) (x.extractLsb' 5 1) (x.extractLsb' 0 5))
  | 2 => .ok (.ldbu (x.extractLsb' 12 6) (x.extractLsb' 6 6) (x.extractLsb' 5 1) (x.extractLsb' 0 5))
  | 3 => .ok (.ldh (x.extractLsb' 12 6) (x.extractLsb' 6 6) (x.extractLsb' 5 1) (x.extractLsb' 0 5))
  | 4 => .ok (.ldhu (x.extractLsb' 12 6) (x.extractLsb' 6 6) (x.extractLsb' 5 1) (x.extractLsb' 0 5))
  | 5 => .ok (.ldw (x.extractLsb' 12 6) (x.extractLsb' 6 6) (x.extractLsb' 5 1) (x.extractLsb' 0 5))
  | 6 => .ok (.ldwu (x.extractLsb' 12 6) (x.extractLsb' 6 6) (x.extractLsb' 5 1) (x.extractLsb' 0 5))
  | 7 => .ok (.ldd (x.extractLsb' 12 6) (x.extractLsb' 6 6) (x.extractLsb' 5 1) (x.extractLsb' 0 5))
  | 8 => .ok (.stb (x.extractLsb' 12 6) (x.extractLsb' 6 6) (x.extractLsb' 0 6))
  | 9 => .ok (.sth (x.extractLsb' 12 6) (x.extractLsb' 6 6) (x.extractLsb' 0 6))
  | 10 => .ok (.stw (x.extractLsb' 12 6) (x.extractLsb' 6 6) (x.extractLsb' 0 6))
  | 11 => .ok (.std (x.extractLsb' 12 6) (x.extractLsb' 6 6) (x.extractLsb' 0 6))
  | 12 => .ok (.ldv (x.extractLsb' 12 6) (x.extractLsb' 6 6) (x.extractLsb' 5 1) (x.extractLsb' 0 5))
  | 13 => .ok (.stv (x.extractLsb' 12 6) (x.extractLsb' 6 6) (x.extractLsb' 0 6))
  | 14 => .ok (.amo (x.extractLsb' 12 6) (x.extractLsb' 6 6) (x.extractLsb' 2 4) (x.extractLsb' 0 2))
  | 15 => if x.extractLsb' 2 4 = 0 then .ok (.cas (x.extractLsb' 12 6) (x.extractLsb' 6 6) (x.extractLsb' 0 2)) else .error .reservedBit
  | 16 => if x.extractLsb' 12 6 = 0 then .ok (.ownx (x.extractLsb' 6 6) (x.extractLsb' 0 6)) else .error .reservedBit
  | 17 => if x.extractLsb' 0 6 = 0 ∧ x.extractLsb' 12 6 = 0 then .ok (.owna (x.extractLsb' 6 6)) else .error .reservedBit
  | 18 => if x.extractLsb' 1 5 = 0 ∧ x.extractLsb' 12 6 = 0 then .ok (.owns (x.extractLsb' 6 6) (x.extractLsb' 0 1)) else .error .reservedBit
  | 19 => if x.extractLsb' 0 6 = 0 ∧ x.extractLsb' 12 6 = 0 then .ok (.ownf (x.extractLsb' 6 6)) else .error .reservedBit
  | 20 => if x.extractLsb' 0 6 = 0 then .ok (.ownq (x.extractLsb' 12 6) (x.extractLsb' 6 6)) else .error .reservedBit
  | 21 => if x.extractLsb' 12 6 = 0 then .ok (.semsig (x.extractLsb' 6 6) (x.extractLsb' 0 6)) else .error .reservedBit
  | 22 => if x.extractLsb' 12 6 = 0 then .ok (.semwait (x.extractLsb' 6 6) (x.extractLsb' 0 6)) else .error .reservedBit
  | 23 => .ok (.semtry (x.extractLsb' 12 6) (x.extractLsb' 6 6) (x.extractLsb' 0 6))
  | 24 => if x.extractLsb' 0 3 = 0 ∧ x.extractLsb' 12 6 = 0 then .ok (.prefg (x.extractLsb' 6 6) (x.extractLsb' 3 3)) else .error .reservedBit
  | _ => .error .reservedOpcode

/-- Operands of engine V, vector words, by opcode (Table 13-11). -/
def decodeV (op : Nat) (x : BitVec 18) : Except DecodeError Instr :=
  match op with
  | 1 => .ok (.vadd (x.extractLsb' 12 6) (x.extractLsb' 6 6) (x.extractLsb' 0 6))
  | 2 => .ok (.vsub (x.extractLsb' 12 6) (x.extractLsb' 6 6) (x.extractLsb' 0 6))
  | 3 => .ok (.vmul (x.extractLsb' 12 6) (x.extractLsb' 6 6) (x.extractLsb' 0 6))
  | 4 => .ok (.vfma (x.extractLsb' 12 6) (x.extractLsb' 6 6) (x.extractLsb' 0 6))
  | 5 => .ok (.vfms (x.extractLsb' 12 6) (x.extractLsb' 6 6) (x.extractLsb' 0 6))
  | 6 => .ok (.vmin (x.extractLsb' 12 6) (x.extractLsb' 6 6) (x.extractLsb' 0 6))
  | 7 => .ok (.vmax (x.extractLsb' 12 6) (x.extractLsb' 6 6) (x.extractLsb' 0 6))
  | 8 => if x.extractLsb' 0 6 = 0 then .ok (.vabs (x.extractLsb' 12 6) (x.extractLsb' 6 6)) else .error .reservedBit
  | 9 => if x.extractLsb' 0 6 = 0 then .ok (.vneg (x.extractLsb' 12 6) (x.extractLsb' 6 6)) else .error .reservedBit
  | 10 => .ok (.vand (x.extractLsb' 12 6) (x.extractLsb' 6 6) (x.extractLsb' 0 6))
  | 11 => .ok (.vor (x.extractLsb' 12 6) (x.extractLsb' 6 6) (x.extractLsb' 0 6))
  | 12 => .ok (.vxor (x.extractLsb' 12 6) (x.extractLsb' 6 6) (x.extractLsb' 0 6))
  | 13 => if x.extractLsb' 0 6 = 0 then .ok (.vnot (x.extractLsb' 12 6) (x.extractLsb' 6 6)) else .error .reservedBit
  | 14 => .ok (.vshl (x.extractLsb' 12 6) (x.extractLsb' 6 6) (x.extractLsb' 0 6))
  | 15 => .ok (.vshr (x.extractLsb' 12 6) (x.extractLsb' 6 6) (x.extractLsb' 0 6))
  | 16 => .ok (.vsra (x.extractLsb' 12 6) (x.extractLsb' 6 6) (x.extractLsb' 0 6))
  | 17 => .ok (.vrshr (x.extractLsb' 12 6) (x.extractLsb' 6 6) (x.extractLsb' 5 1) (x.extractLsb' 0 5))
  | 18 => .ok (.vcmp (x.extractLsb' 12 6) (x.extractLsb' 6 6) (x.extractLsb' 0 6))
  | 19 => .ok (.vsel (x.extractLsb' 12 6) (x.extractLsb' 6 6) (x.extractLsb' 0 6))
  | 20 => if x.extractLsb' 0 6 = 0 then .ok (.vmov (x.extractLsb' 12 6) (x.extractLsb' 6 6)) else .error .reservedBit
  | 21 => if x.extractLsb' 0 12 = 0 then .ok (.vzero (x.extractLsb' 12 6)) else .error .reservedBit
  | 22 => if x.extractLsb' 0 6 = 0 then .ok (.vbcast (x.extractLsb' 12 6) (x.extractLsb' 6 6)) else .error .reservedBit
  | 23 => .ok (.vext (x.extractLsb' 12 6) (x.extractLsb' 6 6) (x.extractLsb' 0 6))
  | 24 => .ok (.vins (x.extractLsb' 12 6) (x.extractLsb' 6 6) (x.extractLsb' 0 6))
  | 25 => .ok (.vslide (x.extractLsb' 12 6) (x.extractLsb' 6 6) (x.extractLsb' 0 6))
  | 26 => .ok (.vslidei (x.extractLsb' 12 6) (x.extractLsb' 6 6) (x.extractLsb' 5 1) (x.extractLsb' 4 1) (x.extractLsb' 0 4))
  | 27 => .ok (.vperm (x.extractLsb' 12 6) (x.extractLsb' 6 6) (x.extractLsb' 0 6))
  | 28 => if x.extractLsb' 0 6 = 0 then .ok (.viota (x.extractLsb' 12 6) (x.extractLsb' 6 6)) else .error .reservedBit
  | 29 => if x.extractLsb' 0 4 = 0 then .ok (.vred (x.extractLsb' 12 6) (x.extractLsb' 6 6) (x.extractLsb' 4 2)) else .error .reservedBit
  | 30 => .ok (.vmac2 (x.extractLsb' 12 6) (x.extractLsb' 6 6) (x.extractLsb' 0 6))
  | 31 => .ok (.vdot4 (x.extractLsb' 12 6) (x.extractLsb' 6 6) (x.extractLsb' 0 6))
  | 32 => .ok (.vcvt (x.extractLsb' 12 6) (x.extractLsb' 6 6) (x.extractLsb' 2 4) (x.extractLsb' 0 2))
  | 33 => if x.extractLsb' 2 4 = 0 then .ok (.vcvts (x.extractLsb' 12 6) (x.extractLsb' 6 6) (x.extractLsb' 0 2)) else .error .reservedBit
  | 34 => if x.extractLsb' 0 8 = 0 ∧ x.extractLsb' 17 1 = 0 then .ok (.vtype (x.extractLsb' 12 5) (x.extractLsb' 8 4)) else .error .reservedBit
  | 35 => if x.extractLsb' 5 11 = 0 then .ok (.vwin (x.extractLsb' 16 2) (x.extractLsb' 0 5)) else .error .reservedBit
  | _ => .error .reservedOpcode

/-- Operands of engine M, matrix words, by opcode (Table 13-13). -/
def decodeM (op : Nat) (x : BitVec 18) : Except DecodeError Instr :=
  match op with
  | 1 =>
    if x.extractLsb' 0 4 = 0 ∧ x.extractLsb' 12 6 = 0 then .ok (.mcfgT (x.extractLsb' 8 4) (x.extractLsb' 4 4)) else
    if x.extractLsb' 0 6 = 0 ∧ x.extractLsb' 12 6 = 16 then .ok (.mcfgW (x.extractLsb' 6 6)) else .error .reservedBit
  | 2 => if x.extractLsb' 12 5 = 0 then .ok (.mlda (x.extractLsb' 17 1) (x.extractLsb' 6 6) (x.extractLsb' 0 6)) else .error .reservedBit
  | 3 => if x.extractLsb' 12 5 = 0 then .ok (.mgath (x.extractLsb' 17 1) (x.extractLsb' 6 6) (x.extractLsb' 0 6)) else .error .reservedBit
  | 4 => if x.extractLsb' 0 11 = 0 ∧ x.extractLsb' 17 1 = 0 then .ok (.mma (x.extractLsb' 12 5) (x.extractLsb' 11 1)) else .error .reservedBit
  | 5 => if x.extractLsb' 0 11 = 0 ∧ x.extractLsb' 17 1 = 0 then .ok (.mmaz (x.extractLsb' 12 5) (x.extractLsb' 11 1)) else .error .reservedBit
  | 6 => if x.extractLsb' 0 5 = 0 then .ok (.mmask (x.extractLsb' 12 6) (x.extractLsb' 5 7)) else .error .reservedBit
  | 7 => if x.extractLsb' 0 8 = 0 ∧ x.extractLsb' 17 1 = 0 then .ok (.mdrain (x.extractLsb' 12 5) (x.extractLsb' 8 4)) else .error .reservedBit
  | 8 => if x.extractLsb' 0 8 = 0 ∧ x.extractLsb' 17 1 = 0 then .ok (.mzero (x.extractLsb' 12 5) (x.extractLsb' 8 4)) else .error .reservedBit
  | 9 => if x.extractLsb' 0 6 = 0 ∧ x.extractLsb' 17 1 = 0 then .ok (.mspill (x.extractLsb' 12 5) (x.extractLsb' 6 6)) else .error .reservedBit
  | 10 => if x.extractLsb' 0 2 = 0 ∧ x.extractLsb' 17 1 = 0 then .ok (.mfill (x.extractLsb' 12 5) (x.extractLsb' 6 6) (x.extractLsb' 2 4)) else .error .reservedBit
  | 11 => if x.extractLsb' 1 11 = 0 ∧ x.extractLsb' 17 1 = 0 then .ok (.mwait (x.extractLsb' 12 5) (x.extractLsb' 0 1)) else .error .reservedBit
  | 12 => if x.extractLsb' 0 12 = 0 then .ok (.mstat (x.extractLsb' 12 6)) else .error .reservedBit
  | _ => .error .reservedOpcode

/-- Operands of engine X, engine words, by opcode (Table 13-14). -/
def decodeX (op : Nat) (x : BitVec 18) : Except DecodeError Instr :=
  match op with
  | 1 => if x.extractLsb' 0 6 = 0 ∧ x.extractLsb' 12 4 = 0 then .ok (.sload (x.extractLsb' 16 2) (x.extractLsb' 6 6)) else .error .reservedBit
  | 2 => if x.extractLsb' 0 16 = 0 then .ok (.sgo (x.extractLsb' 16 2)) else .error .reservedBit
  | 3 => if x.extractLsb' 0 16 = 0 then .ok (.sstop (x.extractLsb' 16 2)) else .error .reservedBit
  | 4 => if x.extractLsb' 0 16 = 0 then .ok (.swait (x.extractLsb' 16 2)) else .error .reservedBit
  | 5 => if x.extractLsb' 0 4 = 0 then .ok (.qbind (x.extractLsb' 14 4) (x.extractLsb' 10 4) (x.extractLsb' 6 4) (x.extractLsb' 4 2)) else .error .reservedBit
  | 6 => if x.extractLsb' 0 14 = 0 then .ok (.qflush (x.extractLsb' 14 4)) else .error .reservedBit
  | 7 => if x.extractLsb' 0 8 = 0 then .ok (.qstat (x.extractLsb' 12 6) (x.extractLsb' 8 4)) else .error .reservedBit
  | 8 => .ok (.cpy (x.extractLsb' 12 6) (x.extractLsb' 6 6) (x.extractLsb' 0 6))
  | 9 => .ok (.cpyp (x.extractLsb' 12 6) (x.extractLsb' 6 6) (x.extractLsb' 0 6))
  | 10 => .ok (.cpym (x.extractLsb' 12 6) (x.extractLsb' 6 6) (x.extractLsb' 0 6))
  | 11 => if x.extractLsb' 1 5 = 0 ∧ x.extractLsb' 12 5 = 0 then .ok (.cwait (x.extractLsb' 17 1) (x.extractLsb' 6 6) (x.extractLsb' 0 1)) else .error .reservedBit
  | 12 => if x.extractLsb' 0 11 = 0 then .ok (.cwpos (x.extractLsb' 12 6) (x.extractLsb' 11 1)) else .error .reservedBit
  | 13 => if x.extractLsb' 0 6 = 0 then .ok (.seamo (x.extractLsb' 12 6) (x.extractLsb' 6 6)) else .error .reservedBit
  | 14 => .ok (.seamg (x.extractLsb' 12 6) (x.extractLsb' 6 6) (x.extractLsb' 0 6))
  | 15 => .ok (.seamp (x.extractLsb' 12 6) (x.extractLsb' 6 6) (x.extractLsb' 0 6))
  | 16 =>
    if x.extractLsb' 0 6 = 0 then .ok (.seamcClose (x.extractLsb' 12 6) (x.extractLsb' 6 6)) else
    if x.extractLsb' 0 6 = 1 then .ok (.seamcSettle (x.extractLsb' 12 6) (x.extractLsb' 6 6)) else .error .reservedBit
  | 17 => .ok (.seams (x.extractLsb' 12 6) (x.extractLsb' 6 6) (x.extractLsb' 0 6))
  | 18 =>
    if x.extractLsb' 0 9 = 0 then .ok (.wpop (x.extractLsb' 12 6) (x.extractLsb' 10 2) (x.extractLsb' 9 1)) else
    if x.extractLsb' 0 4 = 0 ∧ x.extractLsb' 8 1 = 1 ∧ x.extractLsb' 12 6 = 0 then .ok (.wpopQ (x.extractLsb' 10 2) (x.extractLsb' 9 1) (x.extractLsb' 4 4)) else .error .reservedBit
  | 19 => if x.extractLsb' 0 3 = 0 then .ok (.wpush (x.extractLsb' 12 6) (x.extractLsb' 6 6) (x.extractLsb' 4 2) (x.extractLsb' 3 1)) else .error .reservedBit
  | 20 => if x.extractLsb' 0 4 = 0 ∧ x.extractLsb' 6 12 = 0 then .ok (.wclose (x.extractLsb' 4 2)) else .error .reservedBit
  | 21 => if x.extractLsb' 0 6 = 0 then .ok (.coll (x.extractLsb' 12 6) (x.extractLsb' 6 6)) else .error .reservedBit
  | 22 => if x.extractLsb' 1 5 = 0 then .ok (.collw (x.extractLsb' 12 6) (x.extractLsb' 6 6) (x.extractLsb' 0 1)) else .error .reservedBit
  | 23 => if x.extractLsb' 0 3 = 0 then .ok (.life (x.extractLsb' 12 6) (x.extractLsb' 6 6) (x.extractLsb' 4 2) (x.extractLsb' 3 1)) else .error .reservedBit
  | 24 => if x.extractLsb' 0 6 = 0 then .ok (.refr (x.extractLsb' 12 6) (x.extractLsb' 6 6)) else .error .reservedBit
  | 25 => if x.extractLsb' 0 6 = 0 then .ok (.ageq (x.extractLsb' 12 6) (x.extractLsb' 6 6)) else .error .reservedBit
  | 26 => .ok (.dmaq (x.extractLsb' 12 6) (x.extractLsb' 6 6) (x.extractLsb' 0 6))
  | _ => .error .reservedOpcode

/-- Operands of engine F, function words, by opcode (Table 13-12). -/
def decodeF (op : Nat) (x : BitVec 18) : Except DecodeError Instr :=
  match op with
  | 1 => if x.extractLsb' 0 6 = 0 then .ok (.fexp2 (x.extractLsb' 12 6) (x.extractLsb' 6 6)) else .error .reservedBit
  | 2 => if x.extractLsb' 0 6 = 0 then .ok (.flog2 (x.extractLsb' 12 6) (x.extractLsb' 6 6)) else .error .reservedBit
  | 3 => if x.extractLsb' 0 6 = 0 then .ok (.frcp (x.extractLsb' 12 6) (x.extractLsb' 6 6)) else .error .reservedBit
  | 4 => if x.extractLsb' 0 6 = 0 then .ok (.frsq (x.extractLsb' 12 6) (x.extractLsb' 6 6)) else .error .reservedBit
  | 5 => if x.extractLsb' 0 6 = 0 then .ok (.fsqrt (x.extractLsb' 12 6) (x.extractLsb' 6 6)) else .error .reservedBit
  | 6 => if x.extractLsb' 0 6 = 0 then .ok (.ftanh (x.extractLsb' 12 6) (x.extractLsb' 6 6)) else .error .reservedBit
  | 7 => if x.extractLsb' 0 6 = 0 then .ok (.fsigm (x.extractLsb' 12 6) (x.extractLsb' 6 6)) else .error .reservedBit
  | 8 => if x.extractLsb' 0 6 = 0 then .ok (.ferf (x.extractLsb' 12 6) (x.extractLsb' 6 6)) else .error .reservedBit
  | 9 => if x.extractLsb' 0 12 = 0 then .ok (.rng (x.extractLsb' 12 6)) else .error .reservedBit
  | 10 => .ok (.vpart (x.extractLsb' 12 6) (x.extractLsb' 6 6) (x.extractLsb' 0 6))
  | 11 => .ok (.vtopk (x.extractLsb' 12 6) (x.extractLsb' 6 6) (x.extractLsb' 3 3) (x.extractLsb' 0 3))
  | 12 => if x.extractLsb' 2 4 = 0 then .ok (.mxq (x.extractLsb' 12 6) (x.extractLsb' 6 6) (x.extractLsb' 0 2)) else .error .reservedBit
  | 13 => if x.extractLsb' 2 4 = 0 then .ok (.mxd (x.extractLsb' 12 6) (x.extractLsb' 6 6) (x.extractLsb' 0 2)) else .error .reservedBit
  | 14 => .ok (.fscale (x.extractLsb' 12 6) (x.extractLsb' 6 6) (x.extractLsb' 0 6))
  | 15 => if x.extractLsb' 0 6 = 0 then .ok (.fclass (x.extractLsb' 12 6) (x.extractLsb' 6 6)) else .error .reservedBit
  | 16 => .ok (.fminmaxn (x.extractLsb' 12 6) (x.extractLsb' 6 6) (x.extractLsb' 0 6))
  | _ => .error .reservedOpcode

/-- Operands of engine S, system words, by opcode (Table 13-15). -/
def decodeS (op : Nat) (x : BitVec 18) : Except DecodeError Instr :=
  match op with
  | 0 => if x.extractLsb' 0 18 = 0 then .ok (.nop) else .error .reservedBit
  | 1 => if x.extractLsb' 2 16 = 0 then .ok (.bar (x.extractLsb' 0 2)) else .error .reservedBit
  | 2 => if x.extractLsb' 2 10 = 0 then .ok (.barq (x.extractLsb' 12 6) (x.extractLsb' 0 2)) else .error .reservedBit
  | 3 => if x.extractLsb' 3 15 = 0 then .ok (.fence (x.extractLsb' 0 3)) else .error .reservedBit
  | 4 => .ok (.chk (x.extractLsb' 16 2) (x.extractLsb' 10 6) (x.extractLsb' 0 10))
  | 5 => if x.extractLsb' 0 10 = 0 then .ok (.chkt (x.extractLsb' 16 2) (x.extractLsb' 10 6)) else .error .reservedBit
  | 6 => if x.extractLsb' 0 10 = 0 then .ok (.pclr (x.extractLsb' 16 2) (x.extractLsb' 10 6)) else .error .reservedBit
  | 7 => if x.extractLsb' 12 6 = 0 then .ok (.trap (x.extractLsb' 0 12)) else .error .reservedBit
  | 8 => if x.extractLsb' 0 18 = 0 then .ok (.tret) else .error .reservedBit
  | 9 => if x.extractLsb' 0 18 = 0 then .ok (.yield) else .error .reservedBit
  | 10 => if x.extractLsb' 12 6 = 0 then .ok (.swpt (x.extractLsb' 0 12)) else .error .reservedBit
  | 11 => if x.extractLsb' 0 18 = 0 then .ok (.done) else .error .reservedBit
  | 12 => .ok (.waite (x.extractLsb' 12 6) (x.extractLsb' 6 6) (x.extractLsb' 0 6))
  | 13 => if x.extractLsb' 12 6 = 0 then .ok (.brk (x.extractLsb' 0 12)) else .error .reservedBit
  | 14 => if x.extractLsb' 12 6 = 0 then .ok (.gcond (x.extractLsb' 6 6) (x.extractLsb' 0 6)) else .error .reservedBit
  | 15 => if x.extractLsb' 0 18 = 0 then .ok (.ecall) else .error .reservedBit
  | 16 => if x.extractLsb' 1 5 = 0 then .ok (.frz (x.extractLsb' 12 6) (x.extractLsb' 6 6) (x.extractLsb' 0 1)) else .error .reservedBit
  | 17 => .ok (.thaw (x.extractLsb' 12 6) (x.extractLsb' 6 6) (x.extractLsb' 0 6))
  | 18 => if x.extractLsb' 0 6 = 0 then .ok (.park (x.extractLsb' 12 6) (x.extractLsb' 6 6)) else .error .reservedBit
  | 19 => if x.extractLsb' 12 2 = 0 then .ok (.pmpw (x.extractLsb' 14 4) (x.extractLsb' 6 6) (x.extractLsb' 0 6)) else .error .reservedBit
  | 20 => if x.extractLsb' 12 6 = 0 then .ok (.tlbi (x.extractLsb' 6 6) (x.extractLsb' 0 6)) else .error .reservedBit
  | 21 => if x.extractLsb' 12 6 = 0 then .ok (.keyl (x.extractLsb' 6 6) (x.extractLsb' 0 6)) else .error .reservedBit
  | 22 => .ok (.slotb (x.extractLsb' 12 6) (x.extractLsb' 6 6) (x.extractLsb' 0 6))
  | 23 => if x.extractLsb' 0 6 = 0 then .ok (.siteq (x.extractLsb' 12 6) (x.extractLsb' 6 6)) else .error .reservedBit
  | 24 => .ok (.sitec (x.extractLsb' 12 6) (x.extractLsb' 6 6) (x.extractLsb' 0 6))
  | 25 => .ok (.qcbb (x.extractLsb' 12 6) (x.extractLsb' 6 6) (x.extractLsb' 0 6))
  | 26 => if x.extractLsb' 0 18 = 0 then .ok (.halt) else .error .reservedBit
  | _ => .error .reservedOpcode

/-- The instruction of a word of engine 0 to 6. -/
def decodeOp (eng op : Nat) (x : BitVec 18) : Except DecodeError Instr :=
  match eng with
  | 0 => decodeC op x
  | 1 => decodeL op x
  | 2 => decodeV op x
  | 3 => decodeM op x
  | 4 => decodeX op x
  | 5 => decodeF op x
  | 6 => decodeS op x
  | _ => .error .reservedOpcode

/-- The fields of a word (Table 13-1). -/
def wordEng (w : Word32) : Nat := (w.extractLsb' 29 3).toNat
def wordLast (w : Word32) : Bool := w.getLsbD 28
def wordGuard (w : Word32) : BitVec 4 := w.extractLsb' 24 4
def wordOp (w : Word32) : Nat := (w.extractLsb' 18 6).toNat
def wordOperands (w : Word32) : BitVec 18 := w.extractLsb' 0 18

/-- A K word (Table 13-4): bits [27:26] are its KIND. -/
def decodeK (w : Word32) : Except DecodeError Instr :=
  match (w.extractLsb' 26 2).toNat with
  | 0 => .ok (.bh (w.extractLsb' 25 1) (w.extractLsb' 24 1) (w.extractLsb' 16 8) (w.extractLsb' 0 16))
  | 1 => .ok (.kx (w.extractLsb' 0 26))
  | _ => .error .reservedKind

/-- The decoder: what 32 bits stand for. -/
def decode (w : Word32) : Except DecodeError Word :=
  if wordEng w = 7 then
    match decodeK w with
    | .ok i => .ok { last := wordLast w, guard := 0, instr := i }
    | .error e => .error e
  else
    match decodeOp (wordEng w) (wordOp w) (wordOperands w) with
    | .ok i => .ok { last := wordLast w, guard := wordGuard w, instr := i }
    | .error e => .error e

/-- The word in the first four bytes of a list, byte 0 least significant (R3). -/
def wordOfBytes (bs : List Byte) : Option Word32 :=
  match bs with
  | b0 :: b1 :: b2 :: b3 :: _ => some (b3 ++ b2 ++ b1 ++ b0)
  | _ => none

/-- The bytes of a word as the instruction store holds them (R3). -/
def bytesOfWord (w : Word32) : List Byte :=
  [w.extractLsb' 0 8, w.extractLsb' 8 8, w.extractLsb' 16 8, w.extractLsb' 24 8]

/-- Decode the first word of a byte list. -/
def decodeBytes (bs : List Byte) : Option Word :=
  match wordOfBytes bs with
  | some w => (decode w).toOption
  | none => none

/-- The instruction the decoder reads from the bits of a table row: every row with bits is one 32-bit
word, stored little-endian. -/
def decodeTableWord (nbits w : Nat) : Option Instr :=
  if nbits = 32 then (decodeBytes (bytesOfWord (BitVec.ofNat 32 w))).map Word.instr else none

/-! ### The encoder -/

/-- Engine, opcode and operand bits of an instruction of engines 0 to 6 (Tables 13-9 to 13-15); `none` for
K words and for steps that have no word. -/
def Instr.code (i : Instr) : Option (BitVec 3 × BitVec 6 × BitVec 18) :=
  match i with
  | .add d a b => some (0, 1, d ++ a ++ b)
  | .addi d a i => some (0, 2, d ++ a ++ i)
  | .sub d a b => some (0, 3, d ++ a ++ b)
  | .mul d a b => some (0, 4, d ++ a ++ b)
  | .mulh d a b => some (0, 5, d ++ a ++ b)
  | .mulhu d a b => some (0, 6, d ++ a ++ b)
  | .div d a b => some (0, 7, d ++ a ++ b)
  | .divu d a b => some (0, 8, d ++ a ++ b)
  | .rem d a b => some (0, 9, d ++ a ++ b)
  | .remu d a b => some (0, 10, d ++ a ++ b)
  | .and d a b => some (0, 11, d ++ a ++ b)
  | .andi d a i => some (0, 12, d ++ a ++ i)
  | .or d a b => some (0, 13, d ++ a ++ b)
  | .ori d a i => some (0, 14, d ++ a ++ i)
  | .xor d a b => some (0, 15, d ++ a ++ b)
  | .xori d a i => some (0, 16, d ++ a ++ i)
  | .shl d a b => some (0, 17, d ++ a ++ b)
  | .shli d a k => some (0, 18, d ++ a ++ k)
  | .shr d a b => some (0, 19, d ++ a ++ b)
  | .shri d a k => some (0, 20, d ++ a ++ k)
  | .sra d a b => some (0, 21, d ++ a ++ b)
  | .srai d a k => some (0, 22, d ++ a ++ k)
  | .clz d a => some (0, 23, d ++ a ++ 0#6)
  | .popc d a => some (0, 24, d ++ a ++ 0#6)
  | .min d a b => some (0, 25, d ++ a ++ b)
  | .max d a b => some (0, 26, d ++ a ++ b)
  | .minu d a b => some (0, 27, d ++ a ++ b)
  | .maxu d a b => some (0, 28, d ++ a ++ b)
  | .sel d a n p => some (0, 29, d ++ a ++ n ++ 0#1 ++ p)
  | .li d i => some (0, 30, d ++ i)
  | .addx d a k => some (0, 31, d ++ a ++ k)
  | .cmpEq p a b => some (0, 32, p ++ 0#3 ++ a ++ b)
  | .cmpNe p a b => some (0, 33, p ++ 0#3 ++ a ++ b)
  | .cmpLt p a b => some (0, 34, p ++ 0#3 ++ a ++ b)
  | .cmpLe p a b => some (0, 35, p ++ 0#3 ++ a ++ b)
  | .cmpLtu p a b => some (0, 36, p ++ 0#3 ++ a ++ b)
  | .cmpLeu p a b => some (0, 37, p ++ 0#3 ++ a ++ b)
  | .cmpiEq p a i => some (0, 38, p ++ 0#3 ++ a ++ i)
  | .cmpiNe p a i => some (0, 39, p ++ 0#3 ++ a ++ i)
  | .cmpiLt p a i => some (0, 40, p ++ 0#3 ++ a ++ i)
  | .cmpiLe p a i => some (0, 41, p ++ 0#3 ++ a ++ i)
  | .cmpiLtu p a i => some (0, 42, p ++ 0#3 ++ a ++ i)
  | .cmpiLeu p a i => some (0, 43, p ++ 0#3 ++ a ++ i)
  | .pset f d a b => some (0, 44, f ++ d ++ a ++ b ++ 0#4)
  | .pmov d a k => some (0, 45, d ++ a ++ k ++ 0#4)
  | .br i => some (0, 46, i)
  | .call i => some (0, 47, i)
  | .ret => some (0, 48, 0#18)
  | .jr d a => some (0, 49, d ++ a ++ 0#6)
  | .bq q t i => some (0, 50, q ++ t ++ i)
  | .loop a k e => some (0, 51, a ++ k ++ e)
  | .loopi k n e => some (0, 52, k ++ n ++ e)
  | .csrr d c => some (0, 53, d ++ c)
  | .csrw s c => some (0, 54, s ++ c)
  | .csrs s c => some (0, 55, s ++ c)
  | .csrc s c => some (0, 56, s ++ c)
  | .ldb d a s i => some (1, 1, d ++ a ++ s ++ i)
  | .ldbu d a s i => some (1, 2, d ++ a ++ s ++ i)
  | .ldh d a s i => some (1, 3, d ++ a ++ s ++ i)
  | .ldhu d a s i => some (1, 4, d ++ a ++ s ++ i)
  | .ldw d a s i => some (1, 5, d ++ a ++ s ++ i)
  | .ldwu d a s i => some (1, 6, d ++ a ++ s ++ i)
  | .ldd d a s i => some (1, 7, d ++ a ++ s ++ i)
  | .stb s a i => some (1, 8, s ++ a ++ i)
  | .sth s a i => some (1, 9, s ++ a ++ i)
  | .stw s a i => some (1, 10, s ++ a ++ i)
  | .std s a i => some (1, 11, s ++ a ++ i)
  | .ldv d a s i => some (1, 12, d ++ a ++ s ++ i)
  | .stv s a i => some (1, 13, s ++ a ++ i)
  | .amo d a f o => some (1, 14, d ++ a ++ f ++ o)
  | .cas d a o => some (1, 15, d ++ a ++ 0#4 ++ o)
  | .ownx a b => some (1, 16, 0#6 ++ a ++ b)
  | .owna a => some (1, 17, 0#6 ++ a ++ 0#6)
  | .owns a k => some (1, 18, 0#6 ++ a ++ 0#5 ++ k)
  | .ownf a => some (1, 19, 0#6 ++ a ++ 0#6)
  | .ownq d a => some (1, 20, d ++ a ++ 0#6)
  | .semsig a b => some (1, 21, 0#6 ++ a ++ b)
  | .semwait a b => some (1, 22, 0#6 ++ a ++ b)
  | .semtry d a b => some (1, 23, d ++ a ++ b)
  | .prefg a k => some (1, 24, 0#6 ++ a ++ k ++ 0#3)
  | .vadd d a b => some (2, 1, d ++ a ++ b)
  | .vsub d a b => some (2, 2, d ++ a ++ b)
  | .vmul d a b => some (2, 3, d ++ a ++ b)
  | .vfma d a b => some (2, 4, d ++ a ++ b)
  | .vfms d a b => some (2, 5, d ++ a ++ b)
  | .vmin d a b => some (2, 6, d ++ a ++ b)
  | .vmax d a b => some (2, 7, d ++ a ++ b)
  | .vabs d a => some (2, 8, d ++ a ++ 0#6)
  | .vneg d a => some (2, 9, d ++ a ++ 0#6)
  | .vand d a b => some (2, 10, d ++ a ++ b)
  | .vor d a b => some (2, 11, d ++ a ++ b)
  | .vxor d a b => some (2, 12, d ++ a ++ b)
  | .vnot d a => some (2, 13, d ++ a ++ 0#6)
  | .vshl d a k => some (2, 14, d ++ a ++ k)
  | .vshr d a k => some (2, 15, d ++ a ++ k)
  | .vsra d a k => some (2, 16, d ++ a ++ k)
  | .vrshr d a n k => some (2, 17, d ++ a ++ n ++ k)
  | .vcmp d a b => some (2, 18, d ++ a ++ b)
  | .vsel d a b => some (2, 19, d ++ a ++ b)
  | .vmov d a => some (2, 20, d ++ a ++ 0#6)
  | .vzero d => some (2, 21, d ++ 0#12)
  | .vbcast d a => some (2, 22, d ++ a ++ 0#6)
  | .vext d a b => some (2, 23, d ++ a ++ b)
  | .vins d a b => some (2, 24, d ++ a ++ b)
  | .vslide d a b => some (2, 25, d ++ a ++ b)
  | .vslidei d a r z k => some (2, 26, d ++ a ++ r ++ z ++ k)
  | .vperm d a b => some (2, 27, d ++ a ++ b)
  | .viota d a => some (2, 28, d ++ a ++ 0#6)
  | .vred d a f => some (2, 29, d ++ a ++ f ++ 0#4)
  | .vmac2 d a b => some (2, 30, d ++ a ++ b)
  | .vdot4 d a b => some (2, 31, d ++ a ++ b)
  | .vcvt d a t h => some (2, 32, d ++ a ++ t ++ h)
  | .vcvts d a h => some (2, 33, d ++ a ++ 0#4 ++ h)
  | .vtype k t => some (2, 34, 0#1 ++ k ++ t ++ 0#8)
  | .vwin s v => some (2, 35, s ++ 0#11 ++ v)
  | .fexp2 d a => some (5, 1, d ++ a ++ 0#6)
  | .flog2 d a => some (5, 2, d ++ a ++ 0#6)
  | .frcp d a => some (5, 3, d ++ a ++ 0#6)
  | .frsq d a => some (5, 4, d ++ a ++ 0#6)
  | .fsqrt d a => some (5, 5, d ++ a ++ 0#6)
  | .ftanh d a => some (5, 6, d ++ a ++ 0#6)
  | .fsigm d a => some (5, 7, d ++ a ++ 0#6)
  | .ferf d a => some (5, 8, d ++ a ++ 0#6)
  | .rng d => some (5, 9, d ++ 0#12)
  | .vpart d a b => some (5, 10, d ++ a ++ b)
  | .vtopk d a k s => some (5, 11, d ++ a ++ k ++ s)
  | .mxq d a h => some (5, 12, d ++ a ++ 0#4 ++ h)
  | .mxd d a h => some (5, 13, d ++ a ++ 0#4 ++ h)
  | .fscale d a b => some (5, 14, d ++ a ++ b)
  | .fclass d a => some (5, 15, d ++ a ++ 0#6)
  | .fminmaxn d a b => some (5, 16, d ++ a ++ b)
  | .mcfgT a b => some (3, 1, 0#6 ++ a ++ b ++ 0#4)
  | .mcfgW a => some (3, 1, 16#6 ++ a ++ 0#6)
  | .mlda n a b => some (3, 2, n ++ 0#5 ++ a ++ b)
  | .mgath n a b => some (3, 3, n ++ 0#5 ++ a ++ b)
  | .mma k n => some (3, 4, 0#1 ++ k ++ n ++ 0#11)
  | .mmaz k n => some (3, 5, 0#1 ++ k ++ n ++ 0#11)
  | .mmask r c => some (3, 6, r ++ c ++ 0#5)
  | .mdrain k n => some (3, 7, 0#1 ++ k ++ n ++ 0#8)
  | .mzero k t => some (3, 8, 0#1 ++ k ++ t ++ 0#8)
  | .mspill k a => some (3, 9, 0#1 ++ k ++ a ++ 0#6)
  | .mfill k a t => some (3, 10, 0#1 ++ k ++ a ++ t ++ 0#2)
  | .mwait k x => some (3, 11, 0#1 ++ k ++ 0#11 ++ x)
  | .mstat d => some (3, 12, d ++ 0#12)
  | .sload n a => some (4, 1, n ++ 0#4 ++ a ++ 0#6)
  | .sgo n => some (4, 2, n ++ 0#16)
  | .sstop n => some (4, 3, n ++ 0#16)
  | .swait n => some (4, 4, n ++ 0#16)
  | .qbind n p c o => some (4, 5, n ++ p ++ c ++ o ++ 0#4)
  | .qflush n => some (4, 6, n ++ 0#14)
  | .qstat d n => some (4, 7, d ++ n ++ 0#8)
  | .cpy d a c => some (4, 8, d ++ a ++ c)
  | .cpyp d a c => some (4, 9, d ++ a ++ c)
  | .cpym d a c => some (4, 10, d ++ a ++ c)
  | .cwait n a x => some (4, 11, n ++ 0#5 ++ a ++ 0#5 ++ x)
  | .cwpos d n => some (4, 12, d ++ n ++ 0#11)
  | .seamo d a => some (4, 13, d ++ a ++ 0#6)
  | .seamg h t a => some (4, 14, h ++ t ++ a)
  | .seamp h t a => some (4, 15, h ++ t ++ a)
  | .seamcClose d h => some (4, 16, d ++ h ++ 0#6)
  | .seamcSettle t h => some (4, 16, t ++ h ++ 1#6)
  | .seams d h t => some (4, 17, d ++ h ++ t)
  | .wpop d n b => some (4, 18, d ++ n ++ b ++ 0#9)
  | .wpopQ n b m => some (4, 18, 0#6 ++ n ++ b ++ 1#1 ++ m ++ 0#4)
  | .wpush d a n b => some (4, 19, d ++ a ++ n ++ b ++ 0#3)
  | .wclose n => some (4, 20, 0#12 ++ n ++ 0#4)
  | .coll d a => some (4, 21, d ++ a ++ 0#6)
  | .collw d a b => some (4, 22, d ++ a ++ 0#5 ++ b)
  | .life a b c x => some (4, 23, a ++ b ++ c ++ x ++ 0#3)
  | .refr a b => some (4, 24, a ++ b ++ 0#6)
  | .ageq d a => some (4, 25, d ++ a ++ 0#6)
  | .dmaq d a b => some (4, 26, d ++ a ++ b)
  | .nop => some (6, 0, 0#18)
  | .bar v => some (6, 1, 0#16 ++ v)
  | .barq d v => some (6, 2, d ++ 0#10 ++ v)
  | .fence c => some (6, 3, 0#15 ++ c)
  | .chk k r i => some (6, 4, k ++ r ++ i)
  | .chkt k r => some (6, 5, k ++ r ++ 0#10)
  | .pclr k r => some (6, 6, k ++ r ++ 0#10)
  | .trap n => some (6, 7, 0#6 ++ n)
  | .tret => some (6, 8, 0#18)
  | .yield => some (6, 9, 0#18)
  | .swpt k => some (6, 10, 0#6 ++ k)
  | .done => some (6, 11, 0#18)
  | .waite d a m => some (6, 12, d ++ a ++ m)
  | .brk n => some (6, 13, 0#6 ++ n)
  | .gcond a b => some (6, 14, 0#6 ++ a ++ b)
  | .ecall => some (6, 15, 0#18)
  | .frz d a y => some (6, 16, d ++ a ++ 0#5 ++ y)
  | .thaw d a b => some (6, 17, d ++ a ++ b)
  | .park d a => some (6, 18, d ++ a ++ 0#6)
  | .pmpw n a b => some (6, 19, n ++ 0#2 ++ a ++ b)
  | .tlbi a b => some (6, 20, 0#6 ++ a ++ b)
  | .keyl a b => some (6, 21, 0#6 ++ a ++ b)
  | .slotb d a b => some (6, 22, d ++ a ++ b)
  | .siteq d a => some (6, 23, d ++ a ++ 0#6)
  | .sitec d a b => some (6, 24, d ++ a ++ b)
  | .qcbb d a b => some (6, 25, d ++ a ++ b)
  | .halt => some (6, 26, 0#18)
  | .bh _ _ _ _ => none
  | .kx _ => none
  | .coldStart => none
  | .bstatGo => none
  | .wsreqGo => none
  | .warmStartDecision => none
  | .dieReady => none
  | .calibrationComplete => none
  | .svnupWrite => none
  | .attestationRequest => none
  | .certificateRequest => none
  | .ucieLinkFailure => none
  | .ualinkLaneFailure => none
  | .launchPacket => none
  | .launchPacketRecheck => none
  | .forwardedWrite => none
  | .forwardEnd => none
  | .remoteWrite => none
  | .remoteRead => none
  | .sensorSample => none
  | .clockRestart => none
  | .doorbell => none
  | .nopCommand => none
  | .invoke => none
  | .loadslot => none
  | .unloadslot => none
  | .swapweights => none
  | .graph => none
  | .copyh => none
  | .signal => none
  | .wait => none
  | .fenceCommand => none
  | .mark => none
  | .waitSatisfied => none
  | .waitTimeout => none
  | .cconsPoll => none
  | .copyhDone => none
  | .pageRequestResponse => none
  | .slotLoadDone => none
  | .generationRetired => none
  | .bind => none
  | .rebind => none
  | .detach => none
  | .release => none
  | .handleCommit => none
  | .pcreate => none
  | .pdestroy => none
  | .psend => none
  | .pmark => none
  | .pfab => none
  | .vfcreate => none
  | .vfdestroy => none
  | .vfquota => none
  | .vfkey => none
  | .vfalloc => none
  | .vfallocZeroed => none
  | .vffree => none
  | .mstart => none
  | .msnap => none
  | .mquiesce => none
  | .quiesceComplete => none
  | .mquiesceTimeout => none
  | .mcut => none
  | .msave => none
  | .mrestore => none
  | .mrelay => none
  | .mfwdc => none
  | .mabort => none
  | .vfCountLowered => none
  | .watchdogExpiry => none
  | .wdack => none
  | .temptabWrite => none
  | .slctlWrite => none
  | .ptrootWrite => none
  | .fltrSupply => none
  | .fltrRefuse => none
  | .pageWalk => none
  | .schedulerSelection => none
  | .reservationRetry => none
  | .sliceBoundary => none
  | .residencyRotation => none
  | .yieldDeadline => none
  | .yieldComplete => none
  | .barrierArrival => none
  | .graphNodeRun => none
  | .graphDeadlineOverrun => none
  | .scanOutComplete => none
  | .inboxHeldDelivery => none
  | .packetResend => none
  | .streamRowTransfer => none
  | .copyChannelTransfer => none
  | .postArrival => none
  | .latchFill => none
  | .matrixOpComplete => none
  | .lifetimeTick => none
  | .rowGroupExpiry => none
  | .refreshQueued => none
  | .rowGroupRefresh => none
  | .rowGroupClear => none
  | .eld3Read => none
  | .elclr => none
  | .einjcWrite => none
  | .elqselWrite => none
  | .logQueryDone => none
  | .elqd3Read => none
  | .elqclr => none
  | .ownershipReply => none
  | .gateRecordArrival => none
  | .putArrival => none
  | .seamResend => none
  | .seamTimeout => none
  | .slotRelease => none
  | .seamRefill => none
  | .collectiveComplete => none
  | .taskDone => none
  | .waiteTimeout => none
  | .registerWrite => none
  | .memoryResponse => none
  | .fabricTransportFailure => none
  | .sriovVfEnable => none

/-- The 32 bits of a word (Tables 13-1 and 13-4); `none` for a step that has no word. -/
def encode (w : Word) : Option Word32 :=
  match w.instr with
  | .bh s v p t => some (7#3 ++ BitVec.ofBool w.last ++ 0#2 ++ s ++ v ++ p ++ t)
  | .kx i => some (7#3 ++ BitVec.ofBool w.last ++ 1#2 ++ i)
  | i =>
    match i.code with
    | some (e, o, x) => some (e ++ BitVec.ofBool w.last ++ w.guard ++ o ++ x)
    | none => none

end Sys2Proof
end

