-- ==== Sys2Proof/Config.lean ====
section
/-!
DEFINITION. What an implementation fixes and the spec does not state: opaque constants without a body,
so that nothing can be proved about their values (assumption log 6, 7, 8, 9, 14).
-/
namespace Sys2Proof

/-- ML-DSA-44 verification: key, message, signature (R34). Log 7. -/
opaque Config.mldsaVerify : List Byte → List Byte → List Byte → Bool
/-- ML-DSA-44 signature of a message under a seed (R43). Log 7. -/
opaque Config.mldsaSign : List Byte → List Byte → List Byte
/-- Key and certificate derivation from a seed and a label (R43). Log 7. -/
opaque Config.derive : List Byte → List Byte → List Byte
/-- The monitor image that the boot flash holds at manufacture (R33), and the identity certificate beside it (R43). Log 6. -/
opaque Config.factoryImage : List Byte
opaque Config.certificate : List Byte
/-- The bytes of the partition, VF and key-slot assignment that CFGDIG digests (R44). Log 7. -/
opaque Config.assignment : List Nat → List Byte
/-- The values of a special function inside its error bound: function, type code, operand bits
(R399, R312). Log 8. -/
opaque Config.special : Nat → Nat → Nat → Nat
/-- The free value drawn n-th (the State field `free` counts). Log 9. -/
opaque Config.freeValue : Nat → Dword
/-- Values fused or programmed at manufacture: index, value (R34, R43; Table 2-6). Log 6. -/
opaque Config.fused : Nat → Dword

/-- The UALink port (0 to 3) through which a fabric node is reached; 4 or more where it is reached over Ethernet (R67). Log 68. -/
opaque Config.portOf : Nat → Nat
/-- Where an item lies in an array whose layout no rule gives (seam slots: array, item). Log 14. -/
opaque Config.wordAt : Nat → Nat → Nat

end Sys2Proof
end

