-- ==== Sys2Proof/Machine/Map.lean ====
section
/-!
DEFINITION. The one container of the model: a finite map from numbers to values that is plain data in
ONE canonical form (keys strictly rising, no entry equal to what an unlisted key reads as), so that
equal contents are equal data. Byte memories, register files, tables of rows, panels, functions and
launches are all held so. `d` is what an unlisted key reads as.
-/
namespace Sys2Proof.Machine

/-- A finite map: pairs of a key and a value, keys strictly rising. A byte memory is a list of
`Host.Cell`. -/
abbrev SMap (α : Type) := List (Nat × α)

/-- The value at key `k`; `d k` when the key is not listed. -/
def SMap.get {α : Type} (d : Nat → α) (m : SMap α) (k : Nat) : α :=
  match m with
  | [] => d k
  | (j, v) :: t => if k = j then v else SMap.get d t k

/-- Drop the entry of key `k`, if there is one. -/
def SMap.erase {α : Type} (m : SMap α) (k : Nat) : SMap α :=
  match m with
  | [] => []
  | (j, v) :: t => if k = j then SMap.erase t k else (j, v) :: SMap.erase t k

/-- Put an entry at key `k`, in order. -/
def SMap.put {α : Type} (m : SMap α) (k : Nat) (x : α) : SMap α :=
  match m with
  | [] => [(k, x)]
  | (j, v) :: t =>
    if k = j then (k, x) :: t else if k < j then (k, x) :: (j, v) :: t else (j, v) :: SMap.put t k x

/-- Write `x` at key `k`, keeping the canonical form: writing what an unlisted key reads as removes
the entry. -/
def SMap.set {α : Type} [DecidableEq α] (d : Nat → α) (m : SMap α) (k : Nat) (x : α) : SMap α :=
  if x = d k then SMap.erase m k else SMap.put m k x

/-- Every key of the map is at least `lo`, the keys rise strictly, and no entry is the unlisted value. -/
def SMap.wfFrom {α : Type} [DecidableEq α] (d : Nat → α) (lo : Nat) (m : SMap α) : Bool :=
  match m with
  | [] => true
  | (j, v) :: t => decide (lo ≤ j) && decide (v ≠ d j) && SMap.wfFrom d (j + 1) t

/-- The canonical form. -/
def SMap.wf {α : Type} [DecidableEq α] (d : Nat → α) (m : SMap α) : Bool := SMap.wfFrom d 0 m

/-- Change the value at one key. -/
def SMap.modify {α : Type} [DecidableEq α] (d : Nat → α) (m : SMap α) (k : Nat) (f : α → α) : SMap α :=
  SMap.set d m k (f (SMap.get d m k))

/-- Drop every key from `lo` up to but not including `hi`. -/
def SMap.clearRange {α : Type} (m : SMap α) (lo hi : Nat) : SMap α :=
  m.filter fun e => decide (e.1 < lo) || decide (hi ≤ e.1)

/-- The listed keys. -/
def SMap.keys {α : Type} (m : SMap α) : List Nat := m.map Prod.fst

/-! ### Byte memories -/

/-- A byte memory; an unlisted address reads zero (Table 2-5 of 02_bring_up_and_trust). -/
abbrev Memory := SMap Byte

/-- What an unlisted byte reads as: zero, the contents Table 2-5 (R45) gives every memory at a cold start. -/
def memDefault : Nat → Byte := fun _ => 0

/-- The canonical form of a byte memory. -/
def Memory.wf (m : Memory) : Bool := SMap.wf memDefault m

/-- One byte. -/
def Memory.read (m : Memory) (a : Nat) : Byte := SMap.get memDefault m a

/-- Store one byte. -/
def Memory.write (m : Memory) (a : Nat) (b : Byte) : Memory := SMap.set memDefault m a b

/-- `n` bytes from address `a`, as a number whose byte 0 is least significant (R3). -/
def Memory.readNat (m : Memory) (a n : Nat) : Nat :=
  match n with
  | 0 => 0
  | k + 1 => (Memory.read m a).toNat + 256 * Memory.readNat m (a + 1) k

/-- Store the `n` low bytes of a number at address `a`, byte 0 first (R3). -/
def Memory.writeNat (m : Memory) (a n v : Nat) : Memory :=
  match n with
  | 0 => m
  | k + 1 => Memory.writeNat (Memory.write m a (BitVec.ofNat 8 v)) (a + 1) k (v / 256)

/-- The bytes at `a`, `a + 1`, … as a list. -/
def Memory.readList (m : Memory) (a n : Nat) : List Byte :=
  match n with
  | 0 => []
  | k + 1 => Memory.read m a :: Memory.readList m (a + 1) k

/-- Store a list of bytes from address `a` up. -/
def Memory.writeList (m : Memory) (a : Nat) (bs : List Byte) : Memory :=
  match bs with
  | [] => m
  | b :: t => Memory.writeList (Memory.write m a b) (a + 1) t

/-- Zero the `n` bytes from `a` (they become unlisted). -/
def Memory.zero (m : Memory) (a n : Nat) : Memory := SMap.clearRange m a (a + n)

/-! ### Numbers packed in byte lists (command entries, descriptors, images) -/

/-- Byte `i` of a list, zero past its end. -/
def byteAt (bs : List Byte) (i : Nat) : Nat := ((bs[i]?).getD 0).toNat

/-- The little-endian number in bytes `i` to `i + n - 1` of a list (R3). -/
def leAt (bs : List Byte) (i n : Nat) : Nat :=
  match n with
  | 0 => 0
  | k + 1 => byteAt bs i + 256 * leAt bs (i + 1) k

/-- The `n` little-endian bytes of a number (R3). -/
def leBytes (v n : Nat) : List Byte :=
  match n with
  | 0 => []
  | k + 1 => BitVec.ofNat 8 v :: leBytes (v / 256) k

/-- True when bytes `i` to `i + n - 1` are all zero. -/
def zeroAt (bs : List Byte) (i n : Nat) : Bool := leAt bs i n == 0

/-- Bits hi..lo of a number. -/
def nbits (v hi lo : Nat) : Nat := (v >>> lo) % 2 ^ (hi + 1 - lo)

/-- Bit k of a number. -/
def nbit (v k : Nat) : Bool := Nat.testBit v k

/-- The signed value of the low `w` bits of a number (two's complement). -/
def sext (w v : Nat) : Int :=
  let x := v % 2 ^ w
  if w = 0 then 0 else if x < 2 ^ (w - 1) then (x : Int) else (x : Int) - (2 ^ w : Nat)

/-- The low `w` bits of an integer, as a number. -/
def wrapN (w : Nat) (x : Int) : Nat := (x % ((2 ^ w : Nat) : Int)).toNat

end Sys2Proof.Machine
end

