-- ==== Sys2Proof/Machine/Num.lean ====
section
/-!
DEFINITION. Integers of the arithmetic (12_arithmetic R289, R297): type codes and their widths, lanes of a
row, wrapping and saturation, and the scalar integer functions of engine C (14_control_and_scalar R339-R343).
-/
namespace Sys2Proof.Machine

/-- The width in bits of a type code (Table 12-1); 0 for a reserved code. -/
def typeWidth (t : Nat) : Nat :=
  match t with
  | 0 => 8
  | 1 => 16
  | 2 => 32
  | 3 => 64
  | 4 => 8
  | 5 => 8
  | 6 => 16
  | 7 => 16
  | 8 => 32
  | 9 => 64
  | 10 => 4
  | 11 => 8
  | 12 => 16
  | 13 => 32
  | _ => 0

/-- INT of R379: the integer element types of the vector engine. -/
def isInt (t : Nat) : Bool := t == 0 || t == 1 || t == 2 || t == 11 || t == 12 || t == 13

/-- FL of R379: the floating-point element types. -/
def isFl (t : Nat) : Bool := 4 ≤ t && t ≤ 9

/-- The signed integer types. -/
def isSigned (t : Nat) : Bool := t ≤ 3

/-- Lanes of a 2,048-bit row (R195). -/
def lanesOf (t : Nat) : Nat := 2048 / typeWidth t

/-- Lane `i` of a row cut in lanes of `w` bits (R291). -/
def laneAt (w : Nat) (r : Row) (i : Nat) : Nat := (r.toNat >>> (w * i)) % 2 ^ w

/-- The lanes `0` to `n - 1` of a row. -/
def lanes (w n : Nat) (r : Row) : List Nat := (List.range n).map (laneAt w r)

/-- Lanes put together, lane 0 least significant. -/
def packLanes (w : Nat) (xs : List Nat) : Nat :=
  match xs with
  | [] => 0
  | x :: t => x % 2 ^ w + 2 ^ w * packLanes w t

/-- A row from its lanes. -/
def rowOf (w : Nat) (xs : List Nat) : Row := BitVec.ofNat 2048 (packLanes w xs)

/-- The integer a lane of type `t` stands for (R290). -/
def laneInt (t x : Nat) : Int := if isSigned t then sext (typeWidth t) x else ((x % 2 ^ typeWidth t : Nat) : Int)

/-- The bounds of an integer type. -/
def typeMin (t : Nat) : Int := if isSigned t then -((2 ^ (typeWidth t - 1) : Nat) : Int) else 0
def typeMax (t : Nat) : Int :=
  if isSigned t then ((2 ^ (typeWidth t - 1) : Nat) : Int) - 1 else ((2 ^ typeWidth t : Nat) : Int) - 1

/-- A saturating fit (R297): the lane bits and whether SAT is raised. -/
def satT (t : Nat) (x : Int) : Nat × Bool :=
  if x < typeMin t then (wrapN (typeWidth t) (typeMin t), true)
  else if typeMax t < x then (wrapN (typeWidth t) (typeMax t), true)
  else (wrapN (typeWidth t) x, false)

/-- Floor of `x / 2^k` (R386, R387). -/
def floorShift (x : Int) (k : Nat) : Int := x.fdiv ((2 ^ k : Nat) : Int)

/-! ### Scalars of engine C -/

/-- SInt(x): the two's-complement value of a 64-bit pattern. -/
def sInt (x : Dword) : Int := x.toInt

/-- Wrap an integer to 64 bits. -/
def dwInt (x : Int) : Dword := BitVec.ofInt 64 x

/-- Wrap a natural number to 64 bits. -/
def dw (x : Nat) : Dword := BitVec.ofNat 64 x

/-- A 64-bit value with its bits hi..lo replaced. -/
def putBits (v : Dword) (hi lo x : Nat) : Dword :=
  dw (v.toNat - bits v hi lo * 2 ^ lo + x % 2 ^ (hi + 1 - lo) * 2 ^ lo)

/-- One bit as a 64-bit value. -/
def dwBool (b : Bool) : Dword := if b then 1 else 0

/-- MULH and MULHU: the upper half of the product (Table 14-3). -/
def mulHigh (a b : Dword) : Dword := dwInt ((sInt a * sInt b).fdiv (2 ^ 64))
def mulHighU (a b : Dword) : Dword := dw (a.toNat * b.toNat / 2 ^ 64)

/-- DIV, DIVU, REM, REMU (R341): quotient of all ones and the dividend as remainder for a zero divisor. -/
def divS (a b : Dword) : Dword := if b = 0 then BitVec.allOnes 64 else dwInt ((sInt a).tdiv (sInt b))
def divU (a b : Dword) : Dword := if b = 0 then BitVec.allOnes 64 else dw (a.toNat / b.toNat)
def remS (a b : Dword) : Dword := if b = 0 then a else dwInt ((sInt a).tmod (sInt b))
def remU (a b : Dword) : Dword := if b = 0 then a else dw (a.toNat % b.toNat)

/-- CLZ and POPC (Table 14-3). -/
def clz64 (a : Dword) : Dword := dw (if a = 0 then 64 else 63 - Nat.log2 a.toNat)
def popCount (n : Nat) (a : Nat) : Nat :=
  match n with
  | 0 => 0
  | k + 1 => a % 2 + popCount k (a / 2)

/-- A signed field of `w` bits, extended by a KX payload when there is one (R316). -/
def extSigned (w : Nat) (f : Nat) (kx : Option (BitVec 26)) : Int :=
  match kx with
  | none => sext w f
  | some p => sext (w + 26) (p.toNat * 2 ^ w + f % 2 ^ w)

/-- The compare conditions in opcode order (R344). -/
inductive Cond where
  | eq
  | ne
  | lt
  | le
  | ltu
  | leu
  deriving DecidableEq, Repr

def Cond.holds (c : Cond) (a y : Dword) : Bool :=
  match c with
  | .eq => a == y
  | .ne => a != y
  | .lt => decide (sInt a < sInt y)
  | .le => decide (sInt a ≤ sInt y)
  | .ltu => decide (a.toNat < y.toNat)
  | .leu => decide (a.toNat ≤ y.toNat)

/-- Rotate a 32-bit number left. -/
def rotl32 (x k : Nat) : Nat := ((x <<< k) % 2 ^ 32) ||| ((x % 2 ^ 32) >>> (32 - k))

/-- One round of CG4 (R309). -/
def cg4Round (k j rho : Nat) (ab : Nat × Nat) : Nat × Nat :=
  let a := (ab.1 + ab.2) % 2 ^ 32
  let b := Nat.xor (rotl32 ab.2 rho) a
  (Nat.xor a ((k + j) % 2 ^ 32), b)

/-- The counter generator of lane `i` (R309): seed words `b`, `k` and the counter. -/
def cg4 (ctr b k i : Nat) : Nat :=
  let r := cg4Round k 3 24 (cg4Round k 2 16 (cg4Round k 1 12 (cg4Round k 0 8 ((ctr + i) % 2 ^ 32, b % 2 ^ 32))))
  Nat.xor r.1 r.2

end Sys2Proof.Machine
end

