-- ==== Sys2Proof/Machine/State.lean ====
section
/-!
DEFINITION. The state of a Niryah 740 package as plain data: the agent that issues (a tile task or a command
core), every other agent, and everything the package shares. INVENTORY.md lists the pieces with their rules.
-/
namespace Sys2Proof.Machine

/-! ### One agent -/

/-- A scalar register: 64 bits and a poison bit (R324). -/
structure SReg where
  v : Dword := 0
  p : Bool := false
  deriving DecidableEq, Repr

/-- A predicate: one bit and a poison bit (R324). -/
structure PReg where
  v : Bool := false
  p : Bool := false
  deriving DecidableEq, Repr

/-- A row of C, of a row queue, or an item of a scalar queue (in the low 64 bits), with its poison bit (R196). -/
structure RowP where
  v : Row := 0
  p : Bool := false
  deriving DecidableEq, Repr

/-- A 4 KiB row group of A or W (Table 9-1); `q` says that a refresh is queued, `due` that the tick found its limit
or its interval reached and what follows is still to be done (R223). -/
structure Group where
  v : Bool := false
  x : Bool := false
  cls : Nat := 0
  age : Nat := 0
  clr : Bool := false
  q : Bool := false
  due : Bool := false
  deriving DecidableEq, Repr

/-- An error held in a word of an array whose layout no rule gives: the word's address, and whether it is uncorrectable (R234, R238,
log 14). -/
structure ItemErr where
  addr : Nat
  ue : Bool
  deriving DecidableEq, Repr

/-- One item of a hardware queue; `src` is who pushed it: 0 the task or an engine of the tile, 1 a stream
engine, 2 an inbound post (R214); an error it holds (R234). -/
structure QItem where
  row : RowP
  src : Nat
  err : Option ItemErr
  deriving DecidableEq, Repr

/-- A hardware queue (R200, R201, Tables 8-8, 17-7): bound or not, producer, consumer, port, items oldest
first, rows reserved by drains (R203); how many items have entered it, which says where the next one lies (log 14). -/
structure HQ where
  bound : Bool := false
  prod : Nat := 0
  cons : Nat := 0
  port : Nat := 0
  items : List QItem := []
  resv : Nat := 0
  pos : Nat := 0
  deriving DecidableEq, Repr

/-- A stream engine (R205, R425): 0 IDLE, 1 LOADED, 2 RUNNING; its program's bytes; pass, step and nest
position; indices popped and not yet used; SSTOP asked; the cycle from which its next row from a local space can be pushed (R193). -/
structure SEng where
  st : Nat := 0
  prog : List Byte := []
  pass : Nat := 0
  step : Nat := 0
  nest : List Nat := []
  moved : Nat := 0
  pend : List (Nat × Bool) := []
  stop : Bool := false
  halted : Bool := false
  nextAt : Nat := 0
  deriving DecidableEq, Repr

/-- A command of a copy channel (R208, Table 17-8): 0 CPY, 1 CPYP, 2 CPYM; operands; bytes done; members or
posts still unanswered; the physical regions it was checked against (R252); a remote read sent for its source (R428); its place
in the order the task's words were issued (R261). -/
structure CCmd where
  op : Nat
  dst : Dword
  src : Dword
  ctl : Dword
  done : Nat := 0
  wait : List Nat := []
  held : List Nat := []
  asked : Bool := false
  id : Nat := 0
  deriving DecidableEq, Repr

/-- A copy channel: its commands, the one in progress first; halted by an engine trap (R215). -/
structure Chan where
  cmds : List CCmd := []
  halted : Bool := false
  deriving DecidableEq, Repr

/-- A row of the A latch (R211): 1,024 bits, its scale word and poison; an error it holds (R234). -/
structure LRow where
  v : BitVec 1024 := 0
  scale : Dword := 0
  p : Bool := false
  err : Option ItemErr := none
  deriving DecidableEq, Repr

/-- A fill of a latch buffer not yet performed (R416-R418): buffer, the 32 source addresses, ATYPE at issue,
its place in issue order, the cycle it ends at (Table 17-5). -/
structure Fill where
  buf : Nat
  addrs : List Nat
  atype : Nat
  seq : Nat
  fin : Nat
  deriving DecidableEq, Repr

/-- An operation of the M queue (R423): 0 MMA, 1 MMAZ, 2 MDRAIN, 3 MZERO, 4 MSPILL, 5 MFILL; tile; latch
buffer or queue; MCFG latched at issue; profile; type; address; next row; a stamped late latch (R421); place
in issue order; the cycles it starts and ends at, where nothing without a fixed latency holds it (Table 17-5). -/
structure MOp where
  kind : Nat
  tile : Nat
  buf : Nat
  cfg : Dword
  prof : Nat
  type : Nat
  addr : Dword
  row : Nat
  late : Bool
  seq : Nat
  start : Nat
  fin : Nat
  deriving DecidableEq, Repr

/-- A loop in progress (R212, R354): kernel bounds, count, stages, iterations entered, suspended by a trap. -/
structure LoopS where
  start : Nat
  stop : Nat
  n : Nat
  k : Nat
  j : Nat
  susp : Bool
  deriving DecidableEq, Repr

/-- A trap an engine recorded, to be taken before the next bundle (R215): cause, value, and the engine that
halted (0-3 se, 4-5 cc, 6 matrix, 7 seam, 8 none). -/
structure PTrap where
  code : Nat
  tval : Dword
  eng : Nat
  deriving DecidableEq, Repr

/-- An access of a word to global memory: 0 a load, 1 a store, 2 AMO, 3 CAS; address and bytes; sign extension, or AMO's
function; its operands; the bytes stored; whether it is speculative. -/
structure Todo where
  op : Nat
  ea : Dword
  n : Nat
  fn : Nat := 0
  x : Dword := 0
  y : Dword := 0
  data : List Byte := []
  spec : Bool := false
  deriving DecidableEq, Repr

/-- A result on its way to a register (R193, R412): kind 0 scalar, 1 vector row name (C row number), 2
vector port, 3 scalar port, 4 none; destination; value and poison. `todo` is the access it comes from, while that still has to be
carried out: its mapping was missing (R179), its stack takes no requests (R159), or one before it waits so (R363). -/
structure Resp where
  kind : Nat
  dst : Nat
  row : RowP
  todo : Option Todo := none
  deriving DecidableEq, Repr

/-- An ownership word that waits for its home (R368): 0 OWNX, 1 OWNA, 2 OWNS, 3 OWNF, 4 OWNQ; address, operand; once it has
been sent (R369) its place in the order of arrival and the physical region; then the home's answer: none yet, or a trap's TVAL, or
the value to write. -/
structure OwnReq where
  op : Nat
  ea : Dword
  arg : Nat
  sent : Option Nat := none
  reg : Nat := 0
  reply : Option (Bool × Dword) := none
  deriving DecidableEq, Repr

/-- What the agent waits for before its next bundle (R372, R443). -/
inductive Wait where
  | none
  /-- SEMWAIT: the VSN it named, the semaphore (panel, index), count; R372. -/
  | sem (vsn panel idx n : Nat)
  /-- The value an acquire returns; R367. -/
  | resp
  /-- BAR: level and the phase count that ends the wait; R444. -/
  | bar (lvl target : Nat)
  /-- FENCE; R447. -/
  | fence (scope : Nat)
  /-- WAITE: destination, mask, and the time-out instant in ns; R459. -/
  | event (d mask : Nat) (until_ : Option Nat)
  /-- GCOND: address or word, value; R460. -/
  | gcond (a b : Dword)
  /-- YIELD or a drained loop: the task stopped at a yield point; R182. -/
  | yielded
  /-- DONE, engines not yet quiet; R458. -/
  | done
  /-- The task has executed DONE; R117. -/
  | ended
  /-- HALT; R470. -/
  | halt
  deriving DecidableEq, Repr

/-- What a bundle that cannot issue waits on: an item of hardware queue `n`, or room there; an item of a work queue, or room in it
(R142). -/
inductive Block where
  | queue (n : Nat)
  | pop (k : Nat)
  | push (k : Nat)
  deriving DecidableEq, Repr

/-- Registers of an agent. Control registers are by number (Table 13-6). -/
structure Regs where
  s : SMap SReg := []
  p : SMap PReg := []
  csr : SMap Dword := []
  pc : Dword := 0
  npc : Dword := 0
  deriving DecidableEq, Repr

/-- The memories of an agent (Table 8-2; on a command core `sm` is its own memory, R105), row groups,
race-check bits (R213), the channel position at which a copy channel wrote a granule (R432) and words that hold an
injected error (R238). -/
structure Mems where
  sm : Memory := []
  am : Memory := []
  wm : Memory := []
  im : Memory := []
  crow : SMap RowP := []
  ag : SMap Group := []
  wg : SMap Group := []
  race : SMap Nat := []
  rpos : SMap Nat := []
  err : SMap Nat := []
  deriving DecidableEq, Repr

/-- A TLB entry (R244). -/
structure TlbE where
  va : Nat
  size : Nat
  pa : Nat
  rd : Bool
  wr : Bool
  deriving DecidableEq, Repr

/-- A seam packet of this tile not yet answered (R273): number, panel, kind 0 gate 1 put, handle, token,
expert, slab, data; refused and not yet accepted, and of those the ones to be sent again; not yet sent. -/
structure SPkt where
  seq : Nat
  panel : Nat
  kind : Nat
  handle : Dword
  token : Nat
  expert : Nat
  slab : Nat
  data : List Nat
  refused : Bool
  unsent : Bool
  again : Bool := false
  deriving DecidableEq, Repr

/-- A logical task (R115, R253): launch key, task number. -/
structure TaskId where
  launch : Nat
  task : Nat
  deriving DecidableEq, Repr

/-- A packet under way to a tile or a panel: 0 a post into a space or queue, 1 a gate record, 2 a put, 3 a
seam release, 4 a seam status item. `src` is the sending agent (site) or 2,048 + panel; `task` its destination; `extra` what its kind adds
(a post: channel, bytes, whether of a CPYM). -/
structure Pkt where
  kind : Nat
  src : Nat
  srcTask : Nat
  task : TaskId
  seq : Nat
  addr : Dword
  ctl : Dword
  data : List Byte
  poison : Bool
  extra : List Nat
  err : Option ItemErr := none
  deriving DecidableEq, Repr

/-- A Q = 1 pop outstanding (R434): work queue, scalar queue, the outcome and item once they have come. -/
structure WPopQ where
  wq : Nat
  hq : Nat
  got : Option (Nat × Dword) := none
  deriving DecidableEq, Repr

/-- The engines of a tile; `mhalt` and `ghalt` say that the matrix transfer path and the gather unit halted at a trap
(R215, R422), `ihalt` that inbound traffic, `xhalt` that the releases of its seam sets and `thalt` that its words' accesses still to be
carried out did; `posts` holds refused
posts to be sent again (R204); `handles` the keys of the seam sets it knows (R433); `colls` its collectives by identifier (2 × number + 1 while it runs, then 2 × (result + 1); R436), `collN` how
many it has started at each level (R437); `wgot` what a blocked WPOP has been given and its bundle has not yet taken: queue, outcome, item (R138); `closing` the set that a SEAMC
waits to close (R283); `answers` what panels answered to seam packets while the task was stopped: panel, number, accepted (R286). -/
structure Engs where
  hq : SMap HQ := []
  se : SMap SEng := []
  ch : SMap Chan := []
  lat : SMap LRow := []
  fills : List Fill := []
  mq : List MOp := []
  mhalt : Bool := false
  ghalt : Bool := false
  ihalt : Bool := false
  xhalt : Bool := false
  thalt : Bool := false
  posts : List Pkt := []
  seq : Nat := 0
  tlb : SMap (List TlbE) := []
  snd : SMap Nat := []
  rcv : SMap Nat := []
  pkts : List SPkt := []
  answers : List (Nat × Nat × Bool) := []
  wpops : List WPopQ := []
  wgot : Option (Nat × Nat × Dword) := none
  colls : SMap Nat := []
  collN : SMap Nat := []
  handles : List Nat := []
  closing : Option Nat := none
  deriving DecidableEq, Repr

/-- The front end and what it waits for (`wait2` after `wait`, when two words of a bundle made it wait); `arrReq` lists the levels whose arrival a BAR or BARQ has asked for and
that is not yet recorded, with the place in issue order before which posts must be answered (R261); `barq` the levels of BARQs that no BAR has joined, with
the count each waits for (R446). `cyc` counts die cycles since the task started (TCYC, Table 7-3);
SFC counts from `sfc0`; `blockAt` is the instant from which it has been blocked, `blockOn` the queue its bundle waits on (R142); `rdy` gives the cycle from which a result can be used (R337). -/
structure Ctl where
  cyc : Nat := 0
  sfc0 : Nat := 0
  rdy : SMap Nat := []
  resp : List Resp := []
  wait : Wait := .none
  wait2 : Wait := .none
  blockAt : Option Nat := none
  blockOn : Option Block := none
  loop : Option LoopS := none
  ptraps : List PTrap := []
  ev : Nat := 0
  arrReq : List (Nat × Nat) := []
  barq : List (Nat × Nat) := []
  own : Option OwnReq := none
  yieldReq : Bool := false
  task : Option TaskId := none
  vf : Nat := 0
  part : Nat := 0
  crash : Option (Nat × Nat) := none
  flt : List (Nat × Nat × Nat × Nat) := []
  deriving DecidableEq, Repr

/-- One agent: a tile's task, or a command core. -/
structure Core where
  rf : Regs := {}
  mem : Mems := {}
  eng : Engs := {}
  ctl : Ctl := {}
  deriving DecidableEq, Repr

/-! ### What a machine stop is called -/

/-- Why the machine stops with a fault. No instruction of the spec ends so: the one reason guards a state
no step of the machine reaches. -/
inductive Fault where
  /-- Raised by `step` when `me` names no agent of the package (R1, R105). Safe: such a state is not
  reachable, and the hardware has no such agent. -/
  | noAgent
  deriving DecidableEq, Repr

/-- Why the machine refuses. -/
inductive Refusal where
  /-- Raised by an arm of `exec` whose instruction has no meaning in the model. Safe: nothing is claimed. -/
  | notModelled (mnemonic : String)
  deriving DecidableEq, Repr

/-! ### What agents share -/

/-- A site (R122, R162, R463): reservation state 0 FREE, 1 TENT, 2 HELD, 3 PARKED; the reservation's holder
(launch × 2^16 + gang, or 2^200 + command core); tile state 0 none, 1 RUNNING, 2 YIELDING, 3 FROZEN, 4 PARKED
with a shadow image, 5 PARKED with a yield record, 6 CRASHED; occupant; the VF that last used it; place in the order in which tiles
stopped (R166). -/
structure Site where
  rst : Nat := 0
  holder : Nat := 0
  tst : Nat := 0
  occ : Option TaskId := none
  last : Nat := 0
  ord : Nat := 0
  deriving DecidableEq, Repr

/-- A waiter of a semaphore (R133): a task's site or a command core (agent), or a queue's WAIT command
(2,048 + 16 × VFN + QIDX), and its count. -/
structure Waiter where
  who : Nat
  n : Nat
  deriving DecidableEq, Repr

/-- A hardware semaphore (R133): `granted` holds waiters served and not yet resumed; `vf` is the VF whose map the monitor
last put it in (R100). -/
structure Sem where
  count : Nat := 0
  vf : Nat := 0
  waiters : List Waiter := []
  granted : List Nat := []
  deriving DecidableEq, Repr

/-- A work queue (R136, R137): capacity, closed, items oldest first, blocked poppers and pushers: 32 × agent, and for
a Q = 1 pop of it 16 + its scalar queue more; an error in its words of the stage cache (R234). -/
structure WQ where
  cap : Nat := 0
  closed : Bool := false
  items : List Dword := []
  poppers : List Nat := []
  pushers : List Nat := []
  err : Option ItemErr := none
  deriving DecidableEq, Repr

/-- A slot of a seam set (Table 11-3, Table 11-6): token, arrivals, state, experts, gates, µs boundaries left
while the timer runs, data rows, settled by substitution, renormalise, an error met, rows that hold an error (255 the
header; R287), data rows of the release already written, the number of its post that an inbox holds (R276), the cycle it was settled in
where others may have been (R276). -/
structure SeamSlot where
  token : Nat
  arr : Nat := 0
  st : Nat := 0
  eidx : List Nat := []
  gates : List Nat := []
  timer : Option Nat := none
  rows : SMap (List Nat) := []
  subst : Bool := false
  renorm : Bool := false
  ue : Bool := false
  errs : List (Nat × ItemErr) := []
  wrote : Bool := false
  held : Option Nat := none
  stamp : Nat := 0
  deriving DecidableEq, Repr

/-- A seam set (R265-R285), held under its lead panel and set index: owner's launch and task, descriptor,
window base, release count, counters of SST1, flags of SST2, slots by slab × 65,536 + slot, slabs released
per token; whether its launch ran at the last µs boundary (R278); the unit of the save area it is spilled to (R285). -/
structure SeamSet where
  isOpen : Bool := false
  oseq : Nat := 0
  launch : Nat := 0
  owner : Nat := 0
  desc : List Byte := []
  wb : Nat := 0
  rcnt : Nat := 0
  late : Nat := 0
  dup : Nat := 0
  stray : Nat := 0
  substN : Nat := 0
  ovf : Bool := false
  nv : Bool := false
  ue : Bool := false
  spl : Bool := false
  slots : SMap SeamSlot := []
  rel : SMap Nat := []
  ran : Bool := false
  place : Nat := 0
  deriving DecidableEq, Repr

/-- An entry of an error log (Table 9-10), and whether it has been read. -/
structure ElEntry where
  bytes : List Byte := []
  read : Bool := true
  deriving DecidableEq, Repr

/-- An error log (R235, Table 9-11). -/
structure ElLog where
  ents : SMap ElEntry := []
  ce : Nat := 0
  ue : Nat := 0
  lost : Nat := 0
  next : Nat := 0
  deriving DecidableEq, Repr

/-- A fault record at a walker or in the fault ring (R179, R247): the entry's bytes, what waits for it (kind
0 a tile's record: agent and engine; 1 a copy; 2 a seam release), written as entry `cnt`, resolved. -/
structure FltRec where
  bytes : List Byte
  who : Nat
  eng : Nat
  va : Nat
  acc : Nat
  cnt : Option Nat
  task : Option TaskId := none
  deriving DecidableEq, Repr

/-- An HBM stack's derate state (R158): state, instant it was entered, temperature. -/
structure Stack where
  dr : Nat := 0
  at_ : Nat := 0
  temp : Int := 0
  deriving DecidableEq, Repr

/-- A panel (01_package R7-R10, 04 R105, 05, 07 R172, 09 R235, 10 R247, 11): partition; the enabled sites of
PSMAP; semaphores; sequence numbers handed out and set keys per set index; units of seam capacity in use;
packets arriving and the park inbox; error log; fault records; pair counters toward tasks and last accepted numbers
of senders (R170, R273, R276); the walker's cache of
non-leaf entries (address, entry; R244), the most recent first; four sensors in quarter degrees; retention band
and the instant it was entered; watchdog pending, and the instant WDCNT reaches zero (R110). -/
structure Panel where
  part : Option Nat := none
  psmap : Nat := 0x3FFFFFFFF
  sems : SMap Sem := []
  oseq : SMap Nat := []
  setOf : SMap Nat := []
  units : Nat := 0
  inq : List Pkt := []
  inbox : List Pkt := []
  log : ElLog := {}
  flts : List FltRec := []
  snd : SMap Nat := []
  last : SMap Nat := []
  walkc : List (Nat × Nat) := []
  sensors : List Int := [0, 0, 0, 0]
  band : Nat := 3
  bandAt : Nat := 0
  wd : Bool := false
  wdAt : Nat := 1000000
  deriving DecidableEq, Repr

/-- A compute die (02 R37-R42, 06): DIERDY, start-up steps still to be done, DIECAL and the calibrated point in quarter
degrees (R41), a failed link, granted level and its target while the clock is stopped, thermal cap, power cap, instant of
the last change of grant (R150); `c0` die cycles, in twentieths, had passed at the instant `c0At` (R149). -/
structure Die where
  rdy : Bool := false
  wait : Bool := false
  calAt : Int := 0
  cal : Bool := false
  fail : Bool := false
  lvl : Nat := 3
  pend : Option Nat := none
  tcap : Nat := 0
  pcap : Nat := 0
  since : Option Nat := none
  c0 : Nat := 0
  c0At : Nat := 0
  deriving DecidableEq, Repr

/-- A gang (Table 5-13: 0 UNDISPATCHED, 1 RESIDENT, 2 YIELDED, 3 FROZEN, 4 ENDED): place, refusals met in a row and the
die cycle, in twentieths, of the next try (R123, R149), instant a yield was asked, order of freezing, saved off its sites, kind of its images
(Table 7-3), why it stopped (0 software asked and a THAW must resume it, R129; 1 pre-empted, a fault or a missing
feature, readmitted first, R127, R179, R187; 2 the launch-residency rule, R143), the block last reported by WAITE
event GS (R459), features its images require beside those of the task image (R187), held past a level-2 barrier until its phase
images are written (R185). -/
structure Gang where
  st : Nat := 0
  die : Nat := 0
  ox : Nat := 0
  oy : Nat := 0
  refused : Nat := 0
  retryAt : Nat := 0
  askedAt : Option Nat := none
  order : Nat := 0
  saved : Bool := false
  kind : Nat := 0
  why : Nat := 0
  told : Option Nat := none
  rfeat : Nat := 0
  toPhase : Bool := false
  deriving DecidableEq, Repr

/-- A section of a task image (Table 13-19): space, class and extend bit, offset, bytes in the space, contents. -/
structure Sect where
  space : Nat := 0
  lc : Nat := 0
  x : Bool := false
  off : Nat := 0
  mlen : Nat := 0
  bytes : List Byte := []
  deriving DecidableEq, Repr

/-- What a task image says (13 Tables 13-18, 13-19): kept with the launch. -/
structure Image where
  w : Nat := 1
  h : Nat := 1
  g : Nat := 1
  flags : Nat := 0
  nprof : Nat := 1
  rfeat : Nat := 0
  domid : Nat := 0xFFFF
  doml : Nat := 0
  wqs : List Nat := []
  sw : List (Nat × Nat × Nat) := []
  entries : List Nat := []
  sects : List Sect := []
  deriving DecidableEq, Repr

/-- Who is told when a launch ends: 0 a command of a queue (VFN, QIDX, TAG), 1 a graph node (run, node), 2
nobody but the launch packet's report. -/
structure Origin where
  kind : Nat
  a : Nat
  b : Nat
  tag : Nat
  deriving DecidableEq, Repr

/-- A launch (R63, Table 5-12: 0 ACCEPTED, 1 PENDING, 2 RUNNING, 3 ENDED): what its invocation fixed, its image, the
instants it became head and was admitted, its gangs, the arrivals at its barriers, who is told of its end, held for
phase migration (R185), the rank of its first task in its level-3 domain (Table 5-1), the instant the launch-residency rule last
acted on it (R143). -/
structure Launch where
  part : Nat := 0
  vf : Nat := 0
  qidx : Nat := 0
  inv : Nat := 0
  prio : Nat := 0
  slot : Nat := 0
  gen : Nat := 0
  nti : Nat := 0
  bufs : List Dword := []
  entry : Nat := 0
  img : Image := {}
  st : Nat := 0
  headAt : Option Nat := none
  admitAt : Option Nat := none
  gangs : SMap Gang := []
  arr1 : SMap (List Nat) := []
  arr2 : List Nat := []
  origin : Origin := ⟨2, 0, 0, 0⟩
  status : Nat := 0
  detail : Nat := 0
  phaseHold : Bool := false
  domBase : Nat := 0
  rotAt : Nat := 0
  deriving DecidableEq, Repr

/-- A level-3 domain (R120): member launches declared and admitted, tasks of those admitted, members ended, arrivals. -/
structure Dom where
  l : Nat := 0
  count : Nat := 0
  members : List Nat := []
  ended : Nat := 0
  arr : List (Nat × Nat) := []
  deriving DecidableEq, Repr

/-- A saved context off its site: the agent's contents and the kind of image (Table 7-3). -/
structure Saved where
  kind : Nat := 0
  site : Nat := 0
  slot : Nat := 0
  core : Core := {}
  deriving DecidableEq, Repr

/-- A collective (R436, R437): what makes it this one, its descriptor, whether a participant's differed, and the
participants that have joined, by rank: launch, task, identifier, BUF, RBUF, then the physical regions it holds. -/
structure Coll where
  key : List Nat := []
  desc : List Byte := []
  mism : Bool := false
  joined : SMap (List Nat) := []
  deriving DecidableEq, Repr

/-- A command taken from a queue (R58, R59): its count, OPC, FLAGS, TAG, and what it started (a launch key, a
slot, a copy or a graph run). -/
structure Cmd where
  cnt : Nat
  opc : Nat
  flags : Nat
  tag : Nat
  ref : Nat := 0
  deriving DecidableEq, Repr

/-- A host queue (R47-R55; 0 UNBOUND, 1 BOUND, 2 DETACHED, 3 ERROR): the partition a PF queue serves, QCB address and
cached bytes 0-47, the four counts, a recorded doorbell, started commands, a WAIT at the head (its entry and its deadline in ns),
records waiting for ring space, DMAQ entries (R80). -/
structure Queue where
  st : Nat := 0
  part : Nat := 0
  qcba : Nat := 0
  cache : List Byte := []
  head : Nat := 0
  tail : Nat := 0
  ccons : Nat := 0
  cprod : Nat := 0
  dbl : Bool := false
  started : List Cmd := []
  waitCmd : Option (List Byte × Option Nat) := none
  recs : List (List Byte × Bool) := []
  dmaq : List (List Byte) := []
  deriving DecidableEq, Repr

/-- A live weight generation of a slot (R69): number, address, length, launches that latched it, the
SWAPWEIGHTS command whose record waits for its retirement (queue key, command, new generation), physical regions. -/
structure WGen where
  gen : Nat
  waddr : Nat
  wlen : Nat
  users : List Nat := []
  swap : Option (Nat × Cmd × Nat) := none
  regs : List Nat := []
  deriving DecidableEq, Repr

/-- A resident-model slot (R65, Table 3-10: 0 EMPTY, 1 LOADING, 2 RESIDENT, 3 UNLOADING): its image, generations, source
of its weights, the command whose record waits, the physical regions of its image. -/
structure Slot where
  st : Nat := 0
  nti : Nat := 0
  ntil : Nat := 0
  cur : Nat := 0
  gens : List WGen := []
  src : Nat := 0
  faddr : Nat := 0
  cmd : Option (Nat × Cmd) := none
  regs : List Nat := []
  deriving DecidableEq, Repr

/-- A buffer handle (R79). -/
structure Handle where
  base : Nat := 0
  len : Nat := 0
  rd : Bool := false
  wr : Bool := false
  pasid : Nat := 0
  deriving DecidableEq, Repr

/-- A host copy in progress (R76-R78): queue key and command, direction, PASID, host address, device address,
length, bytes done, whether its regions are checked (1) or a fault entry is outstanding (2), regions held, or a graph
copy node (run, node); `req` 3 waits for a mapping on the way, 4 for a host page asked for through PRI (R78). Direction 2 marks a queue's command that waits for a mapping of a device address (R72), 3 a graph
copy from `haddr` to `daddr`, both device addresses (Table 5-11), 4 a graph's signal of a word, 5 a slot's load (slot `haddr`) that
waits for a mapping (R247). -/
structure Copy where
  q : Nat := 0
  cmd : Cmd := ⟨0, 0, 0, 0, 0⟩
  dir : Nat := 0
  pasid : Nat := 0
  haddr : Nat := 0
  daddr : Nat := 0
  len : Nat := 0
  done : Nat := 0
  req : Nat := 0
  held : List Nat := []
  node : Option (Nat × Nat) := none
  deriving DecidableEq, Repr

/-- A graph run (R139-R141): queue key and command, VF, descriptor, condition words, launch template, and per
node the completions received, times entered, state (0 idle, 1 ready, 2 running), deadline instant, overruns. -/
structure GNode where
  got : Nat := 0
  times : Nat := 0
  st : Nat := 0
  readyAt : Nat := 0
  overrun : Bool := false
  deriving DecidableEq, Repr
structure GRun where
  q : Nat := 0
  cmd : Cmd := ⟨0, 0, 0, 0, 0⟩
  vf : Nat := 0
  part : Nat := 0
  slot : Nat := 0
  gen : Nat := 0
  inv : Nat := 0
  prio : Nat := 0
  desc : List Byte := []
  cw : Nat := 0
  nodes : SMap GNode := []
  overruns : Nat := 0
  fail : Nat := 0
  deriving DecidableEq, Repr

/-- A launch packet accepted or waiting on a LOADING slot, and its report (R26, R27). -/
structure LPkt where
  port : Nat
  sender : Nat
  seq : Nat
  msg : List Byte
  deriving DecidableEq, Repr

/-- A forwarding entry (R113, R114): FWDID, VF, queue, the word's device address; the last SEQ sent or applied; 0 created,
1 relaying, 2 the restored WAIT at the destination; the other end's fabric node and partition; writes held (SEQ, value);
the regions that stay until it ends. -/
structure Fwd where
  id : Nat
  vf : Nat
  q : Nat
  addr : Nat
  seq : Nat := 0
  state : Nat := 0
  node : Nat := 0
  part : Nat := 0
  held : List (Nat × Nat) := []
  regs : List Nat := []
  deriving DecidableEq, Repr

/-- A partition (04 R84-R90): its panels as a mask, lead panel, marks, counters, translation root, scheduler's
pointers and tables, the offset in the monitor area below which its page tables lie. -/
structure Part where
  used : Bool := false
  mask : Nat := 0
  lead : Nat := 0
  presv : Bool := false
  lshare : Nat := 0
  inv : Nat := 0
  ptroot : Dword := 0
  reloc : SMap Nat := []
  ptrs : SMap Nat := []
  fab : SMap Dword := []
  doms : SMap Dom := []
  senders : SMap Dword := []
  lastSeq : SMap Nat := []
  reports : SMap (List (List Byte)) := []
  waiting : List LPkt := []
  fwds : List Fwd := []
  tbl : Nat := 0xC00000
  slice : Option Nat := none
  sliceAt : Nat := 0
  sliceVf : Nat := 0
  deriving DecidableEq, Repr

/-- A virtual function (04 R91-R99): quota registers (Table 4-4), slots, handles and their staging registers,
save slots in use (slot → launch × 2^20 + task; a slot past TILES is an overflow slot, `spill` its regions; R167), slots that keep a crash frame (R180), the physical regions of the
save area (R95), remote-launch queue, migration state. -/
structure VF where
  vqa : Dword := 0
  vqb : Dword := 0
  vqc : Dword := 0
  vqd : Dword := 0
  slots : SMap Slot := []
  handles : SMap Handle := []
  hbidx : Nat := 0
  hbbase : Dword := 0
  hblen : Dword := 0
  hbctl : Dword := 0
  saves : SMap Nat := []
  spill : SMap (List Nat) := []
  crashed : List Nat := []
  area : List Nat := []
  remote : List LPkt := []
  mig : Nat := 0
  dirty : SMap Bool := []
  migArg : List Nat := []
  deriving DecidableEq, Repr

/-- Something the package sent: 0 an MSI-X vector (function, vector), 1 a message on a link port, 2 an answer
to a DOE object, 3 a page request, 4 the answer to a remote read, 5 a message of Table 4-12 to a fabric node (a) and partition (b), 6 an error report through AER, 7 the width (b) at which a UALink port (a)
trains, reported to the monitor (R22), 8 a remote read request (port a, fabric node b; R67, R428). -/
structure Out where
  kind : Nat
  a : Nat
  b : Nat
  bytes : List Byte
  deriving DecidableEq, Repr

/-- A VF's state record (R112): the free value its bytes begin at and its length; the VF with its partition, the instant;
regions by device address with their entries; counts of semaphores by VSN; spilled sets, launches, phase images, work
queues and graph runs; queues; forwarding entries; the source partition's panels and their pair counters toward the VF's tasks: panel,
whether of what it received, task, number. -/
structure MRec where
  free : Nat := 0
  len : Nat := 0
  vfn : Nat := 0
  part : Nat := 0
  ns : Nat := 0
  vf : VF := {}
  regions : List (Nat × Nat × Nat) := []
  sems : List (Nat × Nat) := []
  sets : SMap SeamSet := []
  launches : SMap Launch := []
  saved : SMap Saved := []
  doms : SMap Dom := []
  wqs : SMap WQ := []
  runs : SMap GRun := []
  queues : SMap Queue := []
  fwds : List Fwd := []
  panels : List Nat := []
  pairs : List (Nat × Bool × Nat × Nat) := []
  deriving DecidableEq, Repr

/-- Boot and warm start (02 R33-R39): PHASE and FAIL of BSTAT, its WARM bit, whether the last start was a warm one, RES of
WSREQ; the monitor image in the boot flash (none: the one programmed at manufacture) and the recovery window; lanes of
UALink ports that train at less than four (R22); a thermal trip has shut the package down (R32). -/
structure Boot where
  phase : Nat := 2
  fail : Nat := 0
  warm : Bool := false
  last : Bool := false
  res : Nat := 0
  flash : Option (List Byte) := none
  window : Memory := []
  ports : SMap Nat := []
  trip : Bool := false
  deriving DecidableEq, Repr

/-- What the agents share: timestamp (R60), lifetime ticks taken (R219), MINSVN and the running image's SVN where
they differ from the fused ones (R34), the sensors of the two I/O dies in quarter degrees (R31), PWCAP, the monitor request
in progress (OP, VFN, then RESULT, a deadline in ns, or the four arguments of one that has to wait, and a seventh entry while a
bind request for its VF was there first; R88), the VF count the host has lowered to while VFs above it still wait to be destroyed (R91), stacks, the last 1,000 power samples and the samples before a mean
rule may act again (R153), HBM by physical address, its 64-byte units that
hold an error (R234, R238), the uncorrectable units found per 2 KiB row with their instants, and the ranges marked
(2 × row, 2 × region + 1; R236), host memory by I/O address, registers of
the management window by offset, the event ring's PHASE side, key slots, the key under which
the regions of each slot are encrypted (R98), boot and identity state, the tables
of units and the state records written. -/
structure Sys where
  ns : Nat := 0
  ticks : Nat := 0
  minsvn : Option Nat := none
  svn : Option Nat := none
  ioTemp : List Int := [0, 0]
  pwcap : Dword := 0
  hbmStacks : SMap Stack := []
  watts : List Nat := []
  meanHold : Nat := 0
  hbm : Memory := []
  hbmErr : SMap Nat := []
  hbmUe : SMap (List (Nat × Nat)) := []
  hbmMark : List Nat := []
  host : Memory := []
  regs : SMap Dword := []
  out : List Out := []
  keys : SMap Nat := []
  encKeys : SMap Nat := []
  vfCount : Nat := 0
  vfLow : Option Nat := none
  mc : List Nat := []
  panels : SMap Panel := []
  dies : SMap Die := []
  sites : SMap Site := []
  parts : SMap Part := []
  vfs : SMap VF := []
  queues : SMap Queue := []
  copies : SMap Copy := []
  runs : SMap GRun := []
  launches : SMap Launch := []
  wqs : SMap WQ := []
  sets : SMap SeamSet := []
  net : SMap (List Pkt) := []
  saved : SMap Saved := []
  colls : SMap Coll := []
  mrecs : List MRec := []
  boot : Boot := {}
  seq : Nat := 0
  deriving DecidableEq, Repr

/-- The machine: `me` is the agent that issues (a tile by site die × 144 + y × 12 + x, a command core by 1,152
plus its panel), `core` its contents, `rest` the other agents', `sys` what they share, `free` the count of
free values drawn (log 9). -/
structure Mach where
  me : Nat := 1152
  core : Core := {}
  rest : SMap Core := []
  sys : Sys := {}
  free : Nat := 0
  deriving DecidableEq, Repr

/-- The bundle being issued (R317, R318): the machine as it stood before its first word, the position and
bits of the word now executing, the bundle's word count, the KX payload of the next word (R316), the header's
profile and stamp (R323), lanes CG4 has used (R309), CTR written, next address set by an S word (R348); the ownership request its
word makes once every word has passed (R368); the translation fault its access met, which freezes the gang once it has issued
(R178): address, access, WHY; `probe` while a stamped bundle is tried for overruns, before any trap of its words, and what that found
(R320 step 5): position and TVAL. -/
structure Bundle where
  start : Mach
  widx : Nat := 0
  word : Word32 := 0
  count : Nat := 1
  ext : Option (BitVec 26) := none
  prof : Option Nat := none
  stamp : Option Nat := none
  adv : Nat := 0
  ctrW : Bool := false
  sNext : Bool := false
  taken : Bool := false
  own : Option OwnReq := none
  fault : Option (Nat × Nat × Nat) := none
  probe : Bool := false
  overdue : Option (Nat × Dword) := none
  deriving DecidableEq, Repr

/-- A step that no word asks for, waiting to be taken, with what it brings. -/
structure Input where
  what : Instr
  arg : Arg
  deriving DecidableEq, Repr

/-- The state: the machine, the bundle being issued, the inputs not yet taken (oldest first), the agents
whose turn to issue comes next, and what came
with the input being taken. -/
structure State where
  m : Mach := {}
  bundle : Option Bundle := none
  inputs : List Input := []
  turns : List Nat := []
  arg : Arg := {}
  deriving DecidableEq, Repr

/-- Reset values of control registers, by number: Tables 8-6, 9-6, 12-5, 13-7, 17-3 on a tile; 4-8 and 18-4 on
a command core (R45). Registers not named here are zero. -/
def csrReset (tile : Bool) (n : Nat) : Dword :=
  if tile then
    match n with
    | 0x002 => 8
    | 0x003 => 1
    | 0x011 => 1
    | 0x014 => 0x8888888888888888
    | 0x015 => 0x8888888888888888
    | 0x018 => 1
    | 0x01A => 0x402077
    | 0x024 => 0x7FFE
    | _ => 0
  else
    match n with
    | 0x800 => 0xA
    | 0x814 => 1000
    | 0x880 => 0x1000FA005000140
    | 0x881 => 0xC00F0003C000F0
    | 0x882 => 0x800A00028000A0
    | 0x883 => 0x40050001400050
    | 0x884 => 0x20028000A00028
    | _ => 0

/-- The machine right after reset: power on and a cold start done (02_bring_up R36, R45). The monitor's core
of panel 0 issues, at level 2; no partition is formed; every memory reads zero. -/
def State.reset : State := {}

end Sys2Proof.Machine
end

