-- ==== Sys2Proof/Machine/Units.lean ====
section
/-!
DEFINITION. Where the units of the package stand and how they are reached: sites, panels and dies (01 R7-R11),
agents by number, partitions and the monitor area (04 R84, R85; 10 R241), the region table (10 R251), launches,
gangs and tasks by their keys (05 R115-R117).
-/
namespace Sys2Proof.Machine

/-! ### Sites, panels, dies -/

/-- A site's number from its die and coordinates, and back (R8). -/
def siteOf (die y x : Nat) : Nat := die * 144 + y * 12 + x
def dieOf (a : Nat) : Nat := a / 144
def yOf (a : Nat) : Nat := a % 144 / 12
def xOf (a : Nat) : Nat := a % 12
/-- The global panel of a site (R8). -/
def panelOfSite (a : Nat) : Nat := dieOf a * 4 + yOf a / 6 * 2 + xOf a / 6
/-- The local site number 6·yl + xl. -/
def localSite (a : Nat) : Nat := yOf a % 6 * 6 + xOf a % 6

/-- Agents below 1,152 are tiles; 1,152 + n is the command core of panel n. -/
def ccOf (panel : Nat) : Nat := 1152 + panel
def isTileAgent (a : Nat) : Bool := a < 1152
/-- The panel and the die of an agent. -/
def panelOf (a : Nat) : Nat := if isTileAgent a then panelOfSite a else a - 1152
def dieOfAgent (a : Nat) : Nat := panelOf a / 4

def Mach.isTile (m : Mach) : Bool := isTileAgent m.me

/-! ### Units of the package -/

def Mach.onSys (m : Mach) (f : Sys → Sys) : Mach := { m with sys := f m.sys }
def Mach.panel (m : Mach) (n : Nat) : Panel := SMap.get (fun _ => {}) m.sys.panels n
def Mach.setPanel (m : Mach) (n : Nat) (x : Panel) : Mach :=
  m.onSys fun s => { s with panels := SMap.set (fun _ => {}) s.panels n x }
def Mach.modPanel (m : Mach) (n : Nat) (f : Panel → Panel) : Mach := m.setPanel n (f (m.panel n))
def Mach.die (m : Mach) (n : Nat) : Die := SMap.get (fun _ => {}) m.sys.dies n
def Mach.setDie (m : Mach) (n : Nat) (x : Die) : Mach :=
  m.onSys fun s => { s with dies := SMap.set (fun _ => {}) s.dies n x }
/-- Die cycles in 20 ns at a level (Table 6-1). -/
def cycleTicks (lvl : Nat) : Nat := if lvl = 0 then 38 else if lvl = 1 then 32 else if lvl = 2 then 26 else 19
/-- The grant that holds, or takes hold when the clock restarts. -/
def Die.grant (d : Die) : Nat := d.pend.getD d.lvl
/-- Whether a die's clock runs; it stands while its grant changes (R149). -/
def Mach.clocked (m : Mach) (d : Nat) : Bool := (m.die d).pend.isNone
/-- The die cycles that have passed, in twentieths (R149). -/
def Mach.dieClock (m : Mach) (d : Nat) : Nat :=
  let x := m.die d
  x.c0 + if x.pend.isSome then 0 else (m.sys.ns - x.c0At) * cycleTicks x.lvl
def Mach.site (m : Mach) (n : Nat) : Site := SMap.get (fun _ => {}) m.sys.sites n
def Mach.setSite (m : Mach) (n : Nat) (x : Site) : Mach :=
  m.onSys fun s => { s with sites := SMap.set (fun _ => {}) s.sites n x }
def Mach.partn (m : Mach) (n : Nat) : Part := SMap.get (fun _ => {}) m.sys.parts n
def Mach.setPart (m : Mach) (n : Nat) (x : Part) : Mach :=
  m.onSys fun s => { s with parts := SMap.set (fun _ => {}) s.parts n x }
def Mach.vf (m : Mach) (n : Nat) : VF := SMap.get (fun _ => {}) m.sys.vfs n
def Mach.setVf (m : Mach) (n : Nat) (x : VF) : Mach :=
  m.onSys fun s => { s with vfs := SMap.set (fun _ => {}) s.vfs n x }
def Mach.queue (m : Mach) (k : Nat) : Queue := SMap.get (fun _ => {}) m.sys.queues k
def Mach.setQueue (m : Mach) (k : Nat) (x : Queue) : Mach :=
  m.onSys fun s => { s with queues := SMap.set (fun _ => {}) s.queues k x }
def Mach.launch (m : Mach) (k : Nat) : Launch := SMap.get (fun _ => {}) m.sys.launches k
def Mach.setLaunch (m : Mach) (k : Nat) (x : Launch) : Mach :=
  m.onSys fun s => { s with launches := SMap.set (fun _ => {}) s.launches k x }
def Mach.hasLaunch (m : Mach) (k : Nat) : Bool := m.sys.launches.any fun e => e.1 == k
def Mach.wq (m : Mach) (k : Nat) : WQ := SMap.get (fun _ => {}) m.sys.wqs k
def Mach.setWq (m : Mach) (k : Nat) (x : WQ) : Mach :=
  m.onSys fun s => { s with wqs := SMap.set (fun _ => {}) s.wqs k x }
def Mach.set_ (m : Mach) (k : Nat) : SeamSet := SMap.get (fun _ => {}) m.sys.sets k
def Mach.setSet (m : Mach) (k : Nat) (x : SeamSet) : Mach :=
  m.onSys fun s => { s with sets := SMap.set (fun _ => {}) s.sets k x }
def Mach.netOf (m : Mach) (a : Nat) : List Pkt := SMap.get (fun _ => []) m.sys.net a
def Mach.setNet (m : Mach) (a : Nat) (x : List Pkt) : Mach :=
  m.onSys fun s => { s with net := SMap.set (fun _ => []) s.net a x }
def Mach.coll (m : Mach) (k : Nat) : Coll := SMap.get (fun _ => {}) m.sys.colls k
def Mach.setColl (m : Mach) (k : Nat) (x : Coll) : Mach :=
  m.onSys fun s => { s with colls := SMap.set (fun _ => {}) s.colls k x }
/-- A register of the management window by offset; unlisted registers read zero, their reset value (R45). -/
def Mach.reg (m : Mach) (off : Nat) : Dword := SMap.get (fun _ => 0) m.sys.regs off
def Mach.setReg (m : Mach) (off : Nat) (v : Dword) : Mach :=
  m.onSys fun s => { s with regs := SMap.set (fun _ => 0) s.regs off v }
def Mach.send (m : Mach) (o : Out) : Mach := m.onSys fun s => { s with out := s.out ++ [o] }
/-- A remote read of `n` bytes at a device address of a fabric node, through the UALink port that reaches it, else over Ethernet
(R22, R67). -/
def readRequest (node addr n : Nat) : Out := ⟨8, Config.portOf node, node, leBytes addr 8 ++ leBytes n 8⟩
def Mach.setHbm (m : Mach) (h : Memory) : Mach := m.onSys fun s => { s with hbm := h }
def Mach.setHost (m : Mach) (h : Memory) : Mach := m.onSys fun s => { s with host := h }

/-- Whether a VF exists, and its fields (Table 4-4). -/
def VF.live (v : VF) : Bool := bit v.vqa 63
def VF.part (v : VF) : Nat := bits v.vqa 62 58
def VF.ts (v : VF) : Bool := bit v.vqa 54

/-- PSMAP of a panel (Table 1-2). -/
def Mach.psmap (m : Mach) (p : Nat) : Dword := dw (p / 4 * 2 ^ 56 + p % 4 * 2 ^ 54 + (m.panel p).psmap)
/-- The lead panel's partition: whether the command core of panel `p` leads its partition, and which (R84). -/
def Mach.leads (m : Mach) (p : Nat) : Option Nat :=
  (m.panel p).part.bind fun k => if (m.partn k).lead = p then some k else none

/-! ### Agents -/

/-- The contents of agent `a`. -/
def Mach.agent (m : Mach) (a : Nat) : Core :=
  if a = m.me then m.core else SMap.get (fun _ => {}) m.rest a
def Mach.setAgent (m : Mach) (a : Nat) (c : Core) : Mach :=
  if a = m.me then { m with core := c } else { m with rest := SMap.set (fun _ => {}) m.rest a c }
def Mach.modAgent (m : Mach) (a : Nat) (f : Core → Core) : Mach := m.setAgent a (f (m.agent a))
/-- Make `a` the agent that issues next. -/
def Mach.focus (m : Mach) (a : Nat) : Mach :=
  if a = m.me then m
  else
    { m with me := a, core := SMap.get (fun _ => {}) m.rest a,
             rest := SMap.set (fun _ => {}) (SMap.erase m.rest a) m.me m.core }

def Core.modRf (c : Core) (f : Regs → Regs) : Core := { c with rf := f c.rf }
def Core.modMem (c : Core) (f : Mems → Mems) : Core := { c with mem := f c.mem }
def Core.modEng (c : Core) (f : Engs → Engs) : Core := { c with eng := f c.eng }
def Core.modCtl (c : Core) (f : Ctl → Ctl) : Core := { c with ctl := f c.ctl }
def Mach.modCore (m : Mach) (f : Core → Core) : Mach := { m with core := f m.core }
def Mach.modRf (m : Mach) (f : Regs → Regs) : Mach := m.modCore fun c => c.modRf f
def Mach.modMem (m : Mach) (f : Mems → Mems) : Mach := m.modCore fun c => c.modMem f
def Mach.modEng (m : Mach) (f : Engs → Engs) : Mach := m.modCore fun c => c.modEng f
def Mach.modCtl (m : Mach) (f : Ctl → Ctl) : Mach := m.modCore fun c => c.modCtl f

/-- A control register as stored. -/
def Core.csr (c : Core) (tile : Bool) (n : Nat) : Dword := SMap.get (csrReset tile) c.rf.csr n
def Core.setCsr (c : Core) (tile : Bool) (n : Nat) (v : Dword) : Core :=
  c.modRf fun r => { r with csr := SMap.set (csrReset tile) r.csr n v }
def Mach.csr (m : Mach) (n : Nat) : Dword := m.core.csr m.isTile n
def Mach.setCsr (m : Mach) (n : Nat) (v : Dword) : Mach := m.modCore fun c => c.setCsr m.isTile n v
/-- A control register of the command core of a panel. -/
def Mach.ccCsr (m : Mach) (panel n : Nat) : Dword := (m.agent (ccOf panel)).csr false n
def Mach.setCcCsr (m : Mach) (panel n : Nat) (v : Dword) : Mach :=
  m.modAgent (ccOf panel) fun c => c.setCsr false n v

/-! ### Partitions, the monitor area, the region table -/

/-- The panels of a partition, ascending. -/
def panelsOf (mask : Nat) : List Nat := (List.range 32).filter fun n => Nat.testBit mask n
/-- The global channel of a physical address, and the panel it belongs to (R11, R241). -/
def channelOf (pa : Nat) : Nat := pa / 0x60000000
def panelOfPa (pa : Nat) : Nat := channelOf pa / 8
def Mach.stack (m : Mach) (n : Nat) : Stack := SMap.get (fun _ => {}) m.sys.hbmStacks n
/-- Whether a request waits because its stack is in state DR3 (R159). -/
def Mach.stalled (m : Mach) (ps : List (Nat × Nat)) : Bool := ps.any fun p => (m.stack (panelOfPa p.1 / 4)).dr == 3
/-- HBM ends at 384 GiB (R241). -/
def hbmEnd : Nat := 384 * 2 ^ 30
/-- The physical base of the monitor area of a partition whose lead panel is given (R241). -/
def monArea (lead : Nat) : Nat := lead * 8 * 0x60000000
def Mach.maBase (m : Mach) (part : Nat) : Nat := monArea (m.partn part).lead
/-- The partition of an agent: of its panel. -/
def Mach.partOf (m : Mach) (a : Nat) : Option Nat := (m.panel (panelOf a)).part

/-- A region-table entry (Table 10-5). -/
structure RegionE where
  st : Nat
  pin : Bool
  hold : Nat
  vfn : Nat
  task : Nat
  lnch : Nat
  deriving DecidableEq, Repr

def RegionE.ofNat (v : Nat) : RegionE :=
  { st := if nbits v 2 0 = 7 then 0 else nbits v 2 0, pin := nbit v 3, hold := nbits v 5 4, vfn := nbits v 31 16,
    task := nbits v 51 32, lnch := nbits v 87 64 }
def RegionE.toNat (e : RegionE) : Nat :=
  e.st + (if e.pin then 8 else 0) + e.hold * 16 + e.vfn * 2 ^ 16 + e.task * 2 ^ 32 + e.lnch * 2 ^ 64

/-- The region entry of physical region `r` (P div 2 MiB) of a partition (R251). -/
def Mach.region (m : Mach) (part r : Nat) : RegionE :=
  RegionE.ofNat (m.sys.hbm.readNat (m.maBase part + 16 * r) 16)
def Mach.setRegion (m : Mach) (part r : Nat) (e : RegionE) : Mach :=
  m.setHbm (m.sys.hbm.writeNat (m.maBase part + 16 * r) 16 e.toNat)
/-- An entry back to FREE in its VF's allocation, and to UNALLOC. -/
def RegionE.free (e : RegionE) : RegionE := { e with st := 1, pin := false, hold := 0, task := 0, lnch := 0 }
def RegionE.unalloc : RegionE := ⟨0, false, 0, 0, 0, 0⟩
/-- The regions of a partition whose entry is not UNALLOC: their state byte is listed in HBM. -/
def Mach.liveRegions (m : Mach) (part : Nat) : List Nat :=
  let ma := m.maBase part
  m.sys.hbm.filterMap fun e =>
    if ma ≤ e.1 ∧ e.1 < ma + 16 * 196608 ∧ (e.1 - ma) % 16 = 0 then some ((e.1 - ma) / 16) else none
/-- Apply a change to every live region entry that a test picks. -/
def Mach.sweepRegions (m : Mach) (part : Nat) (p : RegionE → Bool) (f : RegionE → RegionE) : Mach :=
  (m.liveRegions part).foldl (fun m r => let e := m.region part r; if p e then m.setRegion part r (f e) else m) m

/-! ### Keys of launches and tasks -/

/-- A launch's key: INVID bits [23:0], which no two admitted launches of a partition share (R147), its partition, and
the rest of INVID. -/
def launchKey (part inv : Nat) : Nat := inv / 2 ^ 24 * 2 ^ 32 + part * 2 ^ 24 + inv % 2 ^ 24
def keyPart (k : Nat) : Nat := k / 2 ^ 24 % 2 ^ 8
def keyInv (k : Nat) : Nat := k % 2 ^ 24
def taskKey (t : TaskId) : Nat := t.launch * 2 ^ 20 + t.task
/-- Tasks per gang, and the gang of a task (R115). -/
def Launch.per (l : Launch) : Nat := l.img.w * l.img.h
def Launch.tasks (l : Launch) : Nat := l.img.g * l.per
def Launch.gangOf (l : Launch) (task : Nat) : Nat := task / l.per
def Launch.gang (l : Launch) (g : Nat) : Gang := SMap.get (fun _ => {}) l.gangs g
def Launch.setGang (l : Launch) (g : Nat) (x : Gang) : Launch :=
  { l with gangs := SMap.set (fun _ => {}) l.gangs g x }
/-- The task numbers of a gang. -/
def Launch.gangTasks (l : Launch) (g : Nat) : List Nat := (List.range l.per).map fun i => g * l.per + i
/-- The site of a task of a placed gang (R116). -/
def Launch.siteFor (l : Launch) (task : Nat) : Nat :=
  let g := l.gang (l.gangOf task)
  let i := task % l.per
  siteOf g.die (g.oy + i / l.img.w) (g.ox + i % l.img.w)
/-- Whether a gang's contexts stand on its sites (RESIDENT, or stopped and not saved off them). -/
def Gang.onSites (g : Gang) : Bool := g.st == 1 || ((g.st == 2 || g.st == 3) && !g.saved)

/-- Change the context of a task wherever it is kept: on its site or saved. -/
def Mach.modTask (m : Mach) (t : TaskId) (f : Core → Core) : Mach :=
  let l := m.launch t.launch
  if (l.gang (l.gangOf t.task)).onSites then m.modAgent (l.siteFor t.task) f
  else
    let z : Nat → Saved := fun _ => {}
    let sv := SMap.get z m.sys.saved (taskKey t)
    m.onSys fun s => { s with saved := SMap.set z s.saved (taskKey t) { sv with core := f sv.core } }
def Mach.taskCore (m : Mach) (t : TaskId) : Core :=
  let l := m.launch t.launch
  if (l.gang (l.gangOf t.task)).onSites then m.agent (l.siteFor t.task)
  else (SMap.get (fun _ => {}) m.sys.saved (taskKey t)).core

/-- Whether a task is RUNNING or YIELDING on a tile. -/
def Mach.seated (m : Mach) (a : Nat) : Bool := isTileAgent a && ((m.site a).tst == 1 || (m.site a).tst == 2)
/-- Whether a tile's engines go on: it has a task that is not stopped, and its die's clock runs (R149). -/
def Mach.runs (m : Mach) (a : Nat) : Bool := m.seated a && m.clocked (dieOf a)

/-- The level of a command core (Table 18-4). -/
def Core.level (c : Core) : Nat := bits (c.csr false 0x800) 1 0
def Mach.level (m : Mach) : Nat := m.core.level

/-- Whether the die of a site serves in reduced service: its calibration is not complete, or a link failed
(R40, R17). -/
def Die.reduced (d : Die) : Bool := !d.cal || d.fail

end Sys2Proof.Machine
end

