-- ==== Sys2Proof/Machine/Records.lean ====
section
/-!
DEFINITION. What the package writes to the host: completion records (03 R51, R52, R60), events on the PF's
event ring (04 R103, R104, 03 R56), and the fault ring of a panel's walker (10 R247).
-/
namespace Sys2Proof.Machine

/-! ### Queues -/

def queueKey (vfn qidx : Nat) : Nat := 16 * vfn + qidx
def Queue.ringb (q : Queue) : Nat := leAt q.cache 0 8
def Queue.cplb (q : Queue) : Nat := leAt q.cache 8 8
def Queue.rsize (q : Queue) : Nat := byteAt q.cache 16
def Queue.csize (q : Queue) : Nat := byteAt q.cache 17
def Queue.kind (q : Queue) : Nat := byteAt q.cache 18
def Queue.prioc (q : Queue) : Nat := byteAt q.cache 19 % 8
def Queue.slotm (q : Queue) : Nat := leAt q.cache 24 8
def Queue.pasid (q : Queue) : Nat := leAt q.cache 32 4 % 2 ^ 20
def Queue.msiv (q : Queue) : Nat := leAt q.cache 36 2

/-- A difference of 32-bit counts (R48). -/
def cntDiff (a b : Nat) : Nat := (a + 2 ^ 32 - b % 2 ^ 32) % 2 ^ 32
/-- Whether the completion ring is full (R52). -/
def Queue.full (q : Queue) : Bool := cntDiff q.cprod q.ccons == 2 ^ q.csize

/-- Bits [55:0] of the timestamp as 7 bytes (Table 3-7). -/
def timeBytes (ns : Nat) : List Byte := leBytes ns 7

/-- PHASE of count `c` in a ring of 2^size entries (R51). -/
def phaseOf (c size : Nat) : Nat := if c / 2 ^ size % 2 = 0 then 1 else 0

/-- Write one record (31 bytes without PHASE) into the ring, CPROD after it, and the vector if asked (R51). -/
def writeRec (m : Mach) (k : Nat) (bytes : List Byte) (irq : Bool) : Mach :=
  let q := m.queue k
  let a := q.cplb + 32 * (q.cprod % 2 ^ q.csize)
  let h := m.sys.host.writeList a (bytes ++ [BitVec.ofNat 8 (phaseOf q.cprod q.csize)])
  let h := h.writeNat (q.qcba + 60) 4 ((q.cprod + 1) % 2 ^ 32)
  let m := (m.setHost h).setQueue k { q with cprod := (q.cprod + 1) % 2 ^ 32 }
  if irq then m.send ⟨0, k / 16, q.msiv, []⟩ else m

/-- A completion record (Table 3-7) without its PHASE byte. -/
def recBytes (ns : Nat) (c : Cmd) (status detail wgen inv : Nat) : List Byte :=
  leBytes c.tag 4 ++ [BitVec.ofNat 8 c.opc, BitVec.ofNat 8 status] ++ leBytes detail 2 ++ leBytes wgen 4 ++
    leBytes 0 4 ++ leBytes inv 8 ++ timeBytes ns

/-- Complete a command (R58, R60): no longer outstanding; its record unless NOCPL holds and all went well. -/
def complete (m : Mach) (k : Nat) (c : Cmd) (status detail wgen inv : Nat) : Mach :=
  let q := m.queue k
  let q := { q with started := q.started.filter fun d => d.cnt != c.cnt }
  let m := m.setQueue k q
  if nbit c.flags 0 ∧ status = 0 then m
  else
    let b := recBytes m.sys.ns c status detail wgen inv
    if q.full ∨ q.recs ≠ [] then m.setQueue k { q with recs := q.recs ++ [(b, nbit c.flags 1)] }
    else writeRec m k b (nbit c.flags 1)

/-- Write the records that wait, as far as there is room (R52). -/
def flushRecs (m : Mach) (k : Nat) (fuel : Nat) : Mach :=
  match fuel with
  | 0 => m
  | n + 1 =>
    let q := m.queue k
    match q.recs with
    | [] => m
    | (b, i) :: t => if q.full then m else flushRecs (writeRec (m.setQueue k { q with recs := t }) k b i) k n

/-! ### The event ring -/

def regEVBASE : Nat := 0x380
def regEVCTL : Nat := 0x388
def regEVPROD : Nat := 0x390
def regEVCONS : Nat := 0x398
def regEVLOST : Nat := 0x3A0

/-- Whether an event can be written now (R103). -/
def evRoom (m : Mach) : Bool :=
  let size := bits (m.reg regEVCTL) 4 0
  bit (m.reg regEVCTL) 8 && decide (4 ≤ size) && decide (size ≤ 16) &&
    cntDiff (m.reg regEVPROD).toNat (m.reg regEVCONS).toNat != 2 ^ size

/-- Write one event entry (31 bytes without PHASE). -/
def writeEvent (m : Mach) (bytes : List Byte) : Mach :=
  let ctl := m.reg regEVCTL
  let size := bits ctl 4 0
  let prod := (m.reg regEVPROD).toNat
  let a := bits (m.reg regEVBASE) 63 12 * 4096 + 32 * (prod % 2 ^ size)
  let m := m.setHost (m.sys.host.writeList a (bytes ++ [BitVec.ofNat 8 (phaseOf prod size)]))
  (m.setReg regEVPROD (dw ((prod + 1) % 2 ^ 32))).send ⟨0, 0, bits ctl 31 16, []⟩

def eventBytes (ns code part vfn qidx : Nat) (data : List Byte) : List Byte :=
  leBytes code 2 ++ [BitVec.ofNat 8 part, 0] ++ leBytes vfn 2 ++ [BitVec.ofNat 8 qidx, 0] ++
    (data ++ List.replicate (16 - data.length) 0).take 16 ++ timeBytes ns

/-- When events were lost and there is room, say so (R103, event 0x0001). -/
def lostEvent (m : Mach) : Mach :=
  if m.reg regEVLOST ≠ 0 ∧ evRoom m then
    (writeEvent m (eventBytes m.sys.ns 1 0xFF 0 0xFF (leBytes (m.reg regEVLOST).toNat 4))).setReg regEVLOST 0
  else m

/-- Post an event (R103). -/
def postEvent (m : Mach) (code part vfn qidx : Nat) (data : List Byte) : Mach :=
  let m := lostEvent m
  if evRoom m then writeEvent m (eventBytes m.sys.ns code part vfn qidx data)
  else m.setReg regEVLOST (m.reg regEVLOST + 1)

/-! ### The fault ring of a panel -/

def csrFLTB : Nat := 0x892
def csrFLTP : Nat := 0x893
def csrFLTC : Nat := 0x894

/-- Set WAITE event bits of an agent (R459). -/
def setEv (m : Mach) (a bit_ : Nat) : Mach :=
  m.modAgent a fun c => c.modCtl fun k => { k with ev := k.ev ||| 2 ^ bit_ }

/-- Write the fault records that have no entry yet, in arrival order, while the ring has room (R247). -/
def fltWrite (m : Mach) (panel : Nat) (fuel : Nat) : Mach :=
  match fuel with
  | 0 => m
  | n + 1 =>
    let p := m.panel panel
    let prod := (m.ccCsr panel csrFLTP).toNat
    if cntDiff prod (m.ccCsr panel csrFLTC).toNat = 64 then m
    else
      match p.flts.findIdx? fun f => f.cnt == none with
      | none => m
      | some i =>
        match p.flts[i]? with
        | none => m
        | some f =>
          let a := bits (m.ccCsr panel csrFLTB) 17 11 * 2048 + 32 * (prod % 64)
          let m := m.modAgent (ccOf panel) fun c => c.modMem fun x => { x with sm := x.sm.writeList a f.bytes }
          let m := m.setPanel panel { p with flts := p.flts.set i { f with cnt := some prod } }
          fltWrite (m.setCcCsr panel csrFLTP (dw ((prod + 1) % 2 ^ 32))) panel n

/-- A fault entry (Table 10-4). -/
def fltBytes (eng acc site rec why va vfn inv : Nat) : List Byte :=
  [BitVec.ofNat 8 eng, BitVec.ofNat 8 acc, BitVec.ofNat 8 site, BitVec.ofNat 8 rec, BitVec.ofNat 8 why] ++
    leBytes 0 3 ++ leBytes va 8 ++ leBytes (vfn % 1024 + inv % 2 ^ 24 * 2 ^ 16) 8 ++ leBytes 0 8

/-- A record reaches a panel's walker and its walk has failed (R247). -/
def fltPost (m : Mach) (panel : Nat) (f : FltRec) : Mach :=
  fltWrite (m.modPanel panel fun p => { p with flts := p.flts ++ [f] }) panel 64

end Sys2Proof.Machine
end

