-- ==== Sys2Proof/Machine/Sems.lean ====
section
/-!
DEFINITION. Hardware semaphores (05_scheduling R133-R135) and the map from virtual numbers to them (04 R96, 20 R483).
-/
namespace Sys2Proof.Machine

def Mach.sem (m : Mach) (p i : Nat) : Sem := SMap.get (fun _ => {}) (m.panel p).sems i
def Mach.setSem (m : Mach) (p i : Nat) (s : Sem) : Mach :=
  m.modPanel p fun x => { x with sems := SMap.set (fun _ => {}) x.sems i s }

/-- Grant waiters from the head while the count suffices (R133). -/
def semServe (fuel : Nat) (s : Sem) : Sem :=
  match fuel with
  | 0 => s
  | k + 1 =>
    match s.waiters with
    | [] => s
    | w :: t =>
      if w.n ≤ s.count then semServe k { s with count := s.count - w.n, waiters := t, granted := s.granted ++ [w.who] }
      else s

/-- A signal of `n`: the count saturates. -/
def semSignal (s : Sem) (n : Nat) : Sem :=
  semServe s.waiters.length { s with count := min (s.count + n) 0xFFFFFFFF }
/-- A wait of `n` by `who`. -/
def semJoin (s : Sem) (who n : Nat) : Sem := semServe (s.waiters.length + 1) { s with waiters := s.waiters ++ [⟨who, n⟩] }
/-- A try of `n`. -/
def semTry (s : Sem) (n : Nat) : Sem × Bool :=
  if n = 0 then (s, true)
  else if s.waiters = [] ∧ n ≤ s.count then ({ s with count := s.count - n }, true)
  else (s, false)
/-- A granted waiter goes on. -/
def semTake (s : Sem) (who : Nat) : Sem := { s with granted := s.granted.erase who }
/-- A waiter leaves the list. -/
def semLeave (s : Sem) (who : Nat) : Sem := semServe s.waiters.length { s with waiters := s.waiters.filter fun w => w.who != who }

/-- Where the entry of a VSN lies in HBM (R483). -/
def semMapAddr (m : Mach) (part vfn vsn : Nat) : Nat := m.maBase part + 0x400000 + 0x4000 * (vfn - 1) + 4 * vsn

/-- What an entry says: panel and index, unless V is clear or the entry acts as clear (R96). -/
def semEntry (m : Mach) (part vfn vsn : Nat) : Option (Nat × Nat) :=
  let e := m.sys.hbm.readNat (semMapAddr m part vfn vsn) 4
  let p := nbits e 28 24
  if nbit e 31 ∧ nbits e 30 29 = 0 ∧ nbits e 23 12 = 0 ∧ Nat.testBit (m.partn part).mask p then some (p, nbits e 11 0)
  else none
/-- SEMS of a VF as it acts (Table 4-4). -/
def VF.semQuota (v : VF) : Nat := min (bits v.vqb 32 16) 4096
/-- What a VSN names. A VF never has more valid entries than SEMS: those past the first SEMS valid ones in VSN order act as
invalid (R92, R96; log 65). -/
def semOf (m : Mach) (part vfn vsn : Nat) : Option (Nat × Nat) :=
  let n := (m.vf vfn).semQuota
  if vsn < n ∨ ((List.range vsn).countP fun i => (semEntry m part vfn i).isSome) < n then semEntry m part vfn vsn else none

/-- A semaphore that an entry maps to another VF than before loses its count and its waiters (R100). -/
def claimSem (m : Mach) (part vfn vsn : Nat) : Mach :=
  match semOf m part vfn vsn with
  | some (p, i) => if (m.sem p i).vf = vfn then m else m.setSem p i { vf := vfn }
  | none => m
/-- What a store into the semaphore maps of a partition brings about: each entry it touches claims what it maps (R100, R134). -/
def mapStored (m : Mach) (part pa n : Nat) : Mach :=
  let lo := m.maBase part + 0x400000
  if n = 0 ∨ pa < lo ∨ lo + 0x800000 < pa + n then m
  else
    (List.range ((pa + n - 1) / 4 - pa / 4 + 1)).foldl (fun m i =>
      let o := 4 * (pa / 4 + i) - lo
      claimSem m part (o / 0x4000 + 1) (o % 0x4000 / 4)) m

end Sys2Proof.Machine
end

