-- ==== Sys2Proof/Machine/Gangs.lean ====
section
/-!
DEFINITION. What happens to gangs and launches as wholes: graph completions (05 R140, R141), the end of a
launch (05 R145, R146; 03 R64; 10 Table 10-7; 11 R284), stopping a gang (07 R162-R167, R178, R179), traps
that leave the tile (05 R145, 07 R180, R187), and barriers (05 R121, 18 R445).
-/
namespace Sys2Proof.Machine

/-! ### Graph runs -/

def Mach.run (m : Mach) (k : Nat) : GRun := SMap.get (fun _ => {}) m.sys.runs k
def Mach.setRun (m : Mach) (k : Nat) (x : GRun) : Mach :=
  m.onSys fun s => { s with runs := SMap.set (fun _ => {}) s.runs k x }
def GRun.node (r : GRun) (k : Nat) : GNode := SMap.get (fun _ => {}) r.nodes k
def GRun.setNode (r : GRun) (k : Nat) (x : GNode) : GRun :=
  { r with nodes := SMap.set (fun _ => {}) r.nodes k x }
/-- Fields of node `k` (Table 5-10). -/
def GRun.field (r : GRun) (k off n : Nat) : Nat := leAt r.desc (64 + 64 * k + off) n
def GRun.nnode (r : GRun) : Nat := leAt r.desc 4 2

/-- One completion for node `k` (R140): ready when it has NPRED of them. -/
def GRun.give (r : GRun) (ns k : Nat) : GRun :=
  let n := r.node k
  if n.got + 1 ≥ r.field k 4 2 ∧ n.st = 0 then r.setNode k { n with got := 0, st := 1, readyAt := ns, overrun := false }
  else r.setNode k { n with got := n.got + 1 }

/-- A token that keeps a weight generation live: a launch's key, or a graph run (R69, R71). -/
def runToken (rid : Nat) : Nat := 2 ^ 200 + rid

/-- A user of a generation ends (R69). -/
def dropUser (m : Mach) (vfn slot gen tok : Nat) : Mach :=
  let v := m.vf vfn
  let s := SMap.get (fun _ => {}) v.slots slot
  let s := { s with gens := s.gens.map fun g => if g.gen = gen then { g with users := g.users.erase tok } else g }
  m.setVf vfn { v with slots := SMap.set (fun _ => {}) v.slots slot s }

/-- The graph ends when no node is ready or running, or, after a failure, when none is running (R140). -/
def graphSettle (m : Mach) (rid : Nat) : Mach :=
  let r := m.run rid
  let busy := r.nodes.any fun e => e.2.st == 2
  let ready := r.nodes.any fun e => e.2.st == 1
  if r.desc = [] ∨ busy ∨ (ready ∧ r.fail = 0) then m
  else
    let m := dropUser m r.vf r.slot r.gen (runToken rid)
    let m := complete m r.q r.cmd r.fail (min r.overruns 0xFFFF) r.gen r.inv
    m.onSys fun s => { s with runs := SMap.erase s.runs rid }

/-- A node has completed: its successors `succ` receive a completion each (R140). With a STATUS it failed: a copy, a launch that ended
with STATUS 10, and by choice one ended with 8 or 12 and the nodes of log 80. -/
def nodeDone (m : Mach) (rid k status : Nat) (succ : List Nat) : Mach :=
  let r := m.run rid
  if r.desc = [] then m
  else
    let n := r.node k
    let r := if 0 < r.field k 4 2 ∧ r.field k 4 2 ≤ n.got then
        r.setNode k { n with got := 0, st := 1, readyAt := m.sys.ns, overrun := false }
      else r.setNode k { n with st := 0 }
    let r := if status = 0 then succ.foldl (fun r j => r.give m.sys.ns j) r
      else { r with fail := if r.fail = 0 then status else r.fail }
    graphSettle (m.setRun rid r) rid

/-- Every successor of node `k`. -/
def GRun.succs (r : GRun) (k : Nat) : List Nat := (List.range (r.field k 1 1)).map fun i => r.field k (8 + i) 1

/-! ### Seam sets, as far as their storage goes (R265, R268) -/

def descWin (d : List Byte) : Nat := leAt d 0 2
def descK (d : List Byte) : Nat := nbits (byteAt d 2) 3 0
def descSlab (d : List Byte) : Nat := if nbit (byteAt d 2) 4 then 128 else 64
def descArrival (d : List Byte) : Bool := nbit (byteAt d 2) 5
def descIType (d : List Byte) : Nat := nbits (byteAt d 3) 3 0
def descOType (d : List Byte) : Nat := nbits (byteAt d 3) 7 4
def descPol (d : List Byte) : Nat := nbits (byteAt d 4) 1 0
def descDKind (d : List Byte) : Nat := nbits (byteAt d 4) 3 2
def descNSlab (d : List Byte) : Nat := byteAt d 5 + 1
def descISz (d : List Byte) : Nat := typeWidth (descIType d) / 8
def descOSz (d : List Byte) : Nat := typeWidth (descOType d) / 8
def descTBase (d : List Byte) : Nat := leAt d 8 4
/-- The stripe panels, ascending; STRIPE 0 was replaced by the owner's panel when the set opened. -/
def descStripe (d : List Byte) : List Nat := panelsOf (leAt d 12 4)
/-- Slabs of a token that stripe panel number `i` of `np` carries (R268). -/
def slabsOn (nslab np i : Nat) : Nat := ((List.range nslab).filter fun j => j % np == i).length
/-- Units of 64 KiB on stripe panel number `i` (R268). -/
def seamUnits (d : List Byte) (i : Nat) : Nat :=
  let size := descK d * descSlab d * descISz d + 64
  (descWin d * slabsOn (descNSlab d) (descStripe d).length i * size + 65535) / 65536

/-- A set's units and index are returned (R268, R283 step 4). -/
def seamReturn (m : Mach) (key : Nat) : Mach :=
  let s := m.set_ key
  (descStripe s.desc).zipIdx.foldl (fun m pi =>
    m.modPanel pi.1 fun p =>
      { p with units := p.units - seamUnits s.desc pi.2, setOf := p.setOf.filter fun e => e.2 != key + 1 }) m

/-- No tile knows a closed set any more (R433). -/
def dropHandle (m : Mach) (key : Nat) : Mach :=
  let f := fun (c : Core) => c.modEng fun e => { e with handles := e.handles.filter (· != key) }
  { m with core := f m.core, rest := m.rest.map fun e => (e.1, f e.2) }

/-- Close a set, discarding its slots (R283 step 4, R284). -/
def seamClose (m : Mach) (key : Nat) : Mach :=
  let s := m.set_ key
  if s.isOpen then
    let m := if s.spl then m else seamReturn m key
    (dropHandle m key).setSet key { s with isOpen := false, spl := false, slots := [], rel := [] }
  else m

/-! ### Leaving waiter lists (R135, R138) -/

/-- An agent leaves every semaphore's and work queue's waiter list; a grant already made stays with its task. -/
def leaveWaits (m : Mach) (a : Nat) : Mach :=
  let c := m.agent a
  let m :=
    match c.ctl.wait with
    | .sem _ p i _ =>
      let s := m.sem p i
      let m :=
        if s.granted.contains a then
          m.modAgent a fun c => c.modCtl fun k => { k with wait := k.wait2, wait2 := .none, blockAt := if k.wait2 = Wait.none then none else k.blockAt }
        else m
      m.setSem p i (semTake (semLeave s a) a)
    | _ => m
  m.onSys fun s => { s with wqs := s.wqs.map fun e =>
    (e.1, { e.2 with poppers := e.2.poppers.filter (· / 32 != a), pushers := e.2.pushers.filter (· != a) }) }

/-- A bundle that waited on a work queue and does not issue leaves its lists; pops into scalar queues stay. -/
def leaveWq (m : Mach) (a : Nat) : Mach :=
  let hit := fun (q : WQ) => q.poppers.contains (32 * a) || q.pushers.contains a
  if m.sys.wqs.any fun e => hit e.2 then
    m.onSys fun s => { s with wqs := s.wqs.map fun e =>
      (e.1, { e.2 with poppers := e.2.poppers.filter (· != 32 * a), pushers := e.2.pushers.filter (· != a) }) }
  else m

/-! ### Stopping gangs -/

/-- The sites of a gang, by task number. -/
def Launch.gangSites (l : Launch) (g : Nat) : List Nat := (l.gangTasks g).map l.siteFor

/-- WAITE event GS on the command cores of the panels that hold some sites (R459). -/
def gsEvent (m : Mach) (sites : List Nat) : Mach :=
  (sites.map panelOfSite).eraseDups.foldl (fun m p => setEv m (ccOf p) 2) m

/-- A gang stops as the `n`-th to stop (Table 7-1, Table 5-13): clocks stop but for a tile that has crashed already, a yield asked
for is abandoned, sites PARKED, waits left. -/
def stopGang (m : Mach) (n key g why : Nat) : Mach :=
  let l := m.launch key
  let gg := l.gang g
  if gg.st = 1 then
    let m := (l.gangSites g).foldl (fun m a =>
      if (m.site a).tst = 6 then m
      else
        let m := leaveWaits m a
        let m := m.modAgent a fun c => c.modCtl fun k => { k with yieldReq := false }
        m.setSite a { m.site a with rst := 3, tst := 3, ord := n }) m
    gsEvent (m.setLaunch key (l.setGang g { gg with st := 3, askedAt := none, order := n, kind := 0, why := why }))
      (l.gangSites g)
  else m
/-- Freeze gangs, all in the same die cycle. -/
def freezeGangs (m : Mach) (gs : List (Nat × Nat)) (why : Nat) : Mach :=
  let m := m.onSys fun s => { s with seq := s.seq + 1 }
  gs.foldl (fun m g => stopGang m m.sys.seq g.1 g.2 why) m
/-- Freeze a gang. -/
def freezeGang (m : Mach) (key g why : Nat) : Mach := freezeGangs m [(key, g)] why
/-- Freeze what stands resident of a launch. -/
def freezeLaunch (m : Mach) (key why : Nat) : Mach :=
  freezeGangs m ((m.launch key).gangs.map fun e => (key, e.1)) why
/-- Whether a task of a gang has crashed and its frame is still to be written (R180). -/
def gangCrashed (m : Mach) (key g : Nat) : Bool :=
  let l := m.launch key
  (l.gang g).onSites && (l.gangSites g).any fun a => (m.site a).tst == 6

/-! ### Save slots (R167) -/

def VF.tiles (v : VF) : Nat := bits v.vqb 63 53
/-- Physical regions of a panel (R241), the monitor area left out. -/
def panelRegions (lead p : Nat) : List Nat :=
  ((List.range 6144).map fun i => p * 6144 + i).filter fun r => !(p == lead && decide (r % 6144 < 128))
/-- The physical regions of a partition. -/
def partRegions (m : Mach) (part : Nat) : List Nat :=
  (panelsOf (m.partn part).mask).flatMap (panelRegions (m.partn part).lead)

/-- A save slot for a task: the one it holds, the lowest free one of its VF's save area, the lowest that keeps a crash frame (R180:
until the VF next needs it; log 86), or an overflow slot of five regions that no VF holds. -/
def takeSave (m : Mach) (t : TaskId) : Option Mach :=
  let l := m.launch t.launch
  let v := m.vf l.vf
  if v.saves.any fun e => e.2 == taskKey t then some m
  else
    let isFree := fun (j : Nat) => !(v.saves.any fun e => e.1 == j) && !v.crashed.contains j
    let spare := v.saves.length + v.crashed.length + 1
    match (List.range v.tiles).find? isFree, (List.range (v.tiles + spare)).find? v.crashed.contains with
    | some j, _ => some (m.setVf l.vf { v with saves := SMap.put v.saves j (taskKey t) })
    | none, some j => some (m.setVf l.vf { v with saves := SMap.put v.saves j (taskKey t), crashed := v.crashed.erase j })
    | none, none =>
      let rs := ((partRegions m l.part).filter fun r => (m.region l.part r).st == 0).take 5
      match rs.length, (List.range spare).find? fun j => isFree (v.tiles + j) with
      | 5, some j =>
        let m := rs.foldl (fun m r =>
          (m.setHbm (m.sys.hbm.zero (r * 0x200000) 0x200000)).setRegion l.part r ⟨6, false, 0, l.vf, 0, 0⟩) m
        some (m.setVf l.vf { v with saves := SMap.put v.saves (v.tiles + j) (taskKey t), spill := SMap.put v.spill (v.tiles + j) rs })
      | _, _ => none

/-- The slot of a task is free again. -/
def freeSave (m : Mach) (t : TaskId) : Mach :=
  let l := m.launch t.launch
  let v := m.vf l.vf
  (v.saves.filter fun e => e.2 == taskKey t).foldl (fun m e =>
    let m := (SMap.get (fun _ => []) v.spill e.1).foldl (fun m r => m.setRegion l.part r RegionE.unalloc) m
    let v := m.vf l.vf
    m.setVf l.vf { v with saves := SMap.erase v.saves e.1, spill := SMap.erase v.spill e.1 }) m
/-- The slot of a task keeps its crash frame (R180). -/
def keepCrash (m : Mach) (t : TaskId) : Mach :=
  let vf := (m.launch t.launch).vf
  let v := m.vf vf
  let mine := v.saves.filter fun e => e.2 == taskKey t
  m.setVf vf { v with saves := v.saves.filter fun e => e.2 != taskKey t, crashed := mine.map Prod.fst ++ v.crashed }

/-- What a site that its task leaves keeps: nothing. -/
def vacate (m : Mach) (a : Nat) : Mach :=
  (m.setSite a { m.site a with rst := 0, tst := 0, holder := 0, occ := none }).setAgent a {}

/-- Keep a task's context off its site. -/
def Mach.keepSaved (m : Mach) (t : TaskId) (kind site : Nat) (c : Core) : Mach :=
  m.onSys fun s => { s with saved := SMap.set (fun _ => {}) s.saved (taskKey t) { kind := kind, site := site, core := c } }

/-! ### Barriers -/

/-- Whether PHASE of a level has reached a count, modulo 2^32. -/
def Core.phaseReached (c : Core) (l n : Nat) : Bool := decide ((bits (c.csr true (0x034 + l)) 31 0 + 2 ^ 32 - n) % 2 ^ 32 < 2 ^ 31)
/-- Advance PHASE0 to PHASEd of one context (R445): barrier levels 1 to d, or level 0 alone. -/
def bumpPhases (d : Nat) (c : Core) : Core :=
  let up := fun (c : Core) (n : Nat) =>
    c.setCsr true (0x34 + n) (dw (((c.csr true (0x34 + n)).toNat + 1) % 2 ^ 32))
  let c := if d = 0 then up c 0 else ((List.range d).map (· + 1)).foldl up c
  -- granules whose phase equals the new PHASE1[4:0] are swept, while checking is on (R214, R215)
  let ph := bits (c.csr true 0x35) 4 0
  (c.modMem fun x => if d = 0 ∨ !bit (c.csr true 0x016) 1 then x else { x with race := x.race.filter fun e => e.2 % 32 != ph }).modCtl
    fun k => { k with ev := k.ev ||| 1, arrReq := k.arrReq.filter fun x => decide (d < x.1) }

/-- The tasks of a launch that have been admitted and not ended. -/
def Launch.liveTasks (l : Launch) : List Nat :=
  (l.gangs.filter fun e => e.2.st == 1 || e.2.st == 2 || e.2.st == 3).flatMap fun e => l.gangTasks e.1

/-- Resident and stopped gangs wait for their phase images (R185). -/
def Launch.markPhase (l : Launch) : Launch :=
  { l with gangs := l.gangs.map fun e => (e.1, if (e.2.st == 2 || e.2.st == 3) && e.2.kind != 4 then { e.2 with toPhase := true } else e.2) }
/-- A barrier of level `d` ≥ 2 completes for one launch: every context advances, lower arrivals go (R445); no task of a launch held
for phase migration goes past it (R185). -/
def bumpLaunch (m : Mach) (key d : Nat) : Mach :=
  let l := m.launch key
  let m := l.liveTasks.foldl (fun m t => m.modTask ⟨key, t⟩ (bumpPhases d)) m
  let m := m.setLaunch key { m.launch key with arr1 := [], arr2 := [] }
  if l.phaseHold then
    let m := freezeLaunch m key 0
    m.setLaunch key (m.launch key).markPhase
  else m

/-- Whether a task counts as arrived because it has executed DONE (R117). -/
def taskIsDone (m : Mach) (t : TaskId) : Bool :=
  let l := m.launch t.launch
  (l.gang (l.gangOf t.task)).st == 4 || decide ((m.taskCore t).ctl.wait = .ended)

/-- A level-3 barrier completes when an arrival is recorded, every member launch is admitted, and every task of one that has
not ended has arrived or is done (R120, R121). -/
def tryDomain (m : Mach) (part dom : Nat) : Mach :=
  let p := m.partn part
  let dm : Dom := SMap.get (fun _ => {}) p.doms dom
  let all := dm.members.all fun k =>
    !m.hasLaunch k || (List.range (m.launch k).tasks).all fun u => dm.arr.contains (k, u) || taskIsDone m ⟨k, u⟩
  if dm.arr != [] && dm.members.length == dm.l && all then
    let m := m.setPart part { p with doms := SMap.set (fun _ => {}) p.doms dom { dm with arr := [] } }
    dm.members.foldl (fun m k => if m.hasLaunch k then bumpLaunch m k 3 else m) m
  else m

/-- A barrier of level 1 of a gang, 2 of a launch or 3 of its domain completes when an arrival is recorded and every
member has arrived or is done (R121, R445, R117). -/
def tryBarrier (m : Mach) (key g d : Nat) : Mach :=
  let l := m.launch key
  match d with
  | 1 =>
    let a := SMap.get (fun _ => []) l.arr1 g
    if a != [] && (l.gangTasks g).all fun u => a.contains u || taskIsDone m ⟨key, u⟩ then
      let m := (l.gangTasks g).foldl (fun m u => m.modTask ⟨key, u⟩ (bumpPhases 1)) m
      m.setLaunch key { m.launch key with arr1 := SMap.erase l.arr1 g }
    else m
  | 2 =>
    if l.arr2 != [] && (List.range l.tasks).all fun u => l.arr2.contains u || taskIsDone m ⟨key, u⟩ then bumpLaunch m key 2
    else m
  | _ => if l.img.domid = 0xFFFF then m else tryDomain m l.part l.img.domid

/-- A task's arrival at a barrier is recorded; when it is the last, the barrier completes. -/
def arrive (m : Mach) (t : TaskId) (d : Nat) : Mach :=
  let l := m.launch t.launch
  let g := l.gangOf t.task
  match d with
  | 0 => m.modTask t (bumpPhases 0)
  | 1 =>
    let a := SMap.get (fun _ => []) l.arr1 g
    let a := if a.contains t.task then a else t.task :: a
    tryBarrier (m.setLaunch t.launch { l with arr1 := SMap.set (fun _ => []) l.arr1 g a }) t.launch g 1
  | 2 =>
    let a := if l.arr2.contains t.task then l.arr2 else t.task :: l.arr2
    tryBarrier (m.setLaunch t.launch { l with arr2 := a }) t.launch g 2
  | _ =>
    let p := m.partn l.part
    let dm : Dom := SMap.get (fun _ => {}) p.doms l.img.domid
    let a := if dm.arr.contains (t.launch, t.task) then dm.arr else (t.launch, t.task) :: dm.arr
    tryBarrier (m.setPart l.part { p with doms := SMap.set (fun _ => {}) p.doms l.img.domid { dm with arr := a } }) t.launch g 3

/-- Whether a task's arrival of level `d` stands recorded (R446). -/
def arrived (m : Mach) (t : TaskId) (d : Nat) : Bool :=
  let l := m.launch t.launch
  match d with
  | 0 => false
  | 1 => (SMap.get (fun _ => []) l.arr1 (l.gangOf t.task)).contains t.task
  | 2 => l.arr2.contains t.task
  | _ => (SMap.get (fun _ => {}) (m.partn l.part).doms l.img.domid : Dom).arr.contains (t.launch, t.task)

/-! ### Sources and their heads (R125, R126, R147) -/

/-- The arbitration index of a launch's source. -/
def Launch.source (l : Launch) : Nat := 16 * l.vf + l.qidx
/-- The lowest-numbered undispatched gang. -/
def Launch.undispatched (l : Launch) : Option Nat := (List.range l.img.g).find? fun g => (l.gang g).st == 0
/-- The head of a source is its earliest launch with an undispatched gang. -/
def isHead (m : Mach) (key : Nat) : Bool :=
  let l := m.launch key
  l.undispatched.isSome && m.sys.launches.all fun e =>
    e.2.part != l.part || e.2.source != l.source || e.2.undispatched.isNone || decide (l.inv ≤ e.2.inv)
/-- Launches that have become head are PENDING from now (Table 5-12). `headAt` orders the steps in which launches became head:
those of one step became it in the same die cycle (log 73). -/
def headUpdate (m : Mach) : Mach :=
  match m.sys.launches.filter fun e => e.2.headAt.isNone && isHead m e.1 with
  | [] => m
  | new =>
    let n := m.sys.seq
    new.foldl (fun m e => m.setLaunch e.1 { e.2 with headAt := some n, st := max 1 e.2.st }) (m.onSys fun s => { s with seq := s.seq + 1 })

/-! ### The end of a launch -/

/-- What one site keeps of an ended task: nothing but which VF used it last (R100). -/
def clearSite (m : Mach) (vfn a : Nat) : Mach :=
  let m := leaveWaits m a
  let m := m.setSite a { m.site a with rst := 0, tst := 0, holder := 0, occ := none, last := vfn }
  m.setAgent a {}

/-- The origin of an ended launch is told (R64, R140). -/
def tellOrigin (m : Mach) (l : Launch) (status detail : Nat) : Mach :=
  match l.origin.kind with
  | 0 => complete m l.origin.a ⟨l.origin.b, 1, l.origin.tag / 2 ^ 32, l.origin.tag % 2 ^ 32, 0⟩ status detail l.gen l.inv
  | 1 => nodeDone m l.origin.a l.origin.b status ((m.run l.origin.a).succs l.origin.b)
  | _ => m

/-- An ended launch leaves its collectives; the regions it held for them become FREE. -/
def dropColls (m : Mach) (part key : Nat) : Mach :=
  let mine := fun (l : List Nat) => l.head? == some key
  let m := m.sys.colls.foldl (fun m e => (e.2.joined.filter fun j => mine j.2).foldl (fun m j =>
    (j.2.drop 5).foldl (fun m r =>
      let g := m.region part r
      if g.st = 5 ∧ g.hold = 1 then m.setRegion part r g.free else m) m) m) m
  let left := m.sys.colls.map fun e => (e.1, { e.2 with joined := e.2.joined.filter fun j => !mine j.2 })
  m.onSys fun s => { s with colls := left.filter fun e => e.2.joined != [] }

/-- A launch ends (R145, R146): its tasks leave their sites, images are discarded, regions its tasks own
return to FREE, its sets, queues, counters and packets go; then its record is written (R64). -/
def endLaunch (m : Mach) (key status detail : Nat) : Mach :=
  let l := m.launch key
  if m.hasLaunch key then
    let gs := l.gangs.filter fun e => e.2.onSites
    let m := gsEvent m (gs.flatMap fun e => l.gangSites e.1)
    let m := gs.foldl (fun m e => (l.gangSites e.1).foldl (fun m a =>
      let m := clearSite m l.vf a
      m.setNet a ((m.netOf a).filter fun k => k.task.launch != key)) m) m
    let mine := fun (k : Nat) => k / 2 ^ 20 == key
    let m := ((m.vf l.vf).saves.filter fun e => mine e.2).foldl (fun m e => freeSave m ⟨key, e.2 % 2 ^ 20⟩) m
    let m := m.onSys fun s => { s with saved := s.saved.filter fun e => !mine e.1 }
    let m := m.sweepRegions l.part
      (fun e => (e.st == 2 || (e.st == 5 && e.hold == 0)) && e.lnch == keyInv key && e.vfn == l.vf) RegionE.free
    let m := dropColls m l.part key
    let m := (m.sys.sets.filter fun e => e.2.launch == key).foldl (fun m e => seamClose m e.1) m
    let m := m.onSys fun s => { s with wqs := s.wqs.filter fun e => e.1 / 4 != key }
    let m := m.onSys fun s => { s with
      panels := s.panels.map fun e => (e.1, { e.2 with inbox := e.2.inbox.filter fun k => k.task.launch != key,
                                                       inq := e.2.inq.filter fun k => k.task.launch != key,
                                                       flts := e.2.flts.filter fun f => f.task.all fun t => t.launch != key,
                                                       snd := e.2.snd.filter fun k => !mine k.1,
                                                       last := e.2.last.filter fun k => !mine k.1 }) }
    let p := m.partn l.part
    let p := { p with reloc := p.reloc.filter fun e => !mine e.1 }
    let p :=
      if l.img.domid = 0xFFFF then p
      else
        let d : Dom := SMap.get (fun _ => {}) p.doms l.img.domid
        if !d.members.contains key then p
        else if d.ended + 1 ≥ d.l then { p with doms := SMap.erase p.doms l.img.domid }
        else { p with doms := SMap.set (fun _ => {}) p.doms l.img.domid { d with ended := d.ended + 1 } }
    let domGone := l.img.domid ≠ 0xFFFF ∧ !(p.doms.any fun e => e.1 == l.img.domid)
    let m := m.setPart l.part p
    let m := if domGone then
        m.onSys fun s => { s with wqs := s.wqs.filter fun e => e.1 / 4 != 2 ^ 30 + l.part * 4096 + l.img.domid }
      else m
    let m := if l.origin.kind = 1 then m else dropUser m l.vf l.slot l.gen key
    let m := m.onSys fun s => { s with launches := SMap.erase s.launches key }
    let m := if l.img.domid = 0xFFFF then m else tryDomain m l.part l.img.domid
    tellOrigin (headUpdate m) l status detail
  else m

/-- A gang ends when all its tasks have executed DONE (R117); the launch when all gangs have. -/
def endGang (m : Mach) (key g : Nat) : Mach :=
  let l := m.launch key
  let m := (l.gangSites g).foldl (fun m a => clearSite m l.vf a) (gsEvent m (l.gangSites g))
  let l := { l.setGang g { l.gang g with st := 4 } with rotAt := m.sys.ns }
  let m := m.setLaunch key l
  if (List.range l.img.g).all fun i => (l.gang i).st == 4 then endLaunch m key 0 0 else m

/-! ### Traps that leave the tile -/

/-- A trap escalated to the scheduler ends the launch (R145). -/
def escalate (m : Mach) (a code : Nat) : Mach :=
  match (m.agent a).ctl.task with
  | some t =>
    endLaunch (freezeLaunch m t.launch 0) t.launch 10 code
  | none => m

/-- The feature-absent trap (R187): the gang is frozen, the feature joins what its images require, and it
waits to be thawed where the sites have it. Every die can supply the features that FMASK names, one in reduced service once it is
calibrated; a further one ends the launch. -/
def featureAbsent (m : Mach) (a feature : Nat) : Mach :=
  match (m.agent a).ctl.task with
  | some t =>
    let l := m.launch t.launch
    let g := l.gangOf t.task
    let gg := l.gang g
    if 6 ≤ feature then endLaunch (freezeLaunch m t.launch 0) t.launch 10 3
    else freezeGang (m.setLaunch t.launch (l.setGang g { gg with rfeat := gg.rfeat ||| 2 ^ feature })) t.launch g 1
  | none => m

/-- A double fault (R180): the tile freezes; once its crash frame is written (`scanOut`) event 0x0040 follows and the launch ends with
the first trap's cause. -/
def crash (m : Mach) (a cause kind : Nat) : Mach :=
  if (m.agent a).ctl.task.isSome then
    let m := (m.onSys fun s => { s with seq := s.seq + 1 }).modAgent a fun c => c.modCtl fun k => { k with crash := some (cause, kind) }
    m.setSite a { m.site a with tst := 6, rst := 3, ord := m.sys.seq }
  else m

/-- A translation fault of an engine of a tile (R178, R179): the gang freezes into fault frames and the record
goes to the panel's walker. A ninth record of one frame is not kept. -/
def tileFault (m : Mach) (a eng acc va why : Nat) : Mach :=
  match (m.agent a).ctl.task with
  | some t =>
    let l := m.launch t.launch
    let c := m.agent a
    if c.ctl.flt.length ≥ 8 then m
    else
      let n := c.ctl.flt.length
      let m := m.modAgent a fun c => c.modCtl fun k => { k with flt := k.flt ++ [(eng, acc, va, k.cyc)] }
      let m := freezeGang m t.launch (l.gangOf t.task) 1
      fltPost m (panelOfSite a)
        ⟨fltBytes eng acc (localSite a) n why va l.vf (keyInv t.launch), a, eng, va, acc, none, some t⟩
  | none => m

/-! ### Restart of a command core (R110) -/

/-- The gangs with a task on a panel's sites, as launch and gang. -/
def gangsOnPanel (m : Mach) (p : Nat) : List (Nat × Nat) :=
  m.sys.launches.flatMap fun e =>
    (e.2.gangs.filter fun g => g.2.st == 1 && (e.2.gangSites g.1).any fun a => panelOfSite a == p).map fun g => (e.1, g.1)

/-- TEMPTAB of a die, as far as a core holds it: only a cold start puts it back to its floors (R222). -/
def temptabOf (c : Core) : SMap Dword := c.rf.csr.filter fun e => decide (0x880 ≤ e.1) && decide (e.1 ≤ 0x884)
/-- A command core restarts: the panel's tasks freeze with their images kept, the core is reset to the monitor's
entry point (its memory stays), and event 0x0050 is posted. -/
def ccRestart (m : Mach) (p reason : Nat) : Mach :=
  let m := freezeGangs m (gangsOnPanel m p) 0
  let m := m.modAgent (ccOf p) fun c => { rf := { csr := temptabOf c }, mem := c.mem }
  let m := m.modPanel p fun x => { x with wd := false, wdAt := m.sys.ns + 1000000 }
  postEvent m 0x50 ((m.panel p).part.getD 0xFF) 0 0xFF [BitVec.ofNat 8 p, BitVec.ofNat 8 reason]

end Sys2Proof.Machine
end

