-- ==== Sys2Proof/Machine/ErrLog.lean ====
section
/-!
DEFINITION. Error logs and error injection (09_lifetime_memory R234-R238): entries and counts of a log, what a write
does to the error state of a word, and what a read finds.
-/
namespace Sys2Proof.Machine

/-! ### Logs: 0-31 the panels', 32 and 33 the I/O dies' (R237) -/

def ElLog.entry (l : ElLog) (i : Nat) : ElEntry := SMap.get (fun _ => {}) l.ents i
/-- ELCNT (Table 9-11). -/
def ElLog.cnt (l : ElLog) : Dword := dw (l.ce * 2 ^ 40 + l.ue * 2 ^ 24 + l.lost * 2 ^ 8 + l.next)
/-- Eight bytes of an entry (ELDk). -/
def ElLog.data (l : ElLog) (i k : Nat) : Dword := dw (leAt (l.entry i).bytes (8 * k) 8)
def ElLog.markRead (l : ElLog) (i : Nat) : ElLog :=
  { l with ents := SMap.set (fun _ => {}) l.ents i { l.entry i with read := true } }
/-- A log after ELCLR: empty. -/
def ElLog.clear : ElLog := {}

/-- Write an entry at NEXT (R235). -/
def ElLog.add (l : ElLog) (bytes : List Byte) (ue : Bool) : ElLog :=
  let lost := (l.entry l.next).bytes ≠ [] ∧ !(l.entry l.next).read
  { ents := SMap.set (fun _ => {}) l.ents l.next ⟨bytes, false⟩
    ce := if ue then l.ce else min (l.ce + 1) 0xFFFFFF
    ue := if ue then min (l.ue + 1) 0xFFFF else l.ue
    lost := if lost then min (l.lost + 1) 0xFFFF else l.lost
    next := (l.next + 1) % 64 }

/-- CTXID of Table 7-3 for the context of an agent. -/
def ctxOf (m : Mach) (a : Nat) : Nat :=
  match (m.agent a).ctl.task with
  | some t => (m.agent a).ctl.vf % 1024 + keyInv t.launch * 2 ^ 16
  | none => 0

/-- An entry of Table 9-10. SYND is the code's own business: no rule gives its bits, a free value. -/
def elBytes (ns ary : Nat) (ue : Bool) (site rlog addr ctx synd : Nat) : List Byte :=
  [BitVec.ofNat 8 (ary + if ue then 16 else 0), BitVec.ofNat 8 site, BitVec.ofNat 8 rlog, 0] ++ leBytes synd 2 ++
    leBytes 0 2 ++ leBytes addr 8 ++ leBytes ctx 8 ++ timeBytes ns ++ [0]

/-- Draw a free value. -/
def Mach.drawn (m : Mach) : Dword := Config.freeValue m.free
def Mach.bump (m : Mach) : Mach := { m with free := m.free + 1 }

/-- Log an error of panel `p`. -/
def logErr (m : Mach) (p ary : Nat) (ue : Bool) (site rlog addr ctx : Nat) : Mach :=
  let b := elBytes m.sys.ns ary ue site rlog addr ctx (m.drawn.toNat % 65536)
  (m.modPanel p fun x => { x with log := x.log.add b ue }).bump

/-! ### Words that hold an error -/

/-- log2 of the bytes of a protected word (Table 9-9). -/
def wordLog (ary : Nat) : Nat := if ary = 3 ∨ ary = 4 then 5 else if ary = 10 then 6 else 3
def errKey (ary w : Nat) : Nat := ary * 2 ^ 40 + w
def Core.err (c : Core) (ary w : Nat) : Nat := SMap.get (fun _ => 0) c.mem.err (errKey ary w)
def Core.setErr (c : Core) (ary w v : Nat) : Core :=
  c.modMem fun x => { x with err := SMap.set (fun _ => 0) x.err (errKey ary w) v }

def csrEINJC : Nat := 0x878
def csrEINJM : Nat := 0x879

/-- Bits of MASK that fall in the array's field: the check field of an SEC-DED word has 8 bits (64 data) or 10
(256 data), the HBM code 16 bits (R234; log 18). -/
def injBits (ary : Nat) (cbit : Bool) (mask : Nat) : Nat :=
  if cbit then mask % 2 ^ (if ary = 3 ∨ ary = 4 then 10 else if ary = 10 then 16 else 8) else mask % 2 ^ 64

/-- Whether EINJC of a panel is armed for a write of `n` bytes at `off` of array `ary` at local site `site`. -/
def injHits (m : Mach) (p ary site off n : Nat) : Bool :=
  let c := m.ccCsr p csrEINJC
  bit c 63 && bits c 61 58 == ary && (decide (6 < ary) || bits c 55 50 == site) &&
    decide (off >>> wordLog ary ≤ bits c 49 0 >>> wordLog ary) &&
    decide (bits c 49 0 >>> wordLog ary ≤ (off + n - 1) >>> wordLog ary)

/-- The error state of the words of a write to an agent's array: cleared, and set anew where an injection is armed
(R238). One inverted bit is corrected by SEC-DED, more are not. Data bits are inverted in the stored word. -/
def noteWrite (m : Mach) (a ary off n : Nat) : Mach :=
  let p := panelOf a
  let lg := wordLog ary
  let m :=
    if (m.agent a).mem.err = [] then m
    else m.modAgent a fun c => c.modMem fun x =>
      { x with err := x.err.filter fun e =>
          decide (e.1 < errKey ary (off >>> lg)) || decide (errKey ary ((off + n - 1) >>> lg) < e.1) }
  if injHits m p ary (localSite a) off n then
    let c := m.ccCsr p csrEINJC
    let b := injBits ary (bit c 62) (m.ccCsr p csrEINJM).toNat
    let k := popCount 64 b
    let m := m.setCcCsr p csrEINJC (c - 2 ^ 63)
    let w := bits c 49 0 >>> lg
    let m := if k = 0 then m else m.modAgent a fun c => c.setErr ary w (if k = 1 then 1 else 2)
    -- SEC-DED per 64 bits keeps what it cannot correct
    if k < 2 ∨ bit c 62 then m
    else
      let flip := fun (y : Memory) => y.writeNat (8 * w) 8 (Nat.xor (y.readNat (8 * w) 8) b)
      m.modAgent a fun c => c.modMem fun x =>
        match ary with
        | 0 => { x with sm := flip x.sm }
        | 1 =>
          let r := SMap.get (fun _ => {}) x.crow (w / 32)
          { x with crow := SMap.set (fun _ => {}) x.crow (w / 32) ⟨r.v ^^^ BitVec.ofNat 2048 (b <<< (64 * (w % 32))), r.p⟩ }
        | 2 => { x with im := flip x.im }
        | 9 => { x with sm := flip x.sm }
        | _ => x
  else m

/-- The worst error among the words of a read. -/
def errIn (c : Core) (ary off n : Nat) : Nat :=
  if c.mem.err = [] then 0
  else (List.range (((off + n - 1) >>> wordLog ary) - (off >>> wordLog ary) + 1)).foldl
    (fun k i => max k (c.err ary ((off >>> wordLog ary) + i))) 0

/-- What a read does to the words it touches: every error found is logged; a corrected word is written back. An uncorrectable error of A
or W is logged for its row group, by what makes that invalid (R234, R238). -/
def noteRead (m : Mach) (a ary off n : Nat) : Mach :=
  if errIn (m.agent a) ary off n = 0 then m
  else
    let lg := wordLog ary
    let site := if ary ≤ 6 then localSite a else 0xFF
    (List.range (((off + n - 1) >>> lg) - (off >>> lg) + 1)).foldl (fun m i =>
      let w := (off >>> lg) + i
      match (m.agent a).err ary w with
      | 0 => m
      | 1 => (logErr m (panelOf a) ary false site lg (w <<< lg) (ctxOf m a)).modAgent a fun c => c.setErr ary w 0
      | _ => if ary = 3 ∨ ary = 4 then m else logErr m (panelOf a) ary true site lg (w <<< lg) (ctxOf m a)) m

/-- The same for HBM (R234, R236): units of 64 bytes of the panel that owns the channel. -/
def noteHbmWrite (m : Mach) (pa n : Nat) : Mach :=
  let p := panelOfPa pa
  let m :=
    if m.sys.hbmErr = [] then m
    else m.onSys fun s =>
      { s with hbmErr := s.hbmErr.filter fun e => decide (e.1 < pa / 64) || decide ((pa + n - 1) / 64 < e.1) }
  if injHits m p 10 0 pa n then
    let c := m.ccCsr p csrEINJC
    let k := popCount 64 (injBits 10 (bit c 62) (m.ccCsr p csrEINJM).toNat)
    let m := m.setCcCsr p csrEINJC (c - 2 ^ 63)
    if k = 0 then m
    else m.onSys fun s => { s with hbmErr := SMap.set (fun _ => 0) s.hbmErr (bits c 49 0 / 64) (if k = 1 then 1 else 2) }
  else m

/-- An uncorrectable unit of a row has been found (R236): three units of one row within a second mark the row, two
marked rows of a region mark the region; each marked range is logged once. -/
def markHbm (m : Mach) (unit : Nat) : Mach :=
  let row := unit / 32
  let region := unit / 32768
  let ns := m.sys.ns
  let l := (SMap.get (fun _ => []) m.sys.hbmUe row).filter fun e => e.1 != unit && decide (ns ≤ e.2 + 1000000000)
  let l := (unit, ns) :: l
  let m := m.onSys fun s => { s with hbmUe := SMap.set (fun _ => []) s.hbmUe row l }
  let mark := fun (m : Mach) (k lg a : Nat) =>
    if m.sys.hbmMark.contains k then m
    else logErr (m.onSys fun s => { s with hbmMark := k :: s.hbmMark }) (panelOfPa a) 10 true 0xFF lg a 0
  if l.length < 3 then m
  else
    let m := mark m (2 * row) 11 (row * 2048)
    let rows := m.sys.hbmMark.filter fun k => k % 2 == 0 && k / 2 / 1024 == region
    if 2 ≤ rows.length then mark m (2 * region + 1) 21 (region * 0x200000) else m

def noteHbmRead (m : Mach) (pa n : Nat) : Mach :=
  if m.sys.hbmErr = [] then m
  else m.sys.hbmErr.foldl (fun m e =>
    if pa / 64 ≤ e.1 ∧ e.1 ≤ (pa + n - 1) / 64 then
      let inMark := m.sys.hbmMark.contains (2 * (e.1 / 32)) || m.sys.hbmMark.contains (2 * (e.1 / 32768) + 1)
      if e.2 = 1 then
        (logErr m (panelOfPa pa) 10 false 0xFF 6 (e.1 * 64) 0).onSys fun s => { s with hbmErr := SMap.erase s.hbmErr e.1 }
      else if inMark then m
      else markHbm (logErr m (panelOfPa pa) 10 true 0xFF 6 (e.1 * 64) 0) e.1
    else m) m

/-! ### Arrays whose layout no rule gives: queues 5, A latch 6, stage cache 7, seam buffer 8 (log 14) -/

/-- The word of an item of `words` words that an armed injection names. -/
def injItem (m : Mach) (p ary site item words : Nat) : Option Nat :=
  let c := m.ccCsr p csrEINJC
  if bit c 63 && bits c 61 58 == ary && (decide (6 < ary) || bits c 55 50 == site) then
    (List.range words).find? fun j => bits c 49 0 == Config.wordAt ary (item * 2 ^ 18 + j)
  else none
/-- The error an injection leaves in an item just written, with the data bits inverted in it where they cannot be corrected; ARM is
cleared (R238). -/
def injInto (m : Mach) (p ary site item words : Nat) : Option ItemErr × Nat × Mach :=
  match injItem m p ary site item words with
  | none => (none, 0, m)
  | some j =>
    let c := m.ccCsr p csrEINJC
    let b := injBits ary (bit c 62) (m.ccCsr p csrEINJM).toNat
    let ue := decide (2 ≤ popCount 64 b)
    (if b = 0 then none else some ⟨bits c 49 0, ue⟩, if ue && !bit c 62 then b <<< (64 * j) else 0,
      m.setCcCsr p csrEINJC (c - 2 ^ 63))
/-- An error found in an item of an agent's array is logged (R235). -/
def logItem (m : Mach) (a ary : Nat) (e : Option ItemErr) : Mach :=
  match e with
  | none => m
  | some e => logErr m (panelOf a) ary e.ue (if ary ≤ 6 then localSite a else 0xFF) 3 e.addr (ctxOf m a)

/-! ### Rows of C (R195, R234) -/

def Core.row (c : Core) (r : Nat) : RowP := SMap.get (fun _ => {}) c.mem.crow r
def Core.setRow (c : Core) (r : Nat) (x : RowP) : Core :=
  c.modMem fun y => { y with crow := SMap.set (fun _ => {}) y.crow r x }
/-- A row of C as a reader finds it: an uncorrectable error poisons it (Table 9-9). -/
def Core.rowFound (c : Core) (r : Nat) : RowP := ⟨(c.row r).v, (c.row r).p || decide (2 ≤ errIn c 1 (256 * r) 256)⟩
def crowRead (m : Mach) (a r : Nat) : RowP × Mach := ((m.agent a).rowFound r, noteRead m a 1 (256 * r) 256)
def crowWrite (m : Mach) (a r : Nat) (x : RowP) : Mach :=
  noteWrite (m.modAgent a fun c => c.setRow r x) a 1 (256 * r) 256

end Sys2Proof.Machine
end

