-- ==== Sys2Proof/Machine/Ops.lean ====
section
/-!
DEFINITION. The named operations of a word: reading and writing registers, ports and flags under the rules of
readiness and poison (13 R318, R324; 08 R196, R202, R216; 14 R336-R338), taking a trap and returning from one
(18 R452-R455; 04 R109), and how a word's effect or refusal becomes the next state.
-/
namespace Sys2Proof.Machine

/-! ### Effects of a word -/

/-- Why a word does not take effect. -/
inductive Stop where
  /-- A trap at the word (R320). -/
  | trap (code : Nat) (tval : Dword)
  /-- A trap that leaves a mark behind, such as the log entry of the error it reports (R234). -/
  | trapUpd (code : Nat) (tval : Dword) (upd : Mach → Mach)
  /-- An uncorrectable error in a command core's memory, read at this offset and length, restarts the core (R110, R234). -/
  | restart (off n : Nat)
  /-- The bundle waits and is tried again from cycle `ready`; `upd` is what the wait itself leaves behind,
  such as a place in a waiter list. -/
  | hold (ready : Nat) (upd : Mach → Mach)
  /-- A stamped bundle would wait for a resource: stamp overrun, TVAL the count (R216). -/
  | overdue (tval : Dword)
  /-- In a stamped bundle, an operand is not ready (R216). -/
  | late
  /-- A translation fault in the check of a copy command or a collective: address, access, reason; the word issues again after the
  thaw (R253, log 37). -/
  | tlbFault (va acc why : Nat)

/-- An effect of a word on the state. -/
abbrev Exec := StateT State (Except Stop)

def stop {α : Type} (x : Stop) : Exec α := fun _ => .error x
/-- Raise a trap with TVAL. -/
def raise {α : Type} (code : Nat) (tval : Dword) : Exec α := stop (.trap code tval)

/-- The machine as it stood before the bundle (R318). -/
def State.old (s : State) : Mach :=
  match s.bundle with
  | some b => b.start
  | none => s.m

/-- The bits of the word now executing, as TVAL reports them. -/
def State.wordBits (s : State) : Dword :=
  match s.bundle with
  | some b => b.word.setWidth 64
  | none => 0

def getM : Exec Mach := fun s => .ok (s.m, s)
def getOld : Exec Mach := fun s => .ok (s.old, s)
def modM (f : Mach → Mach) : Exec Unit := fun s => .ok ((), { s with m := f s.m })
/-- Change the bundle's own context, when there is one. -/
def modB (f : Bundle → Bundle) : Exec Unit := fun s => .ok ((), { s with bundle := s.bundle.map f })
def getB : Exec (Option Bundle) := fun s => .ok (s.bundle, s)
/-- Raise a trap whose TVAL is the word (R453). -/
def raiseWord {α : Type} (code : Nat) : Exec α := fun s => .error (.trap code s.wordBits)
/-- Require a condition, or raise. -/
def need (c : Bool) (code : Nat) (tval : Dword) : Exec Unit := if c then pure () else raise code tval
def needWord (c : Bool) (code : Nat) : Exec Unit := if c then pure () else raiseWord code

/-- Whether the bundle is stamped: its header has a stamp and the tile is in stamped mode (R216, R323). One that has waited for the
answer to an ownership word has issued, and is judged no more (R368). -/
def State.stamped (s : State) : Bool :=
  match s.bundle with
  | some b => b.stamp.isSome && bit (b.start.csr 0x016) 0 && b.start.core.ctl.own.isNone
  | none => false

def isStamped : Exec Bool := fun s => .ok (s.stamped, s)

/-- Wait for a resource until cycle `ready`; a stamped bundle cannot (R216): stamp overrun, TVAL the count. -/
def sfcOf (m : Mach) : Nat := min 0xFFFF (m.core.ctl.cyc - m.core.ctl.sfc0)
def hold {α : Type} (ready : Nat) : Exec α := fun s =>
  if s.stamped then .error (.overdue (dw (sfcOf s.old))) else .error (.hold ready id)
/-- Wait, leaving a mark of the wait. -/
def holdWith {α : Type} (upd : Mach → Mach) : Exec α := fun s =>
  if s.stamped then .error (.overdue (dw (sfcOf s.old))) else .error (.hold 0 upd)

/-- In a stamped bundle an operand that is not ready stops the word as late; otherwise the bundle waits. -/
def notReady {α : Type} (ready : Nat) : Exec α := fun s =>
  if s.stamped then .error .late else .error (.hold ready id)
/-- The bundle waits on a queue: for an item, where a stamped one finds its operand late; for room, where that is an overrun. -/
def awaits (b : Block) (m : Mach) : Mach := m.modCtl fun c => { c with blockOn := some b }
def noItem {α : Type} (n : Nat) : Exec α := fun s =>
  if s.stamped then .error .late else .error (.hold 0 (awaits (.queue n)))
def noRoom {α : Type} (n : Nat) : Exec α := holdWith (awaits (.queue n))

/-- Run `body`; when an operand is late, run `onLate` in its place, from the state before the word (R216). -/
def orLate (body onLate : Exec Unit) : Exec Unit := fun s =>
  match body s with
  | .error .late => onLate s
  | r => r

/-- A word without a destination whose operand is late: the poison trap (R216). -/
def lateTrap : Exec Unit := raiseWord 0x04

/-! ### Readiness -/

/-- Keys of the table of ready cycles: scalars, predicates, rows of C. -/
def rdyS (r : Nat) : Nat := r
def rdyP (r : Nat) : Nat := 64 + r
def rdyRow (r : Nat) : Nat := 128 + r
/-- The F engine's next free cycle (R381). -/
def rdyF : Nat := 2000

def Core.ready (c : Core) (k : Nat) : Nat := SMap.get (fun _ => 0) c.ctl.rdy k
/-- Whether a result is still on its way to scalar `r` or to row `r`. -/
def Core.pendS (c : Core) (r : Nat) : Bool := c.ctl.resp.any fun x => x.kind == 0 && x.dst == r
def Core.pendRow (c : Core) (r : Nat) : Bool := c.ctl.resp.any fun x => x.kind == 1 && x.dst == r

/-- An operand must be ready at issue (R216, R337). -/
def needReady (k : Nat) (pend : Bool) : Exec Unit := do
  let m ← getOld
  if pend then notReady 0
  else if m.core.ctl.cyc < m.core.ready k then notReady (m.core.ready k)
  else pure ()

/-- Mark when a result can be used: `lat` cycles after this bundle (R337). -/
def setReady (k lat : Nat) : Exec Unit :=
  modM fun m => m.modCtl fun c => { c with rdy := SMap.set (fun _ => 0) c.rdy k (c.cyc + lat) }

/-! ### Hardware queues and ports -/

def Core.hq (c : Core) (n : Nat) : HQ := SMap.get (fun _ => {}) c.eng.hq n
def Core.setHq (c : Core) (n : Nat) (q : HQ) : Core :=
  c.modEng fun e => { e with hq := SMap.set (fun _ => {}) e.hq n q }
def Mach.hq (m : Mach) (n : Nat) : HQ := m.core.hq n
def Mach.setHq (m : Mach) (n : Nat) (q : HQ) : Mach := m.modCore fun c => c.setHq n q

/-- Depths of Table 8-7. -/
def hqDepth (n : Nat) : Nat := if n < 8 then 8 else if n < 12 then 64 else 16

/-- Where the next item of a queue lies in its array, and the words it takes (log 14). -/
def HQ.place (q : HQ) (n : Nat) : Nat := n * 64 + q.pos % hqDepth n
def itemWords (n : Nat) : Nat := if n < 12 then 32 else 1
/-- An item enters a queue, last; an injection armed for one of its words goes in with it (R238). -/
def pushHq (m : Mach) (a n : Nat) (x : RowP) (src : Nat) : Mach :=
  let e := injInto m (panelOf a) 5 (localSite a) (((m.agent a).hq n).place n) (itemWords n)
  e.2.2.modAgent a fun c =>
    let q := c.hq n
    c.setHq n { q with items := q.items ++ [⟨⟨x.v ^^^ BitVec.ofNat 2048 e.2.1, x.p⟩, src, e.1⟩], pos := q.pos + 1 }
/-- An item as it is found when it is taken: an uncorrectable error poisons it (Table 9-9). -/
def QItem.found (i : QItem) : RowP := ⟨i.row.v, i.row.p || i.err.any ItemErr.ue⟩

/-- The queue bound to a port: vector ports reach hq0-hq11, scalar ports hq12-hq15 (R426). -/
def Core.portQueue (c : Core) (scalar : Bool) (port : Nat) : Option Nat :=
  (List.range 16).find? fun n =>
    let q := c.hq n
    q.bound && q.port == port && (q.prod == 8 || q.cons == 5) && (decide (12 ≤ n) == scalar)

/-- Granule codes cleared by popping an item: by the task one of a stream engine, by any reader one that an inbound post delivered
(R214); none while checking is off (R215). -/
def popClears (on task : Bool) (src : Nat) (race : SMap Nat) : SMap Nat :=
  if !on then race
  else if src = 1 ∧ task then race.filter fun e => e.2 / 32 != 4
  else if src = 2 then race.filter fun e => e.2 / 32 != 5
  else race
def Core.raceOn (c : Core) : Bool := bit (c.csr true 0x016) 1

/-- Pop one item through a port (R201-R203). -/
def popPort (scalar : Bool) (port : Nat) : Exec RowP := do
  let m ← getM
  let old ← getOld
  match m.core.portQueue scalar port with
  | none => raiseWord 0x07
  | some n =>
    let q := m.hq n
    if q.cons ≠ 5 then raiseWord 0x07
    else
      match q.items with
      | [] =>
        if 8 ≤ n ∧ n < 12 then if q.resv = 0 then raiseWord 0x07 else noItem n
        else noItem n
      | i :: t => do
        modM fun m => logItem ((m.setHq n { q with items := t }).modMem fun x =>
          { x with race := popClears old.core.raceOn true i.src x.race }) m.me 5 i.err
        pure i.found

/-- Push one item through a port (R201, R202). -/
def pushPort (scalar : Bool) (port : Nat) (x : RowP) : Exec Unit := do
  let m ← getM
  match m.core.portQueue scalar port with
  | none => raiseWord 0x07
  | some n =>
    let q := m.hq n
    if q.prod ≠ 8 then raiseWord 0x07
    else if q.items.length ≥ hqDepth n then noRoom n
    else modM fun m => pushHq m m.me n x 0

/-! ### Scalar registers and predicates -/

def Core.s (c : Core) (r : Nat) : SReg := if r = 0 then {} else SMap.get (fun _ => {}) c.rf.s r
def Core.setS (c : Core) (r : Nat) (x : SReg) : Core :=
  if r = 0 then c else c.modRf fun f => { f with s := SMap.set (fun _ => {}) f.s r x }
def Core.p (c : Core) (r : Nat) : PReg := if r = 0 then ⟨true, false⟩ else SMap.get (fun _ => {}) c.rf.p r
def Core.setP (c : Core) (r : Nat) (x : PReg) : Core :=
  if r = 0 then c else c.modRf fun f => { f with p := SMap.set (fun _ => {}) f.p r x }

/-- Read scalar `r` as a word's operand: a port pops, another register must be ready (R318, R324, R337). -/
def rdS (r : Nat) : Exec SReg := do
  let m ← getOld
  if m.isTile ∧ 60 ≤ r then do
    let x ← popPort true (r - 60)
    pure ⟨x.v.setWidth 64, x.p⟩
  else if r = 0 then pure {}
  else do
    needReady (rdyS r) (m.core.pendS r)
    pure (m.core.s r)

/-- A scalar used as an address, count, index, control value or other item that holds no poison: a poisoned
one raises the poison trap (R301). -/
def rdClean (r : Nat) : Exec Dword := do
  let x ← rdS r
  needWord (!x.p) 0x04
  pure x.v

/-- The write of a result while an earlier word's result is still on its way (R338): in a stamped bundle the
earlier one is dropped, otherwise the bundle waits. `kind` and `dst` name a result as `Resp` does. -/
def settle (kind dst key : Nat) : Exec Unit := do
  let m ← getOld
  let st ← isStamped
  if st then
    modM fun m => m.modCtl fun c => { c with resp := c.resp.filter fun x => !(x.kind == kind && x.dst == dst) }
  else if m.core.ctl.resp.any fun x => x.kind == kind && x.dst == dst then hold 0
  else if m.core.ctl.cyc < m.core.ready key then hold (m.core.ready key)
  else pure ()

/-- Write scalar `r`, usable `lat` cycles later; a port pushes; s0 discards (R318, R324, R336). -/
def wrS (r : Nat) (x : SReg) (lat : Nat) : Exec Unit := do
  let m ← getOld
  if m.isTile ∧ 60 ≤ r then pushPort true (r - 60) ⟨x.v.setWidth 2048, x.p⟩
  else if r = 0 then pure ()
  else do
    settle 0 r (rdyS r)
    modM fun m => m.modCore fun c => c.setS r x
    setReady (rdyS r) lat

/-- The result written in place of a late operand: zero bits, poison (R216). -/
def lateS (r lat : Nat) : Exec Unit := wrS r ⟨0, true⟩ lat

/-- Read and write a predicate; p0 is true and discards (R324). -/
def rdP (r : Nat) : Exec PReg := do
  let m ← getOld
  if r = 0 then pure ⟨true, false⟩
  else do
    needReady (rdyP r) false
    pure (m.core.p r)
def wrP (r : Nat) (x : PReg) (lat : Nat) : Exec Unit :=
  if r = 0 then pure ()
  else do
    modM fun m => m.modCore fun c => c.setP r x
    setReady (rdyP r) lat
def lateP (r lat : Nat) : Exec Unit := wrP r ⟨false, true⟩ lat

/-- The KX payload that extends the present word (R316). -/
def getExt : Exec (Option (BitVec 26)) := fun s =>
  .ok ((match s.bundle with
    | some b => b.ext
    | none => none), s)

/-! ### Vector names and rows -/

/-- The rotating count of VROT (Table 8-6). -/
def rotCount (n : Nat) : Nat :=
  match n with
  | 0 => 0
  | 1 => 8
  | 2 => 16
  | _ => 32

/-- The C row of a vector name below 60 (R197). -/
def Mach.rowOf (m : Mach) (i : Nat) : Nat :=
  if i < 32 then
    let n := rotCount (bits (m.csr 0x012) 1 0)
    let b := bits (m.csr 0x013) 4 0
    bits (m.csr 0x010) 4 0 * 32 + (if i < n then (i + b) % n else i)
  else bits (m.csr 0x011) 4 0 * 32 + (i - 32)


/-- RLIM of a latched MCFG, and the rows an issued M operation writes or reads (R318, R381). -/
def mcfgRlim (cfg : Dword) : Nat := bits cfg 13 8
def MOp.writes (o : MOp) (row : Nat) : Bool :=
  row / 32 == o.tile &&
    (match o.kind with
      | 0 => decide (row % 32 < mcfgRlim o.cfg)
      | 1 => decide (row % 32 < mcfgRlim o.cfg)
      | 3 => true
      | 5 => true
      | _ => false)
def MOp.touches (o : MOp) (row : Nat) : Bool :=
  o.writes row || (row / 32 == o.tile && (o.kind == 2 || o.kind == 4))

/-- Read the row of a vector name: a port pops; a row with a matrix write or a result pending is not ready. -/
def rdV (i : Nat) : Exec RowP := do
  let m ← getOld
  if 60 ≤ i then popPort false (i - 60)
  else do
    let r := m.rowOf i
    needReady (rdyRow r) (m.core.pendRow r || m.core.eng.mq.any fun o => o.writes r)
    modM fun x => (crowRead x x.me r).2
    pure (m.core.rowFound r)

/-- The old value of a destination: zero without poison for a port (R380). -/
def rdOldV (i : Nat) : Exec RowP := if 60 ≤ i then pure {} else rdV i

/-- Write the row of a vector name (R381: a row that an issued M operation reads or writes is waited for). -/
def wrV (i : Nat) (x : RowP) (lat : Nat) : Exec Unit := do
  let m ← getOld
  if 60 ≤ i then pushPort false (i - 60) x
  else do
    let r := m.rowOf i
    if m.core.eng.mq.any fun o => o.touches r then hold 0
    else do
      settle 1 r (rdyRow r)
      modM fun m => crowWrite m m.me r x
      setReady (rdyRow r) lat
def lateV (i lat : Nat) : Exec Unit := wrV i ⟨0, true⟩ lat

/-- The type tag of accumulator tile `k` (Table 8-6), of a vector name's tile, and the element type a
destination gives (R198). -/
def Mach.tagOf (m : Mach) (k : Nat) : Nat :=
  if k < 16 then bits (m.csr 0x014) (4 * k + 3) (4 * k)
  else bits (m.csr 0x015) (4 * (k - 16) + 3) (4 * (k - 16))
def Mach.setTag (m : Mach) (k t : Nat) : Mach :=
  let put := fun (v : Dword) (j : Nat) => v - dw (bits v (4 * j + 3) (4 * j) * 2 ^ (4 * j)) + dw (t % 16 * 2 ^ (4 * j))
  if k < 16 then m.setCsr 0x014 (put (m.csr 0x014) k) else m.setCsr 0x015 (put (m.csr 0x015) (k - 16))
def Mach.nameTile (m : Mach) (i : Nat) : Nat :=
  if 32 ≤ i ∧ i < 60 then bits (m.csr 0x011) 4 0 else bits (m.csr 0x010) 4 0
def Mach.nameType (m : Mach) (i : Nat) : Nat := m.tagOf (m.nameTile i)

/-! ### Flags -/

/-- Set bits of FFLAGS and SATF; they only accumulate (R295). -/
def orFlags (ff : Nat) (sat : Bool) : Exec Unit := modM fun m =>
  let m := if ff % 32 = 0 then m else m.setCsr 0x000 (m.csr 0x000 ||| dw (ff % 32))
  if sat then m.setCsr 0x001 (m.csr 0x001 ||| 1) else m

/-! ### Traps -/

/-- A code address field: bits [15:2] on a tile, [17:2] on a command core (R352, Table 13-7). -/
def codeMask (tile : Bool) : Dword := if tile then 0xFFFC else 0x3FFFC

/-- Is `a` an address a fetch can start at (R320 step 1, R105)? -/
def inCode (tile : Bool) (a : Nat) : Bool := decide (a < if tile then 0x10000 else 0x40000)

/-- Taking a trap, from the machine as it stood before the bundle: `code`, word position, TVAL, and for cause
0x03 the missing feature. On a tile: 0x03 to the scheduler (R187), a delegated cause ends the launch (R145),
otherwise the entry of R452. On a command core: level 0 to level 1 through TVEC, levels 1 and 2 to level 2
through MVEC (R109, R455). -/
def takeTrap (m : Mach) (code widx : Nat) (tval : Dword) : Mach :=
  let m := leaveWq ((m.modCtl fun c => { c with blockAt := none, blockOn := none, own := none }).modEng fun e => { e with closing := none }) m.me
  let cause := dw (code + 256 * (widx % 8))
  if m.isTile then
    if code = 3 then featureAbsent (m.setCsr 0x022 (m.core.rf.pc &&& codeMask true)) m.me tval.toNat
    else if bit (m.csr 0x024) code then escalate m m.me code
    else
      let m := ((m.setCsr 0x022 (m.core.rf.pc &&& codeMask true)).setCsr 0x021 cause).setCsr 0x023 tval
      let vec := m.csr 0x020 &&& codeMask true
      -- the handler's first word: an uncorrectable error in it is a double fault (R180)
      if errIn m.core 2 vec.toNat 4 ≥ 2 then crash (noteRead m m.me 2 vec.toNat 4) m.me code 1
      else
        (m.modCtl fun c => { c with cyc := c.cyc + 4, sfc0 := c.cyc + 4, loop := c.loop.map fun l => { l with susp := true } }).modRf
          fun r => { r with pc := vec, npc := vec }
  else if m.level = 0 then
    let m := ((m.setCsr 0x022 (m.core.rf.pc &&& codeMask false)).setCsr 0x021 cause).setCsr 0x023 tval
    let m := m.setCsr 0x800 ((m.csr 0x800 &&& 0xC) ||| 1)
    let vec := m.csr 0x020 &&& codeMask false
    -- a handler whose first word cannot be fetched halts the core (R105, R109)
    (m.modCtl fun c => { c with cyc := c.cyc + 4, wait := if 0x30000 ≤ vec.toNat then .halt else c.wait }).modRf fun r => { r with pc := vec, npc := vec }
  else
    let m := ((m.setCsr 0x811 (m.core.rf.pc &&& codeMask false)).setCsr 0x812 cause).setCsr 0x813 tval
    let m := m.setCsr 0x800 (dw (4 * m.level + 2))
    let vec := m.csr 0x810 &&& codeMask false
    (m.modCtl fun c => { c with cyc := c.cyc + 4 }).modRf fun r => { r with pc := vec, npc := vec }

/-- TRET (R454, R455): where issue continues, and what the return changes. On a tile: SFC 0, a suspended loop
resumes when TEPC lies in its kernel and ends otherwise, halted engines go on. On a command core: from level 1
to level 0 at TEPC, from level 2 to PLVL.MPL at MEPC. `old` is the machine the bundle found. -/
def returnTrap (old m : Mach) : Mach :=
  if m.isTile then
    let pc := old.csr 0x022 &&& codeMask true
    let m := m.modCtl fun c => { c with sfc0 := c.cyc + 1, loop := c.loop.bind fun l =>
      if l.susp then if l.start ≤ pc.toNat ∧ pc.toNat < l.stop then some { l with susp := false } else none else some l }
    let m := m.modEng fun e => { e with se := e.se.map fun x => (x.1, { x.2 with halted := false }),
                                        ch := e.ch.map fun x => (x.1, { x.2 with halted := false }), mhalt := false, ghalt := false,
                                        ihalt := false, xhalt := false, thalt := false }
    m.modRf fun r => { r with npc := pc }
  else if old.level = 1 then
    let pc := old.csr 0x022 &&& codeMask false
    (m.setCsr 0x800 (old.csr 0x800 &&& 0xC)).modRf fun r => { r with npc := pc }
  else
    let pc := old.csr 0x811 &&& codeMask false
    let mpl := bits (old.csr 0x800) 3 2
    (m.setCsr 0x800 (dw (4 * mpl + mpl))).modRf fun r => { r with npc := pc }

/-- A bundle that cannot issue waits: the cycle count goes on and the pc stays (R202, R216). -/
def blockUntil (m : Mach) (ready : Nat) : Mach :=
  m.modCtl fun c => { c with cyc := if c.cyc + 1 < ready then ready else c.cyc + 1,
                             blockAt := if c.blockAt = none then some m.sys.ns else c.blockAt, blockOn := none }

/-- The overrun a stop is, if it is one. -/
def Stop.overrun (x : Stop) : Option Dword :=
  match x with
  | .overdue t => some t
  | _ => none
/-- A word that does not take effect while a bundle is tried for overruns: the first one is noted (R320 step 5). -/
def Bundle.probed (b : Bundle) (x : Stop) : Bundle :=
  { b with overdue := match b.overdue, x.overrun with
      | none, some t => some (b.widx, t)
      | o, _ => o }
/-- The state after a word that did not take effect: the bundle has none at all (R320). -/
def stopped (x : Stop) (s : State) : State :=
  let w := match s.bundle with
    | some b => b.widx
    | none => 0
  let m := s.old
  { s with
    bundle := none,
    m := match x with
      | .trap code tval => takeTrap m code w tval
      | .trapUpd code tval upd => takeTrap (upd m) code w tval
      | .restart off n => ccRestart (noteRead m m.me 9 off n) (m.me - 1152) 1
      | .hold ready upd => upd (blockUntil m ready)
      | .overdue tval => takeTrap m 0x08 w tval
      | .late => takeTrap m 0x04 w s.wordBits
      | .tlbFault va acc why => tileFault m m.me 0 acc va why }
def stopState (x : Stop) (s : State) : State :=
  match s.bundle with
  | some b => if b.probe then { s with bundle := some (b.probed x) } else stopped x s
  | none => stopped x s

/-- What a meaning answers. -/
abbrev Res := Host.Outcome State Fault Refusal

/-- Run a word's effect. -/
def runExec (e : Exec Unit) (s : State) : Host.Outcome State Fault Refusal :=
  match e s with
  | .ok (_, s') => .next s'
  | .error x => .next (stopState x s)

/-- Run a step that no word asks for: a change of the machine by what came with it. -/
def runEvent (f : Arg → Mach → Mach) (s : State) : Host.Outcome State Fault Refusal :=
  .next { s with m := f s.arg s.m }

end Sys2Proof.Machine
end

