-- ==== Sys2Proof/Machine/Operands.lean ====
section
/-!
DEFINITION. Operand forms (13 R315, R316, Table 13-2): immediates with their KX extension, effective addresses
(15 R358), transfer targets (14 R348, R352), and the words of engine C that read two operands and write one.
-/
namespace Sys2Proof.Machine

/-- The bits of a field as a number. -/
abbrev fld {w : Nat} (x : BitVec w) : Nat := x.toNat

/-- A signed immediate field of `w` bits, extended by the word's KX (R316). -/
def imm (w : Nat) (f : Nat) : Exec Dword := do
  let k ← getExt
  pure (dwInt (extSigned w f k))

/-- EA of a load or store: base plus the signed offset times the access size (R358). -/
def effAddr (a : SReg) (w off size : Nat) : Exec SReg := do
  let k ← getExt
  pure ⟨a.v + dwInt (extSigned w off k * size), a.p⟩

/-- The destination of a C word with two register sources: value and the OR of their poison (R336). -/
def c3 (d a b lat : Nat) (f : Dword → Dword → Dword) : Exec Unit :=
  orLate (do
    let x ← rdS a
    let y ← rdS b
    wrS d ⟨f x.v y.v, x.p || y.p⟩ lat) (lateS d lat)

/-- One register and a signed 6-bit immediate (form T2I). -/
def c2i (d a i lat : Nat) (f : Dword → Dword → Dword) : Exec Unit :=
  orLate (do
    let x ← rdS a
    let y ← imm 6 i
    wrS d ⟨f x.v y, x.p⟩ lat) (lateS d lat)

/-- One register and an unsigned 6-bit amount (form T2U). -/
def c2u (d a k lat : Nat) (f : Dword → Nat → Dword) : Exec Unit :=
  orLate (do
    let x ← rdS a
    wrS d ⟨f x.v k, x.p⟩ lat) (lateS d lat)

/-- One register (form R2). -/
def c1 (d a lat : Nat) (f : Dword → Dword) : Exec Unit :=
  orLate (do
    let x ← rdS a
    wrS d ⟨f x.v, x.p⟩ lat) (lateS d lat)

/-- Write a predicate pair: the condition and its negation (R344). -/
def wrPair (pair : Nat) (c p : Bool) : Exec Unit := do
  wrP (2 * pair) ⟨c, p⟩ 1
  wrP (2 * pair + 1) ⟨!c, p⟩ 1
def latePair (pair : Nat) : Exec Unit := do
  lateP (2 * pair) 1
  lateP (2 * pair + 1) 1

/-- CMP.cc (form CP) and CMPI.cc (form CPI), R344. -/
def cmpRR (c : Cond) (pair a b : Nat) : Exec Unit :=
  orLate (do
    let x ← rdS a
    let y ← rdS b
    wrPair pair (c.holds x.v y.v) (x.p || y.p)) (latePair pair)
def cmpRI (c : Cond) (pair a i : Nat) : Exec Unit :=
  orLate (do
    let x ← rdS a
    let y ← imm 6 i
    wrPair pair (c.holds x.v y) x.p) (latePair pair)

/-! ### Transfers -/

/-- The address of the first word of the transfer's bundle, and its sequential successor (R348). -/
def Mach.pcb (m : Mach) : Nat := m.core.rf.pc.toNat
def pcb : Exec Nat := do let m ← getOld; pure m.pcb
/-- The successor's address: `npc` as the bundle began. -/
def successor : Exec Dword := do let m ← getOld; pure m.core.rf.npc

/-- Target of a relative transfer: PCb + 4 × offset (R321, R349). -/
def relTarget (pc : Nat) (off : Int) : Dword := dwInt ((pc : Int) + 4 * off)

/-- Take a transfer to a target that lies in the store (R321, R348); an S word's continuation prevails. -/
def transfer (target : Dword) : Exec Unit := do
  let m ← getOld
  need (inCode m.isTile target.toNat) 0x0B target
  modB fun b => { b with taken := true }
  modM fun m => m.modRf fun r => { r with npc := target }

/-- A continuation set by an S word (R348). -/
def sTransfer (target : Dword) : Exec Unit := do
  modB fun b => { b with sNext := true }
  modM fun m => m.modRf fun r => { r with npc := target }

/-- Targets taken from a register: bits [63:16] ([63:18] on a command core) and [1:0] zero (R350, R352). -/
def regTarget (v : Dword) : Exec Unit := do
  let m ← getOld
  need (inCode m.isTile v.toNat && v.toNat % 4 == 0) 0x0B v

end Sys2Proof.Machine
end

