-- ==== Sys2Proof/Machine/Checks.lean ====
section
/-!
DEFINITION. The checks of step 3 of 13 R320: what makes a word illegal, above its level, or without its feature,
before any operand is read. They rest on the word, the place it runs, and for the element types (16 R379) on the
tags as they stand.
-/
namespace Sys2Proof.Machine

/-- Opcodes marked tile only in Tables 13-9 to 13-15 (R328), by engine and OP. -/
def tileOnly (eng op : Nat) : Bool :=
  match eng with
  | 0 => 0x32 ≤ op && op ≤ 0x34
  | 1 => op == 0x0C || op == 0x0D || (0x10 ≤ op && op ≤ 0x14)
  | 4 => op != 0x1A
  | 6 => op == 1 || op == 2 || (9 ≤ op && op ≤ 0x0B)
  | 7 => false
  | _ => true

/-- Opcodes marked CC only. -/
def ccOnly (eng op : Nat) : Bool := (eng == 4 && op == 0x1A) || (eng == 6 && 0x0F ≤ op)

/-- The lowest level a privileged word runs at (R108). -/
def wordLevel (eng op : Nat) : Nat :=
  if eng = 4 ∧ op = 0x1A then 1
  else if eng = 6 ∧ (op = 0x15 ∨ op = 0x1A) then 2
  else if eng = 6 ∧ 0x10 ≤ op then 1
  else 0

/-- FMASK of a site (Table 13-8): all features, without FP4 while its die is in reduced service (R40). -/
def fmaskOf (m : Mach) (a : Nat) : Nat := if (m.die (dieOf a)).reduced then 0x3E else 0x3F

/-- The FMASK bit that gates a word (Tables 13-8, 13-12 to 13-14); MMA and MMAZ by the ATYPE they latch (R421). -/
def featureOf (i : Instr) (m : Mach) : Option Nat :=
  match i with
  | .mxq _ _ _ => some 0
  | .mxd _ _ _ => some 0
  | .mma _ _ => mmaFeature (bits (m.csr 0x01A) 3 0)
  | .mmaz _ _ => mmaFeature (bits (m.csr 0x01A) 3 0)
  | .seamo _ _ => some 3
  | .seamg _ _ _ => some 3
  | .seamp _ _ _ => some 3
  | .seamcClose _ _ => some 3
  | .seamcSettle _ _ => some 3
  | .seams _ _ _ => some 3
  | .coll _ _ => some 4
  | .collw _ _ _ => some 4
  | _ => none
where
  /-- Feature column of Table 17-4. -/
  mmaFeature (t : Nat) : Option Nat :=
    if t = 10 then some 0 else if t = 9 then some 1 else if t = 4 ∨ t = 5 then some 2 else none

/-! ### Control registers (Table 13-6, R325, R106) -/

/-- Where a number is implemented: the lowest level to read it and the lowest to write it (3: never). -/
def tileCsr (n : Nat) : Option (Nat × Nat) :=
  if n ≤ 0x006 then some (0, 0)
  else if 0x010 ≤ n ∧ n ≤ 0x016 then some (0, 0)
  else if n = 0x017 then some (0, 3)
  else if 0x018 ≤ n ∧ n ≤ 0x01A then some (0, 0)
  else if 0x020 ≤ n ∧ n ≤ 0x024 then some (0, 0)
  else if 0x030 ≤ n ∧ n ≤ 0x037 then some (0, 3)
  else if 0x040 ≤ n ∧ n ≤ 0x045 then some (0, 3)
  else if 0x050 ≤ n ∧ n ≤ 0x05F then some (0, 3)
  else none
def ccCsrLevels (n : Nat) : Option (Nat × Nat) :=
  if 0x020 ≤ n ∧ n ≤ 0x024 then some (1, 1)
  else if n = 0x800 ∨ n = 0x801 then some (0, 3)
  else if n = 0x802 then some (1, 3)
  else if 0x803 ≤ n ∧ n ≤ 0x807 then some (2, 2)
  else if 0x810 ≤ n ∧ n ≤ 0x814 then some (2, 2)
  else if n = 0x815 then some (2, 3)
  else if n = 0x816 then some (2, 2)
  else if 0x820 ≤ n ∧ n ≤ 0x83F then some (1, 1)
  else if 0x840 ≤ n ∧ n ≤ 0x851 then some (1, 1)
  else if n = 0x860 then some (1, 3)
  else if n = 0x861 then some (2, 2)
  else if n = 0x862 ∨ n = 0x863 then some (1, 3)
  else if n = 0x870 then some (1, 3)
  else if n = 0x871 then some (1, 1)
  else if 0x872 ≤ n ∧ n ≤ 0x875 then some (1, 3)
  else if n = 0x876 then some (1, 1)
  else if n = 0x878 ∨ n = 0x879 then some (2, 2)
  else if 0x880 ≤ n ∧ n ≤ 0x885 then some (1, 2)
  else if n = 0x890 then some (1, 2)
  else if n = 0x891 then some (1, 3)
  else if n = 0x892 then some (1, 1)
  else if n = 0x893 then some (1, 3)
  else if n = 0x894 ∨ n = 0x895 then some (1, 1)
  else if n = 0x896 then some (2, 2)
  else none

/-- The trap of a CSR word at step 3: 0x01 for a number not implemented here, 0x0E above the level or for a
read-only register (R320, R325, R356). -/
def csrTrap (m : Mach) (n : Nat) (write : Bool) : Option Nat :=
  if m.isTile then
    match tileCsr n with
    | none => some 0x01
    | some (_, w) => if write ∧ w = 3 then some 0x0E else none
  else
    match ccCsrLevels n with
    | none => some 0x01
    | some (r, w) =>
      if write then (if w = 3 ∨ m.level < w then some 0x0E else none)
      else if m.level < r then some 0x0E else none

/-! ### Element types (R379, Table 16-3) -/

/-- Whether the tags allow a V or F word. -/
def typesOk (i : Instr) (m : Mach) : Bool :=
  let ty := fun (d : BitVec 6) => m.nameType d.toNat
  let ifl := fun t => isInt t || isFl t
  match i with
  | .vadd d _ _ => ifl (ty d)
  | .vsub d _ _ => ifl (ty d)
  | .vmul d _ _ => ifl (ty d)
  | .vfma d _ _ => ifl (ty d)
  | .vfms d _ _ => ifl (ty d)
  | .vmin d _ _ => ifl (ty d)
  | .vmax d _ _ => ifl (ty d)
  | .vabs d _ => ifl (ty d)
  | .vneg d _ => ifl (ty d)
  | .vcmp d _ _ => ifl (ty d)
  | .vred _ a _ => ifl (ty a)
  | .vshl d _ _ => isInt (ty d)
  | .vshr d _ _ => isInt (ty d)
  | .vsra d _ _ => isInt (ty d)
  | .vrshr d _ n _ =>
    if n = 1 then (ty d == 0 || ty d == 1 || ty d == 11 || ty d == 12) else isInt (ty d)
  | .viota d _ => isInt (ty d)
  | .vmac2 d _ _ => ty d == 2
  | .vdot4 d _ _ => ty d == 2
  | .vcvt d _ t h =>
    let ws := typeWidth t.toNat
    let wd := typeWidth (ty d)
    let r := if ws < wd then wd / ws else ws / wd
    ifl (ty d) && r ≤ 4 && (if r = 1 then h.toNat == 0 else decide (h.toNat < r))
  | .vcvts d _ h => (ty d == 4 || ty d == 5 || ty d == 6 || ty d == 7) && decide (h.toNat < 32 / typeWidth (ty d))
  | .fexp2 d _ => ty d == 6 || ty d == 7 || ty d == 8
  | .flog2 d _ => ty d == 6 || ty d == 7 || ty d == 8
  | .ftanh d _ => ty d == 6 || ty d == 7 || ty d == 8
  | .fsigm d _ => ty d == 6 || ty d == 7 || ty d == 8
  | .ferf d _ => ty d == 6 || ty d == 7 || ty d == 8
  | .frcp d _ => 6 ≤ ty d && ty d ≤ 9
  | .frsq d _ => 6 ≤ ty d && ty d ≤ 9
  | .fsqrt d _ => 6 ≤ ty d && ty d ≤ 9
  | .fscale d _ _ => isFl (ty d)
  | .fclass d _ => isFl (ty d)
  | .fminmaxn d _ _ => isFl (ty d)
  | .rng d => typeWidth (ty d) ≤ 32
  | .vpart d a _ => isInt (ty d) && decide (lanesOf (ty a) ≤ lanesOf (ty d))
  | .vtopk d a _ s =>
    ifl (ty a) && isInt (ty d) && typeWidth (ty d) == typeWidth (ty a) && decide (2 ^ s.toNat ≤ lanesOf (ty a))
  | .mgath _ _ b => typeWidth (ty b) ≤ 32
  | _ => true

/-- The trap step 3 of R320 raises at a word, if any: cause, and the feature for cause 0x03. -/
def trap3 (i : Instr) (m : Mach) : Option (Nat × Nat) :=
  if !i.wellFormed then some (0x01, 0)
  else
    match i.code with
    | none => none
    | some (e, o, _) =>
      let eng := e.toNat
      let op := o.toNat
      if m.isTile then
        if ccOnly eng op then some (0x01, 0)
        else if !typesOk i m then some (0x01, 0)
        else
          match featureOf i m with
          | some f => if Nat.testBit (fmaskOf m m.me) f then none else some (0x03, f)
          | none => csr3 i m
      else if tileOnly eng op then some (0x01, 0)
      else if m.level < wordLevel eng op then some (0x0E, 0)
      else
        match i with
        | .chk k _ _ => if k = 1 then some (0x01, 0) else none
        | .chkt k _ => if k = 1 then some (0x01, 0) else none
        | .pclr k _ => if k = 1 then some (0x01, 0) else none
        | .waite _ _ k => if k.getLsbD 3 ∧ m.level < 2 then some (0x0E, 0) else none
        | _ => csr3 i m
where
  /-- The check of a CSR word. -/
  csr3 (i : Instr) (m : Mach) : Option (Nat × Nat) :=
    match i with
    | .csrr _ c => (csrTrap m c.toNat false).map fun x => (x, 0)
    | .csrw _ c => (csrTrap m c.toNat true).map fun x => (x, 0)
    | .csrs _ c => (csrTrap m c.toNat true).map fun x => (x, 0)
    | .csrc _ c => (csrTrap m c.toNat true).map fun x => (x, 0)
    | _ => none

/-- A word begins with the checks of step 3. -/
def check3 (i : Instr) : Exec Unit := do
  let m ← getOld
  match trap3 i m with
  | some (c, f) => if c = 3 then raise 3 (dw f) else raiseWord c
  | none => pure ()

/-- The meaning of a word: the checks of step 3, then its effect. -/
def word (i : Instr) (e : Exec Unit) (s : State) : Host.Outcome State Fault Refusal :=
  runExec (do check3 i; e) s

end Sys2Proof.Machine
end

