-- ==== Sys2Proof/Machine/Bundle.lean ====
section
/-!
DEFINITION. A bundle as a whole (13_instruction_encoding R316-R323; 08_the_tile R202, R212, R215, R216; 14 R348,
R354): fetching its words, the checks made before any word executes, the order its words execute in, and what
follows its last word.
-/
namespace Sys2Proof.Machine

/-- A step that no word asks for. -/
def isEvent (i : Instr) : Bool :=
  match i with
  | .bh _ _ _ _ => false
  | .kx _ => false
  | i => i.code.isNone

/-- The agents of the package: 1,152 tiles and 32 command cores (R1, R105). -/
def agentOk (a : Nat) : Bool := decide (a < 1184)

/-! ### Fetch -/

/-- One word of the code store of the issuing agent: I of a tile, the memory of a command core. -/
def Mach.codeWord (m : Mach) (a : Nat) : Word32 :=
  BitVec.ofNat 32 ((if m.isTile then m.core.mem.im else m.core.mem.sm).readNat a 4)

/-- The words from address `a` to the first with L set, at most `n` (R317); they end at the store's end. -/
def fetchWords (m : Mach) (a n : Nat) : List Word32 :=
  match n with
  | 0 => []
  | k + 1 =>
    if inCode m.isTile a then
      let w := m.codeWord a
      if wordLast w then [w] else w :: fetchWords m (a + 4) k
    else []

/-- The window of protection that decides an access at level 0 (R107): the lowest enabled one with the tag that
holds the first byte; it must hold them all and grant bit `perm` (0 read, 1 write, 2 fetch). -/
def pmpAllows (m : Mach) (tag off n perm : Nat) : Bool :=
  let win := fun (i : Nat) =>
    let a := m.csr (0x820 + i)
    let l := m.csr (0x830 + i)
    (bit a 4, bits a 11 8, bits a 63 12 * 4096, bits l 63 12 * 4096 + 4095, bit a perm)
  match (List.range 16).find? fun i =>
    let w := win i
    w.1 && w.2.1 == tag && decide (w.2.2.1 ≤ off) && decide (off ≤ w.2.2.2.1) with
  | some i => let w := win i; decide (off + n ≤ w.2.2.2.1 + 1) && w.2.2.2.2
  | none => false

/-- A trap found before any word executes: cause, position, TVAL. -/
structure Found0 where
  code : Nat
  widx : Nat
  tval : Dword
  deriving DecidableEq, Repr

/-- Step 1 of R320 for the words fetched from `a`: the store's end, an error in a word, and on a command core the
reach of its level (R105, R107). -/
def fetchTrap (m : Mach) (a : Nat) (ws : List Word32) : Option Found0 :=
  let bad := (List.range ws.length).findSome? fun i =>
    let x := a + 4 * i
    if m.isTile then
      if errIn m.core 2 x 4 ≥ 2 then some ⟨0x04, i, dw x⟩ else none
    else if m.level = 1 ∧ 0x30000 ≤ x then some ⟨0x0E, i, dw x⟩
    else if m.level = 0 ∧ !pmpAllows m 8 x 4 2 then some ⟨0x0E, i, dw x⟩
    else none
  match bad with
  | some f => some f
  | none =>
    -- no L yet, fewer than eight words: the next fetch lies beyond the store
    if ws.length < 8 ∧ !(ws.any wordLast) then some ⟨0x0B, ws.length, dw (a + 4 * ws.length)⟩ else none

/-- The fetch of the words `ws` at the program counter reads their code store: errors are logged, and corrected where that can be
(R234, R235). -/
def fetched (m : Mach) (ws : List Word32) : Mach :=
  if ws = [] then m else noteRead m m.me (if m.isTile then 2 else 9) m.pcb (4 * ws.length)
/-- An uncorrectable error in the words a command core fetches restarts it (R110, Table 9-9). -/
def fetchFails (m : Mach) (ws : List Word32) : Bool :=
  !m.isTile && ws != [] && decide (2 ≤ errIn m.core 9 m.pcb (4 * ws.length))

/-! ### Structure (R317) -/

/-- Whether a word's form allows a KX after it, by engine and OP alone (R316, Tables 13-2, 13-9, 13-10). -/
def extendable (w : Word32) : Bool :=
  let o := wordOp w
  match wordEng w with
  | 0 => o == 0x02 || o == 0x0C || o == 0x0E || o == 0x10 || o == 0x1E || (0x26 ≤ o && o ≤ 0x2B) || o == 0x2E || o == 0x2F
  | 1 => 0x01 ≤ o && o ≤ 0x0D
  | _ => false

def kindOf (w : Word32) : Nat := (w.extractLsb' 26 2).toNat
def isBH (w : Word32) : Bool := wordEng w == 7 && kindOf w == 0
def isKX (w : Word32) : Bool := wordEng w == 7 && kindOf w == 1

/-- A register as R317 counts it: scalars by number, predicates from 64, rows of C from 128, control registers
from 2,000. -/
def keyS (r : Nat) : List Nat := if 1 ≤ r ∧ r ≤ 59 then [r] else []
def keyP (p : Nat) : List Nat := if p = 0 then [] else [64 + p]
def keyV (m : Mach) (i : Nat) : List Nat := if i < 60 then [128 + m.rowOf i] else []
def keyCsr (n : Nat) : List Nat := [2000 + n]
/-- The register that holds the tag of accumulator tile `k` (R397, Table 8-6). -/
def keyTag (k : Nat) : List Nat := keyCsr (if k < 16 then 0x014 else 0x015)

/-- The registers a word writes, whatever its guard (R317), by engine, OP and operand bits. Written implicitly are s59 by
CALL, MCFG and the tile's tag register by MMA and MMAZ, the tag register by MZERO and MFILL, and both registers of a
protection window by PMPW (log 90). -/
def writeKeys (m : Mach) (eng op x : Nat) : List Nat :=
  let d := nbits x 17 12
  match eng with
  | 0 =>
    if op ≤ 0x1F then keyS d
    else if op ≤ 0x2B then keyP (2 * nbits x 17 15) ++ keyP (2 * nbits x 17 15 + 1)
    else if op = 0x2C then keyP (nbits x 15 12)
    else if op = 0x2D then (if nbits x 5 4 = 2 then keyS d else keyP (d % 16))
    else if op = 0x2F then keyS 59
    else if op = 0x31 ∨ op = 0x35 then keyS d
    else if 0x36 ≤ op then keyCsr (nbits x 11 0)
    else []
  | 1 =>
    if op ≤ 0x07 ∨ op = 0x0E ∨ op = 0x0F ∨ op = 0x14 ∨ op = 0x17 then keyS d
    else if op = 0x0C then keyV m d
    else []
  | 2 =>
    if op = 0x17 ∨ op = 0x1D then keyS d
    else if op = 0x22 then keyTag (nbits x 16 12)
    else if op = 0x23 then keyCsr (0x010 + nbits x 17 16)
    else keyV m d
  | 3 =>
    if op = 0x01 ∨ op = 0x06 then keyCsr 0x01A
    else if op = 0x04 ∨ op = 0x05 then keyCsr 0x01A ++ keyTag (nbits x 16 12)
    else if op = 0x08 ∨ op = 0x0A then keyTag (nbits x 16 12)
    else if op = 0x0C then keyS d
    else []
  | 4 =>
    if op = 0x12 then (if nbit x 8 then [] else keyS d ++ keyS (d + 1))
    else if op = 0x10 then (if nbits x 5 0 = 0 then keyS d else [])
    else if op = 0x07 ∨ op = 0x0C ∨ op = 0x0D ∨ op = 0x11 ∨ op = 0x13 ∨ op = 0x15 ∨
        op = 0x16 ∨ op = 0x19 ∨ op = 0x1A then keyS d
    else []
  | 5 => keyV m d ++ (if op = 0x10 then keyV m (d + 1) else []) ++ (if op = 0x0A then keyS (nbits x 5 0) else [])
  | 6 =>
    if op = 0x06 then
      (match nbits x 17 16 with
        | 0 => keyS (nbits x 15 10)
        | 1 => keyV m (nbits x 15 10)
        | _ => keyP (nbits x 13 10))
    else if op = 0x13 then keyCsr (0x820 + nbits x 17 14) ++ keyCsr (0x830 + nbits x 17 14)
    else if op = 0x02 ∨ op = 0x0C ∨ (0x10 ≤ op ∧ op ≤ 0x12) ∨ (0x16 ≤ op ∧ op ≤ 0x19) then keyS d
    else []
  | _ => []

/-- The registers written by the word with these bits; a word that is no instruction writes none. -/
def wordKeys (m : Mach) (w : Word32) : List Nat :=
  match decode w with
  | .ok x => if x.instr.wellFormed then writeKeys m (wordEng w) (wordOp w) (wordOperands w).toNat else []
  | .error _ => []

/-- No key twice. -/
def noRepeat (l : List Nat) : Bool :=
  match l with
  | [] => true
  | x :: t => !t.contains x && noRepeat t

/-- Each KX directly follows a word that allows extension. -/
def kxPlaced (prev : Option Word32) (ws : List Word32) : Bool :=
  match ws with
  | [] => true
  | w :: t =>
    (if isKX w then (match prev with
      | some p => extendable p
      | none => false) else true) && kxPlaced (some w) t

/-- R317: is the bundle valid? -/
def bundleOk (m : Mach) (ws : List Word32) : Bool :=
  ws.any wordLast && noRepeat ((ws.filter fun w => wordEng w != 7).map wordEng) &&
    !((ws.drop 1).any isBH) && (match ws with
      | [w] => !isBH w
      | _ => true) &&
    kxPlaced none ws && noRepeat (ws.flatMap (wordKeys m))

/-! ### The checks of steps 1 to 5 (R320) -/

/-- The guard of a word: none for a K word, which always acts. -/
def guardOf (w : Word32) : Nat := if wordEng w = 7 then 0 else (wordGuard w).toNat

/-- Step 3 at position `i`. -/
def stepTrap3 (m : Mach) (i : Nat) (w : Word32) : Option Found0 :=
  match decode w with
  | .error _ => some ⟨0x01, i, w.setWidth 64⟩
  | .ok x =>
    match trap3 x.instr m with
    | some (c, f) => some ⟨c, i, if c = 3 then dw f else w.setWidth 64⟩
    | none => none

/-- The stamp of a bundle: its header has one and the tile is in stamped mode (R216). -/
def stampOf (m : Mach) (ws : List Word32) : Option Nat :=
  match ws with
  | w :: _ =>
    if isBH w ∧ w.getLsbD 25 ∧ m.isTile ∧ bit (m.csr 0x016) 0 then some (w.extractLsb' 0 16).toNat else none
  | [] => none

/-- Step 4: a poisoned guard; in a stamped bundle one that is not ready counts as poisoned (R216, R319). -/
def guardTrap (m : Mach) (stamped : Bool) (i : Nat) (w : Word32) : Option Found0 :=
  let g := guardOf w
  if (m.core.p g).p ∨ (stamped ∧ m.core.ctl.cyc < m.core.ready (rdyP g)) then some ⟨0x04, i, w.setWidth 64⟩ else none

/-- The first trap of steps 1 to 5. -/
def earlyTrap (m : Mach) (a : Nat) (ws : List Word32) : Option Found0 :=
  let ix := ws.zipIdx
  match fetchTrap m a ws with
  | some f => some f
  | none =>
    if !bundleOk m ws then some ⟨0x02, 0, 0⟩
    else
      match ix.findSome? fun p => stepTrap3 m p.2 p.1 with
      | some f => some f
      | none =>
        match ix.findSome? fun p => guardTrap m (stampOf m ws).isSome p.2 p.1 with
        | some f => some f
        | none =>
          match stampOf m ws with
          | some t => if t < sfcOf m then some ⟨0x08, 0, dw (sfcOf m)⟩ else none
          | none => none

/-- When the guards of a bundle without a stamp can be read (R216). -/
def guardsReady (m : Mach) (ws : List Word32) : Nat :=
  ws.foldl (fun k w => max k (if wordEng w = 7 then 0 else m.core.ready (rdyP (guardOf w)))) 0

/-! ### The order of execution (R202, R318, R323) -/

/-- The words that act, in order: the header, then engines 0 to 6, each word after its KX. A word whose guard is
false does nothing, its KX neither. -/
def schedule (m : Mach) (ws : List Word32) : List (Nat × Word32) :=
  let ix := ws.zipIdx.map fun p => (p.2, p.1)
  let bh := ix.filter fun p => isBH p.2
  let kxOf := fun (i : Nat) => ix.filter fun p => p.1 == i + 1 && isKX p.2
  bh ++ (List.range 7).flatMap fun e =>
    (ix.filter fun p => wordEng p.2 == e && (m.core.p (guardOf p.2)).v).flatMap fun p => kxOf p.1 ++ [p]

/-- The context in which the words of a bundle execute: where each stands, and the machine before them. -/
def openBundle (s : State) (ws : List Word32) : State :=
  let m := s.m.modRf fun r => { r with npc := dw (s.m.pcb + 4 * ws.length) }
  { s with m := m, bundle := some { start := m, count := ws.length } }

/-- Set the word about to execute. -/
def atWord (s : State) (p : Nat × Word32) : State :=
  { s with bundle := s.bundle.map fun b => { b with widx := p.1, word := p.2 } }
/-- A word has executed: its extension is used up. -/
def pastWord (s : State) (w : Word32) : State :=
  if isKX w then s else { s with bundle := s.bundle.map fun b => { b with ext := none } }

/-! ### After the last word -/

/-- The stage predicates after an iteration boundary (R212): shifted up by one with their poison. -/
def shiftStages (c : Core) (on : Bool) : Core :=
  let c := [15, 14, 13, 12, 11, 10, 9].foldl (fun c k => c.setP k (c.p (k - 1))) c
  c.setP 8 ⟨on, false⟩

/-- An iteration boundary (R212, R354): stages shift, the rotation base and SFC move, and issue continues at the
kernel start, or at the kernel end when no stage is active; with a yield pending the task stops there (R182). -/
def boundary (m : Mach) (l : LoopS) : Mach :=
  let on := decide (l.j < l.n) && !m.core.ctl.yieldReq
  let m := m.modCore fun c => shiftStages c on
  let j := if on then l.j + 1 else l.j
  let rot := rotCount (bits (m.csr 0x012) 1 0)
  let m := if rot = 0 then m else m.setCsr 0x013 (dw ((bits (m.csr 0x013) 4 0 + rot - 1) % rot))
  let m := if bit (m.csr 0x016) 0 then m.modCtl fun c => { c with sfc0 := c.cyc } else m
  let alive := (List.range l.k).any fun i => (m.core.p (8 + i)).v
  let rem := l.n - j
  let goto := fun (m : Mach) (a : Nat) => m.modRf fun r => { r with npc := dw a }
  if alive then goto (m.modCtl fun c => { c with loop := some { l with j := j } }) l.start
  else if m.core.ctl.yieldReq then
    if rem = 0 then goto (m.modCtl fun c => { c with loop := none, wait := .yielded }) l.stop
    else goto (m.modCtl fun c => { c with loop := some { l with n := rem, j := 0 }, wait := .yielded }) l.start
  else goto (m.modCtl fun c => { c with loop := none }) l.stop

/-- The loop engine after a bundle at `pc` of which the last word ends at `fin` (R354). `old` is the loop as the
bundle began. -/
def loopAfter (m : Mach) (old : Option LoopS) (pc fin : Nat) (moved : Bool) : Mach :=
  let npc := m.core.rf.npc.toNat
  let endLoop := m.modCtl fun c => { c with loop := none }
  match old, m.core.ctl.loop with
  | _, none => m
  | none, some l => if moved ∧ !(l.start ≤ npc ∧ npc < l.stop) then endLoop else m
  | some o, some l =>
    if o.susp ∨ l.susp then m
    else if moved then if l.start ≤ npc ∧ npc < l.stop then m else endLoop
    else if fin = l.stop ∧ l.start ≤ pc then boundary m l
    else if pc < l.stop ∧ l.stop < fin then endLoop
    else m

/-- Advance the counter of CG4 by the lanes used, unless a word wrote it (R309, R357). -/
def advanceCtr (m : Mach) (b : Bundle) : Mach :=
  if b.adv = 0 ∨ b.ctrW then m
  else m.setCsr 0x006 (dw (((b.start.csr 0x006).toNat + b.adv) % 2 ^ 32))

/-- What follows the last word of a bundle (R321, R337, R348): a cycle passes, three for a taken transfer; the
loop engine acts; issue continues at `npc`. A translation fault then freezes the gang (R178). -/
def closeBundle (s : State) (b : Bundle) : State :=
  let pc := b.start.pcb
  let m := advanceCtr s.m b
  let m := m.modCtl fun c => { c with cyc := c.cyc + (if b.taken then 3 else 1), blockAt := none, blockOn := none }
  let m := if m.isTile then loopAfter m b.start.core.ctl.loop pc (pc + 4 * b.count) (b.taken || b.sNext) else m
  let m := m.modRf fun r => { r with pc := r.npc }
  let m := match b.fault with
    | some (va, acc, why) => tileFault m m.me 0 acc va why
    | none => m
  { s with m := m, bundle := none }

/-- A bundle whose ownership word has to ask its home has no effect yet; it waits (R368). -/
def ownPend (s : State) (r : OwnReq) : State :=
  { s with m := blockUntil (s.m.modCtl fun c => { c with own := some r }) 0, bundle := none }

/-- A bundle that meets a trap before any word executes (R320), or the first trap its engines recorded (R215). -/
def trapState (s : State) (f : Found0) : State := { s with bundle := none, m := takeTrap s.m f.code f.widx f.tval }
def pendingTrap (m : Mach) : Option Found0 :=
  match m.core.ctl.ptraps with
  | p :: _ => some ⟨p.code, 0, p.tval⟩
  | [] => none
/-- The trap is taken off the list of those recorded. -/
def dropPending (s : State) : State :=
  { s with m := s.m.modCtl fun c => { c with ptraps := c.ptraps.drop 1 } }

/-! ### Placing an instruction (log 11) -/

/-- The words stored for one instruction: itself, with a word before it that it extends (KX) and a closing NOP, or
ADD of s0 behind an S word, where L is clear. -/
def placeWords (w : Word32) : List Word32 :=
  let first : List Word32 := if isKX w then [0x00080000] else []
  let last : List Word32 := if wordLast w then [] else if wordEng w = 6 then [0x10040000] else [0xD0000000]
  first ++ [w] ++ last

def storeWords (mem : Memory) (a : Nat) (ws : List Word32) : Memory :=
  match ws with
  | [] => mem
  | w :: t => storeWords (mem.writeNat a 4 w.toNat) (a + 4) t

/-- A task of a launch of one gang of one tile, resident on site 0 of the calibrated die 0: what a load and an
admission leave behind. -/
def seatTask (m : Mach) : Mach :=
  let t : TaskId := ⟨launchKey 0 1, 0⟩
  let m := m.focus 0
  let m := m.setDie 0 { m.die 0 with rdy := true, cal := true, lvl := 0 }
  let m := m.setPanel 0 { m.panel 0 with part := some 0 }
  let m := m.setPart 0 { m.partn 0 with used := true, mask := 1, lead := 0, inv := 1 }
  let m := m.setVf 1 { m.vf 1 with vqa := 2 ^ 63, vqb := dw (2 ^ 53) }
  let m := m.setLaunch t.launch { part := 0, vf := 1, inv := 1, st := 2, gangs := [(0, { st := 1 })] }
  let m := m.setSite 0 { rst := 2, tst := 1, holder := t.launch * 2 ^ 16, occ := some t, last := 1 }
  let m := m.onSys fun s => { s with keys := SMap.set (fun _ => 0) s.keys 0 1 }
  { m with core := { ctl := { task := some t, vf := 1, part := 0 } } }

/-- Whether a word runs on a tile only. -/
def needsTile (w : Word32) : Bool := wordEng w != 7 && tileOnly (wordEng w) (wordOp w)
def needsCC (w : Word32) : Bool := wordEng w != 7 && ccOnly (wordEng w) (wordOp w)

/-- Store an instruction where the next step fetches: on a tile for a tile-only word, on a command core for one of
its own, else on the agent that issues. -/
def placeWord (s : State) (w : Word32) : State :=
  let m := s.m
  let m :=
    if needsTile w then (if m.isTile ∧ (m.site m.me).tst = 1 then m else seatTask m)
    else if needsCC w then (if m.isTile then m.focus 1152 else m)
    else m
  let m := m.modCtl fun c => { c with wait := .none, ptraps := [] }
  let m := m.onSys fun y => { y with boot := { y.boot with phase := max 2 y.boot.phase, trip := false } }
  let m := m.setDie (dieOfAgent m.me) { m.die (dieOfAgent m.me) with pend := none }
  let m := if inCode m.isTile (m.pcb + 15) then m else m.modRf fun r => { r with pc := 0 }
  let ws := placeWords w
  let m := m.modMem fun x =>
    if m.isTile then { x with im := storeWords x.im m.pcb ws } else { x with sm := storeWords x.sm m.pcb ws }
  { s with m := m, bundle := none, inputs := [], turns := [] }

end Sys2Proof.Machine
end

