-- ==== Sys2Proof/Machine/Aes.lean ====
section
/-!
DEFINITION. AES-256 in the XTS mode of IEEE 1619, the standard that 04 R98 names, over data units of 64 bytes (log 63). HBM is
kept as the plaintext its regions' key gives, so the cipher shows only where the key of a slot changes under its regions (18 R467).
-/
namespace Sys2Proof.Machine

/-! ### The field of AES and its substitution -/

def aesXtime (b : Nat) : Nat := if b < 128 then 2 * b else 2 * b % 256 ^^^ 0x1B
def aesMul (n a b : Nat) : Nat :=
  match n with
  | 0 => 0
  | k + 1 => (if b % 2 = 1 then a else 0) ^^^ aesMul k (aesXtime a) (b / 2)
/-- The inverse, 0 for 0: the 254th power. -/
def aesInv (b : Nat) : Nat := (List.range 253).foldl (fun x _ => aesMul 8 x b) b
def aesTurn (b n : Nat) : Nat := (b * 2 ^ n % 256) ||| b / 2 ^ (8 - n)
def aesSub (b : Nat) : Nat :=
  let x := aesInv b
  x ^^^ aesTurn x 1 ^^^ aesTurn x 2 ^^^ aesTurn x 3 ^^^ aesTurn x 4 ^^^ 0x63
def aesUnsub (b : Nat) : Nat := aesInv (aesTurn b 1 ^^^ aesTurn b 3 ^^^ aesTurn b 6 ^^^ 0x05)

/-! ### The block cipher: 16 bytes, byte `r + 4c` in row r and column c -/

def aesXor (a b : List Nat) : List Nat := a.zipWith (fun x y => x ^^^ y) b
/-- Row r turned by r columns, to the left or back. -/
def aesRows (back : Bool) (s : List Nat) : List Nat :=
  (List.range 16).map fun i => s.getD (i % 4 + 4 * ((i / 4 + (if back then 4 - i % 4 else i % 4)) % 4)) 0
/-- Each column times the matrix whose first row is `k`. -/
def aesColumns (k : List Nat) (s : List Nat) : List Nat :=
  (List.range 16).map fun i => (List.range 4).foldl (fun x j => x ^^^ aesMul 8 (k.getD ((j + 4 - i % 4) % 4) 0) (s.getD (i / 4 * 4 + j) 0)) 0
/-- The words of the expanded key, four bytes each; `n` more are made. -/
def aesExpand (n rc : Nat) (ws : List (List Nat)) : List (List Nat) :=
  match n with
  | 0 => ws
  | k + 1 =>
    let i := ws.length
    let w := ws.getD (i - 1) []
    let t := if i % 8 = 0 then aesXor ((w.drop 1 ++ w.take 1).map aesSub) [rc, 0, 0, 0] else if i % 8 = 4 then w.map aesSub else w
    aesExpand k (if i % 8 = 0 then aesXtime rc else rc) (ws ++ [aesXor (ws.getD (i - 8) []) t])
/-- The fifteen round keys of a key of 32 bytes. -/
def aesKeys (key : List Nat) : List (List Nat) :=
  let ws := aesExpand 52 1 ((List.range 8).map fun i => (key.drop (4 * i)).take 4)
  (List.range 15).map fun r => ((ws.drop (4 * r)).take 4).flatten
def aesEncrypt (ks : List (List Nat)) (b : List Nat) : List Nat :=
  let s := (List.range 13).foldl (fun s r => aesXor (aesColumns [2, 3, 1, 1] (aesRows false (s.map aesSub))) (ks.getD (r + 1) []))
    (aesXor b (ks.getD 0 []))
  aesXor (aesRows false (s.map aesSub)) (ks.getD 14 [])
def aesDecrypt (ks : List (List Nat)) (b : List Nat) : List Nat :=
  let s := (List.range 13).foldl (fun s r =>
    aesColumns [14, 11, 13, 9] (aesXor ((aesRows true s).map aesUnsub) (ks.getD (13 - r) []))) (aesXor b (ks.getD 14 []))
  aesXor ((aesRows true s).map aesUnsub) (ks.getD 0 [])

/-! ### XTS (R98) -/

/-- `n` bytes of a number, the lowest first, and back. -/
def numBytes (n v : Nat) : List Nat := (leBytes v n).map BitVec.toNat
def bytesNum (bs : List Nat) : Nat := bs.foldr (fun b x => x * 256 + b) 0
/-- The four tweaks of a unit: the encrypted unit number, then doubled for each block. -/
def xtsTweaks (n t : Nat) : List Nat :=
  match n with
  | 0 => []
  | k + 1 => t :: xtsTweaks k (if t < 2 ^ 127 then 2 * t else 2 * t % 2 ^ 128 ^^^ 0x87)
/-- A unit of 64 bytes, whose number is its physical address divided by 64, under a slot's 512-bit key: encrypted, or decrypted. -/
def xtsUnit (decrypt : Bool) (key unit : Nat) (bs : List Nat) : List Nat :=
  let ks := aesKeys (numBytes 32 key)
  let t := bytesNum (aesEncrypt (aesKeys (numBytes 32 (key / 2 ^ 256))) (numBytes 16 unit))
  (xtsTweaks 4 t).zipIdx.flatMap fun e =>
    let b := aesXor ((bs.drop (16 * e.2)).take 16) (numBytes 16 e.1)
    aesXor (if decrypt then aesDecrypt ks b else aesEncrypt ks b) (numBytes 16 e.1)
/-- What a unit written under one key reads as under another. -/
def xtsRekey (old new unit : Nat) (bs : List Nat) : List Nat := xtsUnit true new unit (xtsUnit false old unit bs)

end Sys2Proof.Machine
end

