-- ==== Sys2Proof/Machine/Translate.lean ====
section
/-!
DEFINITION. Translation of device virtual addresses (10_translation R239-R246): the four-level walk, the walker's
cache, the TLBs of a tile, and the rights a region's state gives (10 R253, Table 10-6).
-/
namespace Sys2Proof.Machine

/-! ### The walk -/

/-- How a walk ends (R240): a permitting leaf, or failed with WHY (Table 10-4). -/
inductive Walk where
  | leaf (e : TlbE)
  | fail (why : Nat)
  deriving DecidableEq, Repr

/-- A table level (Table 10-1): lowest address bit, index width, whether a leaf may stand here. -/
structure Level where
  lo : Nat
  w : Nat
  leaf : Bool
  deriving DecidableEq, Repr

/-- The four levels. -/
def levels : List Level := [⟨39, 10, false⟩, ⟨30, 9, true⟩, ⟨21, 9, true⟩, ⟨16, 5, true⟩]

/-- Accesses (Table 7-5); an ownership word needs either right (R368). -/
def accRead : Nat := 0
def accWrite : Nat := 1
def accAtomic : Nat := 2
def accEither : Nat := 3

/-- Whether a leaf's bits permit an access (R240). -/
def permits (acc : Nat) (rd wr : Bool) : Bool :=
  if acc = accRead then rd else if acc = accEither then rd || wr else wr

/-- Whether a range of physical bytes lies on channels of the panels in `mask` (R86, R241). -/
def onPanels (mask pa size : Nat) : Bool :=
  decide (pa + size ≤ hbmEnd) &&
    (List.range (channelOf (pa + size - 1) - channelOf pa + 1)).all fun i => Nat.testBit mask ((channelOf pa + i) / 8)

/-- The walk from table `tbl` down. A leaf whose page leaves the partition's channels or meets its monitor area ends it with WHY 3
(R85, R241; log 64 for the latter's WHY). Also the non-leaf entries read, which the walker may keep. `rd` reads an entry. -/
def walkFrom (rd : Nat → Nat) (ma mask va acc tbl : Nat) (ls : List Level) : Walk × List (Nat × Nat) :=
  match ls with
  | [] => (.fail 2, [])
  | l :: rest =>
    let at_ := tbl + 8 * ((va >>> l.lo) % 2 ^ l.w)
    let e := rd at_
    let pa := nbits e 47 8 * 256
    if !nbit e 0 then (.fail 0, [])
    else if nbits e 63 48 ≠ 0 ∨ nbits e 7 4 ≠ 0 then (.fail 2, [])
    else if nbit e 1 then
      let size := 2 ^ l.lo
      if !l.leaf ∨ pa % size ≠ 0 then (.fail 2, [])
      else if !onPanels mask pa size ∨ (pa < ma + 2 ^ 28 ∧ ma < pa + size) then (.fail 3, [])
      else if !permits acc (nbit e 2) (nbit e 3) then (.fail 1, [])
      else (.leaf ⟨va / size * size, size, pa, nbit e 2, nbit e 3⟩, [])
    else
      match rest with
      | [] => (.fail 2, [])
      | n :: _ =>
        if nbit e 2 ∨ nbit e 3 ∨ pa % (8 * 2 ^ n.w) ≠ 0 ∨ pa < ma ∨ ma + 2 ^ 28 ≤ pa then (.fail 2, [])
        else
          let r := walkFrom rd ma mask va acc pa rest
          (r.1, (at_, e) :: r.2)

/-- Entries of a walk cache after a walk: the ones just read first, at most 512 (R244). -/
def walkKeep (old new : List (Nat × Nat)) : List (Nat × Nat) :=
  (new ++ old.filter fun e => !(new.any fun n => n.1 == e.1)).take 512

/-- A walk of partition `part` by the walker of `panel`. -/
def walk (m : Mach) (panel part va acc : Nat) : Walk × List (Nat × Nat) :=
  let p := m.partn part
  let ma := monArea p.lead
  let root := bits p.ptroot 47 13 * 8192
  if !bit p.ptroot 0 then (.fail 0, [])
  else if root < ma ∨ ma + 2 ^ 28 ≤ root then (.fail 2, [])
  else
    let wc := (m.panel panel).walkc
    walkFrom (fun a => match wc.find? fun e => e.1 == a with
      | some e => e.2
      | none => m.sys.hbm.readNat a 8) ma p.mask va acc root levels

/-! ### TLBs of a tile (R244) -/

/-- Entries a TLB holds: the scalar one 64, the others 32. -/
def tlbSize (eng : Nat) : Nat := if eng = 0 then 64 else 32
def TlbE.covers (e : TlbE) (va : Nat) : Bool := decide (e.va ≤ va) && decide (va < e.va + e.size)

/-- Translate an address for an engine of agent `a`: physical address, or WHY; a hit moves its entry to the front,
a permitting walk fills one (least recently used replaced). -/
def translate (m : Mach) (a part eng va acc : Nat) : Except Nat Nat × Mach :=
  let c := m.agent a
  let t := SMap.get (fun _ => []) c.eng.tlb eng
  let keep := fun (m : Mach) (e : TlbE) =>
    m.modAgent a fun c => c.modEng fun x =>
      { x with tlb := SMap.set (fun _ => []) x.tlb eng ((e :: t.filter fun f => f.va != e.va || f.size != e.size).take (tlbSize eng)) }
  match if isTileAgent a then t.find? fun e => e.covers va && permits acc e.rd e.wr else none with
  | some e => (.ok (e.pa + (va - e.va)), keep m e)
  | none =>
    let r := walk m (panelOf a) part va acc
    match r.1 with
    | .fail w => (.error w, m)
    | .leaf e =>
      let m := m.modPanel (panelOf a) fun p => { p with walkc := walkKeep p.walkc r.2 }
      (.ok (e.pa + (va - e.va)), if isTileAgent a then keep m e else m)

/-- Empty every TLB and walk cache of a partition of what `hit` names (R242, R250, R466). -/
def flushTlbs (m : Mach) (part : Nat) (hit : TlbE → Bool) : Mach :=
  let ps := panelsOf (m.partn part).mask
  let clean := fun (c : Core) => c.modEng fun x =>
    { x with tlb := (x.tlb.map fun e => (e.1, e.2.filter fun t => !hit t)).filter fun e => e.2 != [] }
  let m := { m with
    core := if isTileAgent m.me && ps.contains (panelOf m.me) then clean m.core else m.core,
    rest := m.rest.map fun e => if isTileAgent e.1 && ps.contains (panelOf e.1) then (e.1, clean e.2) else e }
  ps.foldl (fun m p => m.modPanel p fun x => { x with walkc := [] }) m

/-- The parts of a range that lie in one 64 KiB page each. -/
def spans (fuel va n : Nat) : List (Nat × Nat) :=
  match fuel with
  | 0 => []
  | k + 1 =>
    if n = 0 then []
    else
      let here := min n (65536 - va % 65536)
      (va, here) :: spans k (va + here) (n - here)
def pageSpans (va n : Nat) : List (Nat × Nat) := spans (n / 65536 + 2) va n

/-- Translate a range: physical pieces, or the first address not translated and WHY. -/
def translateAll (m : Mach) (a part eng acc : Nat) (ps : List (Nat × Nat)) :
    Except (Nat × Nat) (List (Nat × Nat)) × Mach :=
  match ps with
  | [] => (.ok [], m)
  | (va, n) :: t =>
    match translate m a part eng va acc with
    | (.error w, m) => (.error (va, w), m)
    | (.ok pa, m) =>
      match translateAll m a part eng acc t with
      | (.ok l, m) => (.ok ((pa, n) :: l), m)
      | (.error e, m) => (.error e, m)

/-! ### Region rights (R253, Table 10-6) -/

inductive Use where
  | read
  | write
  | atomic
  | copySrc
  | copyDst
  deriving DecidableEq, Repr

def regionSize : Nat := 0x200000

/-- Whether a region entry is OWNED by logical task `t` of VF `vf`. -/
def RegionE.mine (e : RegionE) (vf : Nat) (t : TaskId) : Bool :=
  e.st == 2 && e.vfn == vf && e.lnch == keyInv t.launch && e.task == t.task

/-- Table 10-6 for a task. -/
def RegionE.grants (e : RegionE) (vf : Nat) (t : TaskId) (u : Use) : Bool :=
  match u with
  | .read => e.mine vf t || e.st == 3
  | .copySrc => e.mine vf t || e.st == 3
  | .write => e.mine vf t
  | .copyDst => e.mine vf t
  | .atomic => e.st == 4 && e.vfn == vf

/-- Whether every region of the physical pieces grants the use. -/
def rightsOk (m : Mach) (part vf : Nat) (t : TaskId) (u : Use) (ps : List (Nat × Nat)) : Bool :=
  ps.all fun p =>
    (List.range ((p.1 + p.2 - 1) / regionSize - p.1 / regionSize + 1)).all fun i =>
      (m.region part (p.1 / regionSize + i)).grants vf t u

/-- Whether a copy of a task checked against a region still runs (R252). -/
def copyHolds (m : Mach) (part r : Nat) : Bool :=
  let has := fun (c : Core) => c.ctl.part == part && c.eng.ch.any fun e => e.2.cmds.any fun k => k.held.contains r
  has m.core || (m.rest.any fun e => isTileAgent e.1 && has e.2) || m.sys.saved.any fun e => has e.2.core
/-- Whether a copy of a task or of a queue checked against a region still runs: its state does not change before (R252). -/
def regionHeld (m : Mach) (part r : Nat) : Bool := copyHolds m part r || m.sys.copies.any fun e => e.2.held.contains r

/-! ### Memory behind a physical address -/

/-- A region has been written: the dirty bit of a VF under migration (Table 4-10). -/
def markDirty (m : Mach) (part pa : Nat) : Mach :=
  let r := pa / regionSize
  let e := m.region part r
  if e.vfn = 0 ∨ (m.vf e.vfn).mig = 0 then m
  else m.setVf e.vfn { m.vf e.vfn with dirty := SMap.set (fun _ => false) (m.vf e.vfn).dirty r true }

/-- The key of a slot changes under its regions (R98, R467): what was written under the old one reads as that key's ciphertext
decrypted under the new one. The regions of VF `vfn`, of whatever partition. -/
def rekey (m : Mach) (vfn old new : Nat) : Mach :=
  let rs := m.sys.parts.flatMap fun e =>
    (m.liveRegions e.1).filter fun r => (m.region e.1 r).vfn == vfn && (m.region e.1 r).st != 0
  let unit := fun (h : Memory) (u : Nat) =>
    h.writeList (64 * u) ((xtsRekey old new u ((h.readList (64 * u) 64).map BitVec.toNat)).map (BitVec.ofNat 8))
  m.setHbm (rs.foldl (fun h r => (List.range 32768).foldl (fun h i => unit h (r * 32768 + i)) h) m.sys.hbm)
/-- The key that the regions of a slot are encrypted under, and a slot loaded with a key; one of zero erases it and leaves what is
stored as it is (R467). -/
def Mach.encKey (m : Mach) (slot : Nat) : Nat := SMap.get (fun _ => 0) m.sys.encKeys slot
def loadKey (m : Mach) (slot key : Nat) : Mach :=
  let old := m.encKey slot
  let m := if key = 0 ∨ old = 0 ∨ key = old then m else rekey m (slot + 1) old key
  m.onSys fun s => { s with keys := SMap.set (fun _ => 0) s.keys slot key,
                            encKeys := if key = 0 then s.encKeys else SMap.set (fun _ => 0) s.encKeys slot key }

/-- Whether a byte lies in a region of a VF whose key slot is erased: the access is refused (R467). -/
def keyErased (m : Mach) (pa : Nat) : Bool :=
  match (m.panel (panelOfPa pa)).part with
  | some part =>
    let e := m.region part (pa / regionSize)
    e.st != 0 && e.vfn != 0 && SMap.get (fun _ => 0) m.sys.keys (e.vfn - 1) == 0
  | none => false

/-- Store bytes in HBM. -/
def hbmWrite (m : Mach) (part pa : Nat) (bs : List Byte) : Mach :=
  if keyErased m pa then m else markDirty (m.setHbm (m.sys.hbm.writeList pa bs)) part pa

/-- Store bytes over physical pieces. -/
def hbmWriteAll (m : Mach) (part : Nat) (ps : List (Nat × Nat)) (bs : List Byte) : Mach :=
  match ps with
  | [] => m
  | (pa, n) :: t => hbmWriteAll (hbmWrite m part pa (bs.take n)) part t (bs.drop n)

/-- Read the bytes of physical pieces, and whether one lies in a 64-byte unit with an uncorrectable error. -/
def hbmRead (m : Mach) (ps : List (Nat × Nat)) : List Byte × Bool :=
  (ps.flatMap fun p => m.sys.hbm.readList p.1 p.2,
   ps.any fun p => keyErased m p.1 || m.sys.hbmErr.any fun e => e.2 ≥ 2 && decide (p.1 / 64 ≤ e.1) && decide (e.1 ≤ (p.1 + p.2 - 1) / 64))

end Sys2Proof.Machine
end

