-- ==== Sys2Proof/Machine/Spaces.lean ====
section
/-!
DEFINITION. The spaces of a tile (08_the_tile R190, R191, R195; 09_lifetime_memory R225-R233): tags and ranges,
race-check bits (R213), row groups, and reads and writes of each space by the task, an engine or inbound traffic.
-/
namespace Sys2Proof.Machine

/-! ### Tags (Table 8-2) -/

def tagOfAddr (a : Dword) : Nat := bits a 63 60
def tagS : Nat := 8
def tagA : Nat := 9
def tagW : Nat := 10
def tagC : Nat := 11
def tagI : Nat := 12

/-- Offset bits of a tag; `none` for a reserved one. -/
def spaceBits (tag : Nat) : Option Nat :=
  match tag with
  | 0 => some 49
  | 1 => some 60
  | 8 => some 19
  | 9 => some 22
  | 10 => some 22
  | 11 => some 18
  | 12 => some 16
  | _ => none

/-- The offset an address value names. -/
def offOf (a : Dword) : Nat := bits a 59 0

/-- R190: a known tag and an offset inside its space; `n` bytes from it. -/
def inSpace (a : Dword) (n : Nat) : Bool :=
  match spaceBits (tagOfAddr a) with
  | some k => decide (offOf a + n ≤ 2 ^ k)
  | none => false

/-! ### Race checking (R213-R215) -/

def Core.phase1 (c : Core) : Nat := bits (c.csr true 0x035) 4 0
def granules (off n : Nat) : List Nat := (List.range ((off + n - 1) / 32 - off / 32 + 1)).map fun i => off / 32 + i

/-- The first granule of an access by writer class `code` that races, while checking is on; its address value. -/
def raceAtIf (on : Bool) (c : Core) (code off n : Nat) : Option Nat :=
  if on then
    (granules off n).find? fun g =>
      let x := SMap.get (fun _ => 0) c.mem.race g
      x / 32 != 0 && x / 32 != code && x % 32 == c.phase1
  else none
def raceAt (c : Core) (code off n : Nat) : Option Nat := raceAtIf c.raceOn c code off n
/-- The tagged address of a granule of S. -/
def granuleAddr (g : Nat) : Dword := dw (tagS * 2 ^ 60 + 32 * g)
/-- A write records its code and phase, while checking is on. -/
def raceMark (on : Bool) (c : Core) (code off n : Nat) : Core :=
  if on then
    let up := fun (r : SMap Nat) => (granules off n).foldl (fun r g => SMap.set (fun _ => 0) r g (code * 32 + c.phase1)) r
    c.modMem fun x => { x with race := up x.race }
  else c

/-! ### Row groups (R218, R225, R228) -/

/-- Row group `k` of A or W. -/
def Core.group (c : Core) (w : Bool) (k : Nat) : Group :=
  SMap.get (fun _ => {}) (if w then c.mem.wg else c.mem.ag) k
def Core.setGroup (c : Core) (w : Bool) (k : Nat) (g : Group) : Core :=
  c.modMem fun x =>
    if w then { x with wg := SMap.set (fun _ => {}) x.wg k g } else { x with ag := SMap.set (fun _ => {}) x.ag k g }
def groupsOf (off n : Nat) : List Nat :=
  (List.range ((off + n - 1) / 4096 - off / 4096 + 1)).map fun i => off / 4096 + i
def Core.buf (c : Core) (w : Bool) : Memory := if w then c.mem.wm else c.mem.am
def Core.setBuf (c : Core) (w : Bool) (y : Memory) : Core :=
  c.modMem fun x => if w then { x with wm := y } else { x with am := y }

/-- A group's 128 words hold no error any more. -/
def dropErr (c : Core) (w : Bool) (k : Nat) : Core :=
  let e0 := errKey (if w then 4 else 3) (128 * k)
  c.modMem fun x => { x with err := x.err.filter fun e => decide (e.1 < e0) || decide (e0 + 128 ≤ e.1) }
/-- Clear a group that has CLR set: its words are written, and an error they held is gone (R228). -/
def clearGroup (c : Core) (w : Bool) (k : Nat) : Core :=
  let g := c.group w k
  if g.clr then dropErr ((c.setBuf w ((c.buf w).zero (4096 * k) 4096)).setGroup w k { g with clr := false }) w k else c
/-- Make a group INVALID with a clear pending (R223, R234). -/
def expireGroup (c : Core) (w : Bool) (k : Nat) : Core :=
  let g := c.group w k
  c.setGroup w k { g with v := false, clr := true, q := false, due := false }

/-- A write of bytes into A or W (R225): pending clears first, then the groups are valid with the writer's class. -/
def writeBuf (m : Mach) (a : Nat) (w : Bool) (off : Nat) (bs : List Byte) (cls : Nat) (x : Bool) : Mach :=
  if bs = [] then m
  else
    let m := m.modAgent a fun c =>
      let c := (groupsOf off bs.length).foldl (fun c k => clearGroup c w k) c
      let c := c.setBuf w ((c.buf w).writeList off bs)
      (groupsOf off bs.length).foldl
        (fun c k => c.setGroup w k ⟨true, x, cls, 0, false, false, false⟩) c
    noteWrite m a (if w then 4 else 3) off bs.length

/-- What a read of a local space finds. -/
structure Found where
  bytes : List Byte
  /-- lowest address of the access in an invalid row group -/
  inval : Option Nat
  /-- an uncorrectable error in S -/
  ue : Bool
  deriving DecidableEq, Repr

/-- A read of A or W (R231, R234): words of valid groups are read; a group with an uncorrectable error in one becomes INVALID, which
is logged once; bytes of invalid groups read zero. -/
def readBuf (m : Mach) (a : Nat) (w : Bool) (off n : Nat) : Found × Mach :=
  let ary := if w then 4 else 3
  let from_ := fun (k : Nat) => max off (4096 * k)
  let len := fun (k : Nat) => min (off + n) (4096 * k + 4096) - from_ k
  let live := (groupsOf off n).filter fun k => ((m.agent a).group w k).v
  let bad := live.filter fun k => errIn (m.agent a) ary (from_ k) (len k) ≥ 2
  let m := live.foldl (fun m k => noteRead m a ary (from_ k) (len k)) m
  let m := bad.foldl (fun m k =>
    (logErr m (panelOf a) ary true (localSite a) 12 (4096 * k) (ctxOf m a)).modAgent a fun c => expireGroup c w k) m
  let c := m.agent a
  let out := (groupsOf off n).filter fun k => !(c.group w k).v
  let bs := (c.buf w).readList off n
  let bs := if out = [] then bs
    else (List.range n).zipWith (fun i b => if out.contains ((off + i) / 4096) then 0 else b) bs
  (⟨bs, out.head?.map fun k => max off (4096 * k), false⟩, m)

/-! ### S, C and I -/

/-- Write bytes into S as writer class `code`; `on` says whether race checking is. -/
def writeSIf (on : Bool) (m : Mach) (a code off : Nat) (bs : List Byte) : Mach :=
  if bs = [] then m
  else
    let m := m.modAgent a fun c =>
      raceMark on (c.modMem fun x => { x with sm := x.sm.writeList off bs }) code off bs.length
    noteWrite m a 0 off bs.length
def writeS (m : Mach) (a code off : Nat) (bs : List Byte) : Mach := writeSIf (m.agent a).raceOn m a code off bs
def readS (m : Mach) (a off n : Nat) : Found × Mach :=
  let ue := errIn (m.agent a) 0 off n ≥ 2
  let bs := (m.agent a).mem.sm.readList off n
  (⟨bs, none, ue⟩, noteRead m a 0 off n)

/-- The row bytes of C, and a write of them (R195). -/
def rowBytes (r : Row) : List Byte := leBytes r.toNat 256
def rowOfBytes (bs : List Byte) : Row := BitVec.ofNat 2048 (leAt bs 0 256)

/-- Read bytes of C: those of each row, and whether a row was poisoned. -/
def readC (m : Mach) (a off n : Nat) : List Byte × Bool × Mach :=
  let rows := (List.range ((off + n - 1) / 256 - off / 256 + 1)).map fun i => off / 256 + i
  let p := rows.any fun r => (crowRead m a r).1.p
  let bs := rows.flatMap fun r => rowBytes (crowRead m a r).1.v
  ((bs.drop (off % 256)).take n, p, rows.foldl (fun m r => (crowRead m a r).2) m)
/-- Write bytes of C; rows written have their poison clear (R196). -/
def writeC (m : Mach) (a off : Nat) (bs : List Byte) : Mach :=
  if bs = [] then m
  else
    let rows := (List.range ((off + bs.length - 1) / 256 - off / 256 + 1)).map fun i => off / 256 + i
    rows.foldl (fun m r =>
      let old := rowBytes ((m.agent a).row r).v
      let new := (List.range 256).zipWith (fun i b =>
        if off ≤ 256 * r + i ∧ 256 * r + i < off + bs.length then (bs[256 * r + i - off]?).getD 0 else b) old
      crowWrite m a r ⟨rowOfBytes new, false⟩) m

/-! ### Accesses of a word in global memory -/

/-- Whose accesses these are: the task's partition, VF and identity. -/
def Mach.myTask (m : Mach) : TaskId := m.core.ctl.task.getD ⟨0, 0⟩
def Mach.partFor (m : Mach) (a : Nat) : Nat :=
  if isTileAgent a then (m.agent a).ctl.part else (m.partOf a).getD 32
def Mach.myPart (m : Mach) : Nat :=
  if m.isTile then m.core.ctl.part else (m.partOf m.me).getD 32

/-- Translate a range for a word of the issuing agent, under PTROOT as the bundle found it (R318): the physical pieces, or the first
address not translated and WHY. A command core keeps nothing of a walk from a root that its bundle has just replaced. -/
def translateWord (old m : Mach) (va n acc : Nat) : Except (Nat × Nat) (List (Nat × Nat)) × Mach :=
  let go := fun (m : Mach) => translateAll m m.me m.myPart 0 acc (pageSpans va n)
  let p := m.partn m.myPart
  let root := (old.partn m.myPart).ptroot
  if root = p.ptroot then go m else ((go (m.setPart m.myPart { p with ptroot := root })).1, m)

/-- Translate a range for a command word or a word of a command core: the physical pieces, or none for a speculative load that
fails. Another failure freezes a tile (R178) and traps on a command core (R249). -/
def xlate (va n acc : Nat) (spec : Bool) (ea : Dword) : Exec (Option (List (Nat × Nat))) := do
  let m ← getM
  let old ← getOld
  match translateWord old m va n acc with
  | (.ok ps, m') =>
    if !m.isTile ∧ m.stalled ps then hold 0
    else do
      modM fun _ => m'
      pure (some ps)
  | (.error (v, w), _) =>
    if spec then pure none
    else if m.isTile then stop (.tlbFault v acc w)
    else raise 0x0B ea

/-- The rights of the issuing task over physical pieces (Table 10-6); a command core has none to check (R376). -/
def granted (u : Use) (ps : List (Nat × Nat)) : Exec Bool := do
  let m ← getM
  pure (!m.isTile || rightsOk m m.core.ctl.part m.core.ctl.vf m.myTask u ps)

/-! ### Carrying an access out (R362-R367) -/

/-- The access of Table 7-5, and the right Table 10-6 asks for. -/
def Todo.acc (t : Todo) : Nat := if t.op = 0 then accRead else if t.op = 1 then accWrite else accAtomic
def Todo.use (t : Todo) : Use := if t.op = 0 then .read else if t.op = 1 then .write else .atomic

/-- The register value of loaded bytes. -/
def loadedValue (size : Nat) (signed : Bool) (bs : List Byte) : Dword :=
  if signed then dwInt (sext (8 * size) (leAt bs 0 size)) else dw (leAt bs 0 size)
/-- What a load gives: a row of C, or a value. -/
def Todo.value (t : Todo) (bs : List Byte) : Row :=
  if t.n = 256 then rowOfBytes bs else (loadedValue t.n (t.fn == 1) bs).setWidth 2048

/-- Fn of AMO. -/
def amoFn (f : Nat) (old x : Dword) : Dword :=
  match f with
  | 0 => old + x
  | 1 => old &&& x
  | 2 => old ||| x
  | 3 => old ^^^ x
  | 4 => if sInt old ≤ sInt x then old else x
  | 5 => if sInt old ≤ sInt x then x else old
  | 6 => if old.toNat ≤ x.toNat then old else x
  | 7 => if old.toNat ≤ x.toNat then x else old
  | _ => x
/-- What an AMO or CAS stores for an old value, if anything. -/
def Todo.next (t : Todo) (old : Dword) : Option Dword :=
  if t.op = 2 then some (amoFn t.fn old t.x) else if old = t.x then some t.y else none

/-- Store to physical pieces; what it does to a semaphore map follows (R100). -/
def storePhys (m : Mach) (part : Nat) (ps : List (Nat × Nat)) (bs : List Byte) : Mach :=
  let m := ps.foldl (fun m p => noteHbmWrite m p.1 p.2) (hbmWriteAll m part ps bs)
  ps.foldl (fun m p => mapStored m part p.1 p.2) m
/-- Load from physical pieces: the bytes, and an uncorrectable error. -/
def loadPhys (m : Mach) (ps : List (Nat × Nat)) : (List Byte × Bool) × Mach :=
  (hbmRead m ps, ps.foldl (fun m p => noteHbmRead m p.1 p.2) m)

/-- Carry out an access on its physical pieces: what it returns. An atomic operation whose old value has an uncorrectable error
stores nothing (R367). -/
def perform (m : Mach) (part : Nat) (t : Todo) (ps : List (Nat × Nat)) : RowP × Mach :=
  if t.op = 1 then ({}, storePhys m part ps t.data)
  else
    let r := loadPhys m ps
    if t.op = 0 then (⟨t.value r.1.1, r.1.2⟩, r.2)
    else
      let old := dw (leAt r.1.1 0 8)
      (⟨old.setWidth 2048, r.1.2⟩,
        match if r.1.2 then none else t.next old with
        | some v => storePhys r.2 part ps (leBytes v.toNat 8)
        | none => r.2)
/-- The same as part of a word. -/
def act (t : Todo) (ps : List (Nat × Nat)) : Exec RowP := fun s =>
  let r := perform s.m s.m.myPart t ps
  .ok (r.1, { s with m := r.2 })
/-- Whether accesses of the task's words still have to be carried out. -/
def Core.hasTodo (c : Core) : Bool := c.ctl.resp.any fun r => r.todo.isSome

end Sys2Proof.Machine
end

