-- ==== Sys2Proof/Machine/Packets.lean ====
section
/-!
DEFINITION. Posts between tasks and to tasks (07_freeze_and_preemption R165, R170-R174; 08_the_tile R204, R210; 17 R430,
R431): pair counters, delivery, the park inbox and its replay.
-/
namespace Sys2Proof.Machine

/-! ### Pair counters (R170) -/

def seqNext (n : Nat) : Nat := (n + 1) % 65536
/-- `n` is after `k`. -/
def seqAfter (n k : Nat) : Bool :=
  let d := (n + 65536 - k % 65536) % 65536
  decide (1 ≤ d) && decide (d ≤ 32767)
/-- How counters name a partner: a task of the launch by its number, a panel by 2^20 more. -/
def panelKey (p : Nat) : Nat := 2 ^ 20 + p
def Core.sent (c : Core) (k : Nat) : Nat := SMap.get (fun _ => 0) c.eng.snd k
def Core.setSent (c : Core) (k v : Nat) : Core := c.modEng fun e => { e with snd := SMap.set (fun _ => 0) e.snd k v }
def Core.rcvd (c : Core) (k : Nat) : Nat := SMap.get (fun _ => 0) c.eng.rcv k
def Core.setRcvd (c : Core) (k v : Nat) : Core := c.modEng fun e => { e with rcv := SMap.set (fun _ => 0) e.rcv k v }
/-- The source of a packet as the receiver counts it. -/
def Pkt.srcKey (p : Pkt) : Nat := if 2048 ≤ p.src then panelKey (p.src - 2048) else p.srcTask

/-! ### Copy-channel bookkeeping (R208, R430) -/

def Core.chan (c : Core) (n : Nat) : Chan := SMap.get (fun _ => {}) c.eng.ch n
def Core.setChan (c : Core) (n : Nat) (x : Chan) : Core :=
  c.modEng fun e => { e with ch := SMap.set (fun _ => {}) e.ch n x }
/-- WPOS of a channel (Table 8-6). -/
def csrWPOS (n : Nat) : Nat := 0x044 + n
def Core.addWpos (c : Core) (n bytes : Nat) : Core :=
  c.setCsr true (csrWPOS n) (c.csr true (csrWPOS n) + dw bytes)
/-- LEN of a command. -/
def CCmd.len (x : CCmd) : Nat := bits x.ctl 31 0
/-- An unanswered post of a command: destination task, number, and the bytes it adds to WPOS when accepted. -/
def waitKey (task seq bytes : Nat) : Nat := (task * 65536 + seq) * 1024 + bytes
/-- A command is over when every byte has moved and every post is answered. -/
def CCmd.finished (x : CCmd) : Bool := x.len ≤ x.done && x.wait == []
/-- Drop the command in progress when it is over; WAITE event CC (R459). -/
def Core.settleChan (c : Core) (n : Nat) : Core :=
  let ch := c.chan n
  match ch.cmds with
  | x :: t => if x.finished then (c.setChan n { ch with cmds := t }).modCtl fun k => { k with ev := k.ev ||| 4 } else c
  | [] => c

/-- A post has been answered: its source's command waits for it no longer, and WPOS moves if it was accepted. -/
def postAnswered (m : Mach) (p : Pkt) (ok : Bool) : Mach :=
  match p.extra with
  | [n, bytes, _] =>
    m.modTask ⟨p.task.launch, p.srcTask⟩ fun c =>
      let ch := c.chan n
      let c := c.setChan n { ch with cmds := ch.cmds.map fun x => { x with wait := x.wait.erase (waitKey p.task.task p.seq bytes) } }
      (if ok then c.addWpos n bytes else c).settleChan n
  | _ => m

/-! ### Where a task is -/

/-- The site a task stands on, running or stopped. -/
def Mach.placeOf (m : Mach) (t : TaskId) : Option Nat :=
  let l := m.launch t.launch
  if m.hasLaunch t.launch ∧ (l.gang (l.gangOf t.task)).onSites then some (l.siteFor t.task) else none
/-- Whether a site takes traffic for a task: its task runs there (R165). -/
def Mach.takes (m : Mach) (a : Nat) (t : TaskId) : Bool :=
  let s := m.site a
  s.occ == some t && (s.tst == 1 || s.tst == 2)
/-- The panel whose inbox holds a task's packets: of its site, or the partition's lead panel (R172). -/
def Mach.inboxOf (m : Mach) (t : TaskId) : Nat :=
  match m.placeOf t with
  | some a => panelOfSite a
  | none => (m.partn (keyPart t.launch)).lead

/-! ### The park inbox (R172) -/

/-- Flits of a packet: a header and 64 bytes each (R12, R15). -/
def Pkt.flits (p : Pkt) : Nat := 1 + (p.data.length + 63) / 64
def inboxFlits (l : List Pkt) : Nat := l.foldl (fun n p => n + p.flits) 0

/-- A packet is refused: its source keeps it and sends it again (R172, R204). -/
def refusePkt (m : Mach) (p : Pkt) : Mach :=
  if 2048 ≤ p.src then m
  else m.modTask ⟨p.task.launch, p.srcTask⟩ fun c => c.modEng fun e => { e with posts := e.posts ++ [p] }
/-- Whether a task's gang has ended: what comes for it is accepted and not written (R458). -/
def taskOver (m : Mach) (t : TaskId) : Bool := ((m.launch t.launch).gang ((m.launch t.launch).gangOf t.task)).st == 4
/-- A packet that enters an inbox is written into the words of the panel's stage cache that hold it (R234, R238, log 14). -/
def inboxPut (m : Mach) (n : Nat) (p : Pkt) : Mach :=
  let e := injInto m n 7 0 1 131072
  e.2.2.modPanel n fun x => { x with inbox := x.inbox ++ [{ p with extra := [], err := e.1.or p.err }] }
/-- A packet enters the park inbox; that counts as its acceptance (R430). -/
def parkPkt (m : Mach) (p : Pkt) : Mach :=
  let n := m.inboxOf p.task
  if taskOver m p.task then postAnswered m p true
  else if 12032 < inboxFlits (m.panel n).inbox + p.flits then refusePkt m p
  else inboxPut (postAnswered m p true) n p

/-- A packet is sent: toward its task's site, or into the inbox that holds for it; none for a launch that is over. -/
def sendPkt (m : Mach) (p : Pkt) : Mach :=
  if m.hasLaunch p.task.launch then
    match m.placeOf p.task with
    | some a => m.setNet a (m.netOf a ++ [p])
    | none => parkPkt m p
  else m

/-! ### Delivery (R204, R210, R213, R225) -/

/-- What a delivery comes to. -/
inductive Deliv where
  | done (m : Mach)
  /-- a full queue, or for a release a queue not bound for it -/
  | full
  /-- a post to a queue not bound for posts -/
  | unbound
  /-- a race in S at a granule -/
  | race (g : Nat)

/-- Writer code of a packet in S: a post 5, a seam release 6. -/
def Pkt.code (p : Pkt) : Nat := if p.kind = 3 then 6 else 5
/-- A packet of a panel's seam buffer. -/
def Pkt.ofSeam (p : Pkt) : Bool := p.kind == 3 || p.kind == 4

/-- Rows of data from lane 0, padded with zeros (R276). -/
def rowsOf (fuel : Nat) (bs : List Byte) : List Row :=
  match fuel with
  | 0 => []
  | n + 1 => if bs = [] then [] else rowOfBytes (bs.take 256) :: rowsOf n (bs.drop 256)

/-- Write a packet at its destination on site `a`. Control bits as Table 17-8: QD 36, X 35, LC 34:33. -/
def deliver (m : Mach) (a : Nat) (p : Pkt) : Deliv :=
  if (m.agent a).ctl.wait == .ended then .done m -- accepted and not written after DONE (R458)
  else if bit p.ctl 36 then
    let n := p.addr.toNat % 16
    let q := (m.agent a).hq n
    let rows := if p.kind = 4 then [rowOfBytes p.data] else rowsOf 2 p.data
    if !(q.bound && q.prod == (if p.kind = 4 then 11 else 5)) then (if p.ofSeam then .full else .unbound)
    else if hqDepth n < q.items.length + rows.length then .full
    else .done (rows.foldl (fun m r => pushHq m a n ⟨r, p.poison⟩ (if p.kind = 4 then 0 else 2)) m)
  else
    let off := offOf p.addr
    if tagOfAddr p.addr = tagS then
      match raceAt (m.agent a) p.code off p.data.length with
      | some g => .race g
      | none => .done (writeS m a p.code off p.data)
    else .done (writeBuf m a (tagOfAddr p.addr == tagW) off p.data (bits p.ctl 34 33) (bit p.ctl 35))

/-- Record a trap of an engine, unless it stands recorded (R215). -/
def engineTrap (m : Mach) (a code : Nat) (tval : Dword) (eng : Nat) : Mach :=
  m.modAgent a fun c => c.modCtl fun k =>
    if k.ptraps.contains ⟨code, tval, eng⟩ then k else { k with ptraps := k.ptraps ++ [⟨code, tval, eng⟩] }

/-- The same for a task wherever its context is. -/
def taskTrap (m : Mach) (t : TaskId) (code : Nat) (tval : Dword) (eng : Nat) : Mach :=
  m.modTask t fun c => c.modCtl fun k =>
    if k.ptraps.contains ⟨code, tval, eng⟩ then k else { k with ptraps := k.ptraps ++ [⟨code, tval, eng⟩] }

/-- Deliver the packet that is next from its source: the machine after it, or none when it has to wait. -/
def deliverNext (m : Mach) (a : Nat) (p : Pkt) : Option Mach :=
  let count := fun (m : Mach) => m.modAgent a fun c => c.setRcvd p.srcKey p.seq
  match deliver m a p with
  | .done m => some (postAnswered (count m) p true)
  | .unbound =>
    some (taskTrap (postAnswered (count m) p false) ⟨p.task.launch, p.srcTask⟩ 0x07 (dw p.task.task) 8)
  | _ => none

/-! ### Replay (R174) -/

/-- The packets an inbox holds for a task. -/
def heldFor (m : Mach) (t : TaskId) : List Pkt :=
  (panelsOf (m.partn (keyPart t.launch)).mask).flatMap fun n => (m.panel n).inbox.filter fun p => p.task == t
/-- Take a packet out of the inboxes. -/
def unpark (m : Mach) (p : Pkt) : Mach :=
  (panelsOf (m.partn (keyPart p.task.launch)).mask).foldl
    (fun m n => m.modPanel n fun x => { x with inbox := x.inbox.erase p }) m

/-- Held packets of a task go to the inbox of the panel where it is placed, as far as there is room (R172). -/
def moveHeld (m : Mach) (t : TaskId) : Mach :=
  let n := m.inboxOf t
  (panelsOf (m.partn (keyPart t.launch)).mask).foldl (fun m p =>
    if p = n then m
    else ((m.panel p).inbox.filter fun k => k.task == t).foldl (fun m k =>
      if 12032 < inboxFlits (m.panel n).inbox + k.flits then m
      else inboxPut (m.modPanel p fun x => { x with inbox := x.inbox.erase k }) n k) m) m
/-- The race in S that a packet which is next from its source would be. -/
def raceOf (m : Mach) (a : Nat) (p : Pkt) : Option Nat :=
  if p.seq = seqNext ((m.agent a).rcvd p.srcKey) then
    match deliver m a p with
    | .race g => some g
    | _ => none
  else none
/-- A race of inbound traffic: the trap is recorded and deliveries halt until TRET (R215). -/
def raceTrap (m : Mach) (a g : Nat) : Mach :=
  (engineTrap m a 0x09 (granuleAddr g) 8).modAgent a fun c => c.modEng fun e => { e with ihalt := true }

/-- Deliver, in inbox order, what is next from its source and can be taken; drop what has been delivered before. -/
def replay (fuel : Nat) (m : Mach) (a : Nat) (t : TaskId) : Mach :=
  match fuel with
  | 0 => m
  | n + 1 =>
    let hs := heldFor m t
    let last := fun (p : Pkt) => (m.agent a).rcvd p.srcKey
    match hs.find? fun p => !seqAfter p.seq (last p) with
    | some p => replay n (unpark m p) a t
    | none =>
      match hs.findSome? fun p => if p.seq = seqNext (last p) then (deliverNext m a p).map fun m' => (p, m') else none with
      | some (p, m') => replay n (unpark m' p) a t
      | none => match hs.findSome? (raceOf m a) with
        | some g => raceTrap m a g
        | none => m
/-- Errors among the packets held for a task: each is logged, and gone where it could be corrected. -/
def heldErrors (m : Mach) (a : Nat) (t : TaskId) : Mach :=
  let m := (heldFor m t).foldl (fun m p => logItem m a 7 p.err) m
  (panelsOf (m.partn (keyPart t.launch)).mask).foldl (fun m n => m.modPanel n fun x =>
    { x with inbox := x.inbox.map fun p => if p.task = t then { p with err := none } else p }) m
/-- Replay what the inboxes hold for a task; an uncorrectable error in them ends its launch (Table 9-9). -/
def replayAll (m : Mach) (a : Nat) (t : TaskId) : Mach :=
  if (m.agent a).eng.ihalt then m
  else
    let es := (heldFor m t).filterMap Pkt.err
    let m := if es = [] then m else heldErrors m a t
    if es.any ItemErr.ue then endLaunch m t.launch 10 4 else replay ((heldFor m t).length + 1) m a t

/-- The first packet on its way to site `a` arrives (POST_ARRIVAL), while the die's clock runs; packets of different sources arrive
in the order they were sent, a choice (R15 orders those of one source and destination only; log 72). -/
def arriveAt (m : Mach) (a : Nat) : Mach :=
  match m.netOf a with
  | [] => m
  | p :: rest =>
    let m0 := m.setNet a rest
    if !m.clocked (dieOf a) then m
    else if !m.hasLaunch p.task.launch then m0
    else if m.takes a p.task then
      let last := (m.agent a).rcvd p.srcKey
      if (m.agent a).eng.ihalt then m
      else if p.seq = seqNext last then
        match deliver m a p with
        | .race g => raceTrap m a g
        | .full => refusePkt m0 p
        | _ =>
          match deliverNext m0 a p with
          | some m' => replayAll m' a p.task
          | none => m0
      else if seqAfter p.seq last then parkPkt m0 p
      else postAnswered m0 p true
    else
      -- parked, frozen or moved (R165, R173)
      match m.placeOf p.task with
      | some b => if b = a then parkPkt m0 p else sendPkt m0 p
      | none => parkPkt m0 p

end Sys2Proof.Machine
end

