-- ==== Sys2Proof/Machine/Engines.lean ====
section
/-!
DEFINITION. Accesses of the engines of a tile: to global memory through their own TLBs (10_translation R246, 07 R178,
Table 7-5), and to S, A and W with what an engine does on a race, an error or an invalid group (08 R213-R215, 09 R231,
R234).
-/
namespace Sys2Proof.Machine

/-- Engines by the codes of Table 7-5: 1-4 stream engines, 5 gather unit, 6 and 7 copy channels, 8 matrix path. -/
def engSe (n : Nat) : Nat := 1 + n
def engGather : Nat := 5
def engCc (n : Nat) : Nat := 6 + n
def engMatrix : Nat := 8

/-- The engine of a code, as a recorded trap names it (`PTrap`). -/
def trapEng (eng : Nat) : Nat := if eng ≤ 4 then eng - 1 else if eng = 5 then 8 else eng - 2

/-- What an access of an engine comes to: a value, or a stop, at which the machine holds the trap or the freeze. -/
inductive Got (α : Type) where
  | ok (x : α) (m : Mach)
  | stop (m : Mach)

/-- Translate for an engine; a failed walk freezes the gang (R178). `chk` names the right each access needs, if it is
checked then (R246, R253). -/
def engReach (m : Mach) (a eng va n acc : Nat) (chk : Option Use) (tval : Dword) : Got (List (Nat × Nat)) :=
  let k := (m.agent a).ctl
  match translateAll m a k.part eng acc (pageSpans va n) with
  | (.error (v, w), _) => .stop (tileFault m a eng acc v w)
  | (.ok ps, m') =>
    if m.stalled ps then .stop m
    else match chk with
    | none => .ok ps m'
    | some u =>
      if rightsOk m k.part k.vf (k.task.getD ⟨0, 0⟩) u ps then .ok ps m'
      else .stop (engineTrap m a 0x05 tval (trapEng eng))

/-- Read global memory: bytes, and an uncorrectable error. -/
def engLoad (m : Mach) (a eng va n : Nat) (chk : Option Use) : Got (List Byte × Bool) :=
  match engReach m a eng va n accRead chk (dw va) with
  | .stop m => .stop m
  | .ok ps m =>
    .ok (hbmRead m ps) (ps.foldl (fun m p => noteHbmRead m p.1 p.2) m)
/-- Write global memory. -/
def engStore (m : Mach) (a eng va : Nat) (bs : List Byte) (chk : Option Use) : Got Unit :=
  match engReach m a eng va bs.length accWrite chk (dw va) with
  | .stop m => .stop m
  | .ok ps m =>
    .ok () (ps.foldl (fun m p => noteHbmWrite m p.1 p.2) (hbmWriteAll m (m.agent a).ctl.part ps bs))

/-- Read S as an engine whose accesses have writer code `code`; a race stops it. -/
def engReadS (m : Mach) (a code eng off n : Nat) : Got (List Byte × Bool) :=
  match raceAt (m.agent a) code off n with
  | some g => .stop (engineTrap m a 0x09 (granuleAddr g) eng)
  | none => let r := readS m a off n; .ok (r.1.bytes, r.1.ue) r.2
def engWriteS (m : Mach) (a code eng off : Nat) (bs : List Byte) : Got Unit :=
  match raceAt (m.agent a) code off bs.length with
  | some g => .stop (engineTrap m a 0x09 (granuleAddr g) eng)
  | none => .ok () (writeS m a code off bs)

/-- An engine takes the oldest item of a queue, whose rest is `rest`. -/
def engPop (m : Mach) (a n : Nat) (x : QItem) (rest : List QItem) : Mach :=
  logItem (m.modAgent a fun c => (c.setHq n { c.hq n with items := rest }).modMem fun y =>
    { y with race := popClears c.raceOn false x.src y.race }) a 5 x.err

/-- Whether a trap of an engine stands recorded. -/
def Core.trapped (c : Core) (eng : Nat) : Bool := c.ctl.ptraps.any fun t => t.eng == eng

/-- Bytes of S as an operand of a word: a race or an uncorrectable error traps at the word (R215, R234). -/
def taskReadS (off n : Nat) : Exec (List Byte) := do
  let m ← getM
  let old ← getOld
  match raceAtIf old.core.raceOn m.core 1 off n with
  | some g => raise 0x09 (granuleAddr g)
  | none => do
    let r := readS m m.me off n
    if r.1.ue then fun s => .error (.trapUpd 0x04 s.wordBits fun m => (readS m m.me off n).2)
    else do
      modM fun _ => r.2
      pure r.1.bytes

end Sys2Proof.Machine
end

