-- ==== Sys2Proof/Machine/Copies.lean ====
section
/-!
DEFINITION. Copy channels (08_the_tile R208-R210, R214; 17_matrix_and_engine_instructions R427-R432): their words, the
step of a channel, and the arrival and resending of posts (07 R172, R174).
-/
namespace Sys2Proof.Machine

def tagFabric : Nat := 1

/-! ### The control value (Table 17-8) -/

def ctlTask (c : Dword) : Nat := bits c 59 40
def ctlQS (c : Dword) : Bool := bit c 37
def ctlQD (c : Dword) : Bool := bit c 36
def ctlX (c : Dword) : Bool := bit c 35
def ctlLC (c : Dword) : Nat := bits c 34 33
def ctlCH (c : Dword) : Nat := bits c 32 32
def ctlLEN (c : Dword) : Nat := bits c 31 0

/-- Fields a command lacks must be zero: operations 0 CPY, 1 CPYP, 2 CPYM. -/
def ctlOk (op : Nat) (c : Dword) : Bool :=
  bits c 63 60 == 0 && bits c 39 38 == 0 && (op == 1 || (ctlTask c == 0 && !ctlQS c)) && (op != 2 || !ctlQD c)

/-- Spaces of Table 17-9. -/
def srcSpace (op t : Nat) : Bool :=
  match op with
  | 0 => t == 0 || t == tagS || t == tagA || t == tagC || t == tagFabric
  | 1 => t == tagS || t == tagA
  | _ => t == 0
def dstSpace (op t : Nat) : Bool :=
  match op with
  | 0 => t == 0 || t == tagS || t == tagA || t == tagW || t == tagC
  | _ => t == tagS || t == tagA || t == tagW
/-- The range of a side lies in its space, and starts on a row in C. -/
def sideOk (a : Dword) (len : Nat) : Bool :=
  (if tagOfAddr a = tagFabric then decide (bits a 48 0 + len ≤ 2 ^ 49) else inSpace a (max 1 len)) &&
    (tagOfAddr a != tagC || a.toNat % 256 == 0)

/-- Rights over the global side of a copy, whose pages must all translate (R253): the regions it names. -/
def copyRights (a : Dword) (len acc : Nat) (u : Use) : Exec (List Nat) := do
  if tagOfAddr a = 0 then
    match ← xlate (offOf a) len acc false a with
    | none => pure []
    | some ps => do
      let ok ← granted u ps
      need ok 0x05 a
      pure (ps.flatMap fun p =>
        (List.range ((p.1 + p.2 - 1) / regionSize - p.1 / regionSize + 1)).map fun i => p.1 / regionSize + i).eraseDups
  else pure []

/-- CPY, CPYP and CPYM: the checks of R427 and R428, then the command enters its channel. -/
def copyWord (op d a c : Nat) : Exec Unit :=
  orLate (do
    let x ← rdClean d
    let y ← rdClean a
    let k ← rdClean c
    need (ctlOk op k) 0x01 k
    need (!(ctlQD k && x.toNat ≥ 16)) 0x01 x
    need (!(ctlQS k && y.toNat ≥ 16)) 0x01 y
    let len := ctlLEN k
    need (if ctlQS k then len % 256 == 0 else srcSpace op (tagOfAddr y) && sideOk y len) 0x0B y
    need (if ctlQD k then len % 256 == 0 else dstSpace op (tagOfAddr x) && sideOk x len) 0x0B x
    let m ← getM
    let part := m.core.ctl.part
    need (!(!ctlQS k && tagOfAddr y == tagFabric && !((m.partn part).fab.any fun e => e.1 == bits y 59 49))) 0x0B y
    let ch := ctlCH k
    let src := m.hq y.toNat
    let dst := m.hq x.toNat
    needWord (!(ctlQS k && !(src.bound && src.cons == 6 + ch))) 0x07
    needWord (!(ctlQD k && (decide (8 ≤ x.toNat) || (op == 0 && !(dst.bound && dst.prod == 6 + ch))))) 0x07
    let rs ← if ctlQS k then pure [] else copyRights y len accRead .copySrc
    let rd ← if ctlQD k then pure [] else copyRights x len accWrite .copyDst
    need (!(op == 1 && decide (bits (m.csr 0x032) 39 20 ≤ ctlTask k))) 0x05 k
    if len = 0 then pure ()
    else if 8 ≤ (m.core.chan ch).cmds.length then hold 0
    else modM fun m => m.modCore fun c =>
      let h := c.chan ch
      let cmd : CCmd := { op := op, dst := x, src := y, ctl := k, held := (rs ++ rd).eraseDups, id := c.eng.seq }
      (c.setChan ch { h with cmds := h.cmds ++ [cmd] }).modEng fun e => { e with seq := e.seq + 1 })
    lateTrap

/-! ### The step of a channel (COPY_CHANNEL_TRANSFER) -/

/-- The engine of a channel as recorded traps name it. -/
def chTrap (n : Nat) : Nat := 4 + n
def chHalt (m : Mach) (a n : Nat) : Mach :=
  m.modAgent a fun c => c.setChan n { c.chan n with halted := c.trapped (chTrap n) }
def chStop (m : Mach) (a n code : Nat) (tval : Dword) : Mach := chHalt (engineTrap m a code tval (chTrap n)) a n

/-- `k` bytes of the source of a copy from `ad`, and whether they hold an uncorrectable error of S or HBM; one that is not for a queue of
this tile (`qd`) stops the channel (Table 9-9). -/
def chRead (m : Mach) (a n : Nat) (ad : Dword) (k : Nat) (qd : Bool) : Got (List Byte × Bool) :=
  let t := tagOfAddr ad
  let off := offOf ad
  let clean := fun (d : List Byte × Bool) (m : Mach) =>
    if d.2 && !qd then Got.stop (engineTrap m a 0x04 ad (chTrap n)) else Got.ok d m
  if t = tagS then
    match engReadS m a (2 + n) (chTrap n) off k with
    | .ok d m => clean d m
    | .stop m => .stop m
  else if t = 0 then
    match engLoad m a (engCc n) off k none with
    | .ok d m => clean d m
    | .stop m => .stop m
  else if t = tagC then
    let r := readC m a off k
    if r.2.1 then .stop (engineTrap r.2.2 a 0x04 ad (chTrap n)) else .ok (r.1, false) r.2.2
  else
    let r := readBuf m a false off k
    match r.1.inval with
    | some o => .stop (engineTrap r.2 a 0x06 (dw (tagA * 2 ^ 60 + o)) (chTrap n))
    | none => .ok (r.1.bytes, false) r.2

/-- The position at which the channel wrote each granule: the first of the command's bytes in it (R432). -/
def notePos (m : Mach) (a n off len done : Nat) : Mach :=
  m.modAgent a fun c =>
    let w := (c.csr true (csrWPOS n)).toNat
    if c.raceOn then
      c.modMem fun x => { x with rpos := (granules off len).foldl (fun r g =>
        let old := SMap.get (fun _ => 0) r g
        if w - done ≤ old ∧ old < w then r else SMap.set (fun _ => 0) r g w) x.rpos }
    else c

/-- Write bytes at the destination of a copy; a row for a queue with its poison. -/
def chWrite (m : Mach) (a n : Nat) (x : CCmd) (ad : Dword) (bs : List Byte) (poison : Bool) : Got Unit :=
  let t := tagOfAddr ad
  let off := offOf ad
  if ctlQD x.ctl then .ok () (pushHq m a (x.dst.toNat % 16) ⟨rowOfBytes bs, poison⟩ 0)
  else if t = tagS then
    match engWriteS m a (2 + n) (chTrap n) off bs with
    | .ok _ m => .ok () (notePos m a n off bs.length x.done)
    | .stop m => .stop m
  else if t = 0 then engStore m a (engCc n) off bs none
  else if t = tagC then .ok () (writeC m a off bs)
  else .ok () (writeBuf m a (t == tagW) off bs (ctlLC x.ctl) (ctlX x.ctl))

/-- `k` more bytes have moved. -/
def chMoved (m : Mach) (a n k : Nat) (wpos : Bool) (posts : List Nat) : Mach :=
  m.modAgent a fun c =>
    let ch := c.chan n
    match ch.cmds with
    | x :: t =>
      let c := c.setChan n { ch with cmds := { x with done := x.done + k, wait := x.wait ++ posts } :: t }
      (if wpos then c.addWpos n k else c).settleChan n
    | [] => c

/-- Form a post to a task and send it (R170, R430): the number it took. -/
def sendPost (m : Mach) (a n : Nat) (x : CCmd) (task : Nat) (addr : Dword) (bs : List Byte) (cpym : Bool) : Mach × Nat :=
  let c := m.agent a
  let me := c.ctl.task.getD ⟨0, 0⟩
  let seq := seqNext (c.sent task)
  let m := m.modAgent a fun c => c.setSent task seq
  let b := if cpym then 0 else bs.length
  let p : Pkt := { kind := 0, src := a, srcTask := me.task, task := ⟨me.launch, task⟩, seq := seq, addr := addr,
                   ctl := x.ctl, data := bs, poison := false, extra := [n, b, if cpym then 1 else 0] }
  (sendPkt m p, waitKey task seq b)

/-- The source of a post that is a queue: its next row. -/
def postSource (m : Mach) (a n : Nat) (x : CCmd) : Option (Got (List Byte)) :=
  if ctlQS x.ctl then
    let q := (m.agent a).hq (x.src.toNat % 16)
    match q.items with
    | [] => none
    | i :: t =>
      if i.found.p then some (.stop (engineTrap (logItem m a 5 i.err) a 0x04 x.src (chTrap n)))
      else some (.ok (rowBytes i.found.v) (engPop m a (x.src.toNat % 16) i t))
  else none

/-- Up to `k` bytes of the source, read by granules of 32: what comes before the first that stops the channel, the machine after it,
and whether one did (R231). -/
def readPieces (fuel : Nat) (m : Mach) (a n : Nat) (ad : Dword) (k : Nat) : List Byte × Mach × Bool :=
  match fuel with
  | 0 => ([], m, false)
  | f + 1 =>
    if k = 0 then ([], m, false)
    else
      match chRead m a n ad (min 32 k) false with
      | .stop m => ([], m, true)
      | .ok d m =>
        let r := readPieces f m a n (ad + dw (min 32 k)) (k - min 32 k)
        (d.1 ++ r.1, r.2)
/-- One post of a CPYP: at most 512 bytes, or a row; less where its source stops the channel. -/
def stepCpyp (m : Mach) (a n : Nat) (x : CCmd) : Mach :=
  let k := min (if ctlQS x.ctl || ctlQD x.ctl then 256 else 512) (x.len - x.done)
  let send := fun (m : Mach) (bs : List Byte) =>
    -- the answer may come at once, from an inbox: the command waits for it before the post is sent
    let task := ctlTask x.ctl
    let key := waitKey task (seqNext ((m.agent a).sent task)) bs.length
    let m := chMoved m a n bs.length false [key]
    (sendPost m a n x task (if ctlQD x.ctl then x.dst else x.dst + dw x.done) bs false).1
  if ctlQS x.ctl then
    match postSource m a n x with
    | none => m
    | some (.stop m) => chHalt m a n
    | some (.ok bs m) => send m (bs.take k)
  else
    let r := readPieces 17 m a n (x.src + dw x.done) k
    let m := if r.2.2 then chHalt r.2.1 a n else r.2.1
    -- a row for a queue is whole
    if r.1 = [] ∨ (ctlQD x.ctl ∧ r.2.2) then m else send m r.1

/-- Bytes of a CPYM written here, in steps of 32 by which WPOS moves (R209), as far as they go. -/
def writePieces (fuel : Nat) (m : Mach) (a n : Nat) (x : CCmd) (bs : List Byte) : Nat × Mach × Bool :=
  match fuel with
  | 0 => (0, m, false)
  | f + 1 =>
    if bs = [] then (0, m, false)
    else
      let p := bs.take 32
      match chWrite m a n x (x.dst + dw x.done) p false with
      | .stop m => (0, m, true)
      | .ok _ m =>
        let x := { x with done := x.done + p.length }
        let m := m.modAgent a fun c => (c.setChan n { c.chan n with cmds := x :: (c.chan n).cmds.drop 1 }).addWpos n p.length
        let r := writePieces f m a n x (bs.drop 32)
        (p.length + r.1, r.2)
/-- One read of a CPYM, written here and posted to the other members of the gang (R431): as much as was read and written. -/
def stepCpym (m : Mach) (a n : Nat) (x : CCmd) : Mach :=
  let r := readPieces 17 m a n (x.src + dw x.done) (min 512 (x.len - x.done))
  let w := writePieces 17 r.2.1 a n x r.1
  let m := if r.2.2 || w.2.2 then chHalt w.2.1 a n else w.2.1
  if w.1 = 0 then m
  else
    let t := ((m.agent a).ctl.task).getD ⟨0, 0⟩
    let l := m.launch t.launch
    let others := (l.gangTasks (l.gangOf t.task)).filter (· != t.task)
    let keys := others.map fun u => waitKey u (seqNext ((m.agent a).sent u)) 0
    let m := chMoved m a n 0 false keys
    others.foldl (fun m u => (sendPost m a n x u (x.dst + dw x.done) (r.1.take w.1) true).1) m

/-- The remote read of a CPY with a fabric source leaves the package: for all that is still to come (R22, R428). -/
def askFabric (m : Mach) (a n : Nat) (x : CCmd) : Mach :=
  let ad := x.src + dw x.done
  let node := (SMap.get (fun _ => 0) (m.partn (m.agent a).ctl.part).fab (bits ad 59 49)).toNat
  let m := m.modAgent a fun c => c.setChan n { c.chan n with cmds := { x with asked := true } :: (c.chan n).cmds.drop 1 }
  m.send (readRequest node (bits ad 48 0) (x.len - x.done))
/-- After a refusal the granule is asked for again when the channel resumes (R429). -/
def askAgain (m : Mach) (a n : Nat) (x : CCmd) : Mach :=
  m.modAgent a fun c => c.setChan n { c.chan n with cmds := { x with asked := false } :: (c.chan n).cmds.drop 1 }
/-- One step of a CPY: 32 bytes, or a row into a queue. `fab` is what a remote read brought: bytes, or none refused; before it is asked for,
nothing comes. -/
def stepCpy (m : Mach) (a n : Nat) (x : CCmd) (fab : Option (List Byte)) : Mach :=
  let k := min (if ctlQD x.ctl then 256 else 32) (x.len - x.done)
  let ad := x.src + dw x.done
  let fabric := tagOfAddr x.src == tagFabric
  if fabric && !x.asked then askFabric m a n x
  else if ctlQD x.ctl && decide (hqDepth (x.dst.toNat % 16) ≤ ((m.agent a).hq (x.dst.toNat % 16)).items.length) then m
  else
    match if fabric then (match fab with
        | none => Got.stop (engineTrap m a 0x05 ad (chTrap n))
        | some bs => .ok (bs, false) m)
      else chRead m a n ad k (ctlQD x.ctl) with
    | .stop m => chHalt (if fabric then askAgain m a n x else m) a n
    | .ok d m' =>
      if d.1.length < k then m
      else
        match chWrite m' a n x (x.dst + dw x.done) (d.1.take k) d.2 with
        | .stop m => chHalt m a n
        | .ok _ m => chMoved m a n k true []

/-- A channel does the next part of its command in progress. -/
def copyStep (m : Mach) (a n : Nat) (fab : Option (List Byte)) : Mach :=
  let ch := (m.agent a).chan n
  match ch.cmds with
  | [] => m
  | x :: _ =>
    if !m.runs a || ch.halted || decide (x.len ≤ x.done) then m
    else
      match x.op with
      | 0 => stepCpy m a n x fab
      | 1 => stepCpyp m a n x
      | _ => stepCpym m a n x

/-! ### CWAIT and CWPOS (R432) -/

/-- Race bits of the channel at positions below `lim`, or all of them, are cleared, while checking is on (R214, R215). -/
def clearRace (on : Bool) (c : Core) (n : Nat) (lim : Option Nat) : Core :=
  c.modMem fun x => if !on then x else { x with race := x.race.filter fun e =>
    e.2 / 32 != 2 + n || match lim with
      | some l => decide (l ≤ SMap.get (fun _ => 0) x.rpos e.1)
      | none => false }

def cwaitWord (n a : Nat) (all : Bool) : Exec Unit :=
  orLate (do
    let m ← getOld
    if all then
      if (m.core.chan n).cmds = [] then modM fun x => x.modCore fun c => clearRace m.core.raceOn c n none else hold 0
    else do
      let x ← rdClean a
      if x.toNat ≤ (m.csr (csrWPOS n)).toNat then modM fun y => y.modCore fun c => clearRace m.core.raceOn c n (some x.toNat)
      else hold 0) lateTrap

/-- The position a channel will reach. -/
def Core.finalPos (c : Core) (n : Nat) : Dword :=
  c.csr true (csrWPOS n) +
    dw ((c.chan n).cmds.foldl (fun s x => s + (x.len - x.done) + (x.wait.map (· % 1024)).sum) 0)
def cwposWord (d n : Nat) : Exec Unit := do
  let m ← getM
  wrS d ⟨m.core.finalPos n, false⟩ 1

/-! ### Posts that were refused or held -/

/-- A refused post is sent again (R172, R204). -/
def resendPost (m : Mach) (a : Nat) : Mach :=
  match (m.agent a).eng.posts with
  | [] => m
  | p :: t => if m.runs a then sendPkt (m.modAgent a fun c => c.modEng fun e => { e with posts := t }) p else m
/-- Held packets that are next are delivered where there is room (R174). -/
def heldDelivery (m : Mach) (a : Nat) : Mach :=
  match (m.agent a).ctl.task with
  | some t => if m.takes a t then replayAll m a t else m
  | none => m
/-- A transport failure ends the launch of a fabric copy in progress (R429). -/
def fabricFailure (m : Mach) (a n : Nat) : Mach :=
  match ((m.agent a).chan n).cmds, (m.agent a).ctl.task with
  | x :: _, some t => if x.op = 0 ∧ tagOfAddr x.src = tagFabric then endLaunch m t.launch 12 0 else m
  | _, _ => m

/-! ### The words and steps -/

/-- CPY (R428). -/
def execCpy (d : BitVec 6) (a : BitVec 6) (c : BitVec 6) (st : State) : Res :=
  word (.cpy d a c) (copyWord 0 (fld d) (fld a) (fld c)) st
/-- CPYP (R430). -/
def execCpyp (d : BitVec 6) (a : BitVec 6) (c : BitVec 6) (st : State) : Res :=
  word (.cpyp d a c) (copyWord 1 (fld d) (fld a) (fld c)) st
/-- CPYM (R431). -/
def execCpym (d : BitVec 6) (a : BitVec 6) (c : BitVec 6) (st : State) : Res :=
  word (.cpym d a c) (copyWord 2 (fld d) (fld a) (fld c)) st
/-- CWAIT (R432). -/
def execCwait (n : BitVec 1) (a : BitVec 6) (x : BitVec 1) (st : State) : Res :=
  word (.cwait n a x) (cwaitWord (fld n) (fld a) (x == 1)) st
/-- CWPOS (R432). -/
def execCwpos (d : BitVec 6) (n : BitVec 1) (st : State) : Res := word (.cwpos d n) (cwposWord (fld d) (fld n)) st
/-- COPY_CHANNEL_TRANSFER (R209): bytes of a remote read in `bytes`, refused when `c` is 1. -/
def execCopyChannelTransfer (st : State) : Res :=
  runEvent (fun x m => copyStep m x.a (x.b % 2) (if x.c = 1 then none else some x.bytes)) st
/-- FABRIC_TRANSPORT_FAILURE (R429). -/
def execFabricTransportFailure (st : State) : Res := runEvent (fun x m => fabricFailure m x.a (x.b % 2)) st
/-- POST_ARRIVAL (R204). -/
def execPostArrival (st : State) : Res := runEvent (fun x m => arriveAt m x.a) st
/-- PACKET_RESEND (R172). -/
def execPacketResend (st : State) : Res := runEvent (fun x m => resendPost m x.a) st
/-- INBOX_HELD_DELIVERY (R174). -/
def execInboxHeldDelivery (st : State) : Res := runEvent (fun x m => heldDelivery m x.a) st

end Sys2Proof.Machine
end

