-- ==== Sys2Proof/Machine/Sha3.lean ====
section
/-!
DEFINITION. SHA3-256 (FIPS 202, the standard that 02 R33 names; also R43, 13 R332): the digest of a string of bytes.
-/
namespace Sys2Proof.Machine

/-- A lane of 64 bits turned left. -/
def keccakRot (x n : Nat) : Nat := (x <<< n) % 2 ^ 64 ||| x >>> (64 - n)
/-- Lane (x, y) stands at x + 5y. -/
def keccakLane (a : List Nat) (x y : Nat) : Nat := a.getD (x % 5 + 5 * (y % 5)) 0
/-- The turn of each lane, and the constant of each round. -/
def rhoTable : List Nat := [0, 1, 62, 28, 27, 36, 44, 6, 55, 20, 3, 10, 43, 25, 39, 41, 45, 15, 21, 8, 18, 2, 61, 56, 14]
def iotaTable : List Nat :=
  [0x1, 0x8082, 0x800000000000808A, 0x8000000080008000, 0x808B, 0x80000001, 0x8000000080008081, 0x8000000000008009,
   0x8A, 0x88, 0x80008009, 0x8000000A, 0x8000808B, 0x800000000000008B, 0x8000000000008089, 0x8000000000008003,
   0x8000000000008002, 0x8000000000000080, 0x800A, 0x800000008000000A, 0x8000000080008081, 0x8000000000008080,
   0x80000001, 0x8000000080008008]
/-- One round of the permutation: theta, then rho and pi, then chi and iota. -/
def keccakRound (a : List Nat) (rc : Nat) : List Nat :=
  let c := (List.range 5).map fun x => keccakLane a x 0 ^^^ keccakLane a x 1 ^^^ keccakLane a x 2 ^^^ keccakLane a x 3 ^^^ keccakLane a x 4
  let d := (List.range 5).map fun x => keccakLane c (x + 4) 0 ^^^ keccakRot (keccakLane c (x + 1) 0) 1
  let t := (List.range 25).map fun i => keccakRot (a.getD i 0 ^^^ d.getD (i % 5) 0) (rhoTable.getD i 0)
  -- lane (x, y) of the next state comes from lane (x + 3y, x)
  let b := (List.range 25).map fun i => keccakLane t (i % 5 + 3 * (i / 5)) (i % 5)
  (List.range 25).map fun i =>
    let x := i % 5
    let y := i / 5
    keccakLane b x y ^^^ ((2 ^ 64 - 1 - keccakLane b (x + 1) y) &&& keccakLane b (x + 2) y) ^^^ (if i = 0 then rc else 0)
/-- The permutation after a block of 136 bytes, given as 17 lanes, has been taken in. -/
def keccakTake (a block : List Nat) : List Nat :=
  iotaTable.foldl keccakRound ((List.range 25).map fun i => a.getD i 0 ^^^ block.getD i 0)
/-- Little-endian lanes of a string of bytes. -/
def keccakLanes (n : Nat) (bs : List Byte) : List Nat :=
  match n with
  | 0 => []
  | k + 1 => (bs.take 8).foldr (fun b x => x * 256 + b.toNat) 0 :: keccakLanes k (bs.drop 8)
def keccakAbsorb (n : Nat) (a : List Nat) (bs : List Byte) : List Nat :=
  match n with
  | 0 => a
  | k + 1 => keccakAbsorb k (keccakTake a (keccakLanes 17 bs)) (bs.drop 136)
/-- The digest, 32 bytes. -/
def sha3 (bs : List Byte) : List Byte :=
  let blocks := bs.length / 136 + 1
  let pad := blocks * 136 - bs.length
  let tail : List Byte := if pad = 1 then [0x86] else [0x06] ++ List.replicate (pad - 2) 0 ++ [0x80]
  ((keccakAbsorb blocks [] (bs ++ tail)).take 4).flatMap fun x => (List.range 8).map fun i => BitVec.ofNat 8 (x >>> (8 * i))

end Sys2Proof.Machine
end

