-- ==== Sys2Proof/Machine/Images.lean ====
section
/-!
DEFINITION. The task image (13_instruction_encoding R332-R335; 06 R154, R155): reading one from HBM, the checks of
LOADSLOT, and what a task start makes of a site.
-/
namespace Sys2Proof.Machine

/-! ### Device memory as the command cores' hardware reads it -/

/-- Physical pieces of a device range of a partition, or the first address not translated and WHY. -/
def devPieces (m : Mach) (part va n acc : Nat) : Except (Nat × Nat) (List (Nat × Nat)) :=
  (translateAll m (ccOf (m.partn part).lead) part 0 acc (pageSpans va n)).1
/-- Whether a device range lies partly on a stack that takes no requests (R159). -/
def devStalled (m : Mach) (part va n acc : Nat) : Bool :=
  match devPieces m part va n acc with
  | .ok ps => m.stalled ps
  | .error _ => false
/-- Bytes that are free values, from the `k`-th on. -/
def freeBytes (k n : Nat) : List Byte := (List.range n).map fun i => (Config.freeValue (k + i)).setWidth 8
/-- Bytes of device memory; bytes without a mapping are free values (no rule says what they are). -/
def devRead (m : Mach) (part va n : Nat) : List Byte :=
  match devPieces m part va n accRead with
  | .ok ps => (hbmRead m ps).1
  | .error _ => freeBytes m.free n

/-! ### The image (Tables 13-18, 13-19, R333) -/

def imgTLEN (bs : List Byte) : Nat := leAt bs 56 8
/-- Sections in table order. -/
def imgSect (bs : List Byte) (i : Nat) : Sect :=
  let o := 160 + 32 * i
  let foff := leAt bs (o + 16) 8
  { space := byteAt bs o, lc := nbits (byteAt bs (o + 1)) 1 0, x := nbit (byteAt bs (o + 1)) 2, off := leAt bs (o + 8) 8,
    mlen := leAt bs (o + 28) 4, bytes := (bs.drop foff).take (leAt bs (o + 24) 4) }
/-- Targets of switch point `k`: dense, medium, relaxed, with those missing filled (R154). -/
def imgSwitch (bs : List Byte) (k : Nat) : Nat × Nat × Nat :=
  let o := leAt bs 48 4 + 8 * k
  let d := leAt bs o 2
  let md := if leAt bs (o + 2) 2 = 0xFFFF then d else leAt bs (o + 2) 2
  (d, md, if leAt bs (o + 4) 2 = 0xFFFF then md else leAt bs (o + 4) 2)
/-- What a launch takes from an image. -/
def parseImage (bs : List Byte) : Image :=
  { w := byteAt bs 4, h := byteAt bs 5, g := leAt bs 8 4, flags := byteAt bs 3, nprof := byteAt bs 12, rfeat := leAt bs 16 8,
    domid := leAt bs 24 2, doml := byteAt bs 26,
    wqs := (List.range 4).map fun i => leAt bs (28 + 4 * i) 4,
    sw := (List.range (leAt bs 52 2)).map (imgSwitch bs),
    entries := (List.range (byteAt bs 13)).map fun i => leAt bs (128 + 2 * i) 2,
    sects := (List.range (byteAt bs 14)).map (imgSect bs) }

/-- Bytes of a local space by its tag; no section of another space but G. -/
def sectRoom (space : Nat) : Option Nat :=
  if space = 8 then some (2 ^ 19) else if space = 9 ∨ space = 10 then some (2 ^ 22) else if space = 12 then some (2 ^ 16)
  else none

/-- One entry of the section table (R334). -/
def sectOk (bs : List Byte) (i : Nat) : Bool :=
  let o := 160 + 32 * i
  let sp := byteAt bs o
  let b1 := byteAt bs (o + 1)
  let off := leAt bs (o + 8) 8
  let foff := leAt bs (o + 16) 8
  let flen := leAt bs (o + 24) 4
  let mlen := leAt bs (o + 28) 4
  zeroAt bs (o + 2) 6 && foff % 8 == 0 && decide (foff + flen ≤ imgTLEN bs) && decide (flen ≤ mlen) &&
    (if sp = 9 ∨ sp = 10 then decide (b1 < 8) else b1 == 0) &&
    (match sectRoom sp with
      | some n => decide (off + mlen ≤ n)
      | none => sp == 0 && off == 0 && mlen == flen)

/-- No two sections of one local space overlap. -/
def sectsApart (l : List Sect) : Bool :=
  match l with
  | [] => true
  | s :: t =>
    (s.space == 0 || t.all fun u => u.space != s.space || decide (s.off + s.mlen ≤ u.off) || decide (u.off + u.mlen ≤ s.off)) &&
      sectsApart t

/-- An address an image may start at or switch to: a multiple of 4 inside an I section. -/
def targetOk (img : Image) (a : Nat) : Bool :=
  a % 4 == 0 && img.sects.any fun s => s.space == 12 && decide (s.off ≤ a) && decide (a < s.off + s.mlen)

/-- The switch-point table (R154, R333). -/
def switchOk (bs : List Byte) (img : Image) : Bool :=
  let off := leAt bs 48 4
  let n := leAt bs 52 2
  if off = 0 then n == 0
  else
    off % 8 == 0 && decide (1 ≤ n) && decide (n ≤ 256) && decide (off + 8 * n ≤ imgTLEN bs) && img.entries.length == 1 &&
      img.entries.head? == (img.sw.head?.map fun e => e.1) &&
      (List.range n).all fun k => leAt bs (off + 8 * k) 2 != 0xFFFF && zeroAt bs (off + 8 * k + 6) 2 &&
        (let e := imgSwitch bs k; targetOk img e.1 && targetOk img e.2.1 && targetOk img e.2.2)

/-- The checks of LOADSLOT (R334) over the NTIL bytes of an image. -/
def imageOk (bs : List Byte) (ntil : Nat) : Bool :=
  let img := parseImage bs
  let tlen := imgTLEN bs
  leAt bs 0 2 == 0x4C50 && byteAt bs 2 == 1 && decide (byteAt bs 3 < 4) && zeroAt bs 6 2 && zeroAt bs 15 1 &&
    zeroAt bs 27 1 && zeroAt bs 44 4 && zeroAt bs 54 2 && zeroAt bs 96 32 &&
    decide (tlen ≤ ntil) &&
    decide (leAt (sha3 ((bs.take 64) ++ List.replicate 32 0 ++ (bs.take tlen).drop 96)) 0 32 = leAt bs 64 32) &&
    decide (1 ≤ img.w) && decide (img.w ≤ 12) && decide (1 ≤ img.h) && decide (img.h ≤ 12) && decide (1 ≤ img.g) &&
    decide (img.g ≤ 65535) && decide (img.g * img.w * img.h ≤ 1048575) && decide (img.nprof ≤ 7) &&
    decide (1 ≤ img.entries.length) && decide (img.entries.length ≤ 16) && decide (1 ≤ img.sects.length) &&
    decide (img.sects.length ≤ 32) && decide (img.rfeat < 64) &&
    (if img.domid = 0xFFFF then img.doml == 0 else decide (img.domid < 4096) && decide (1 ≤ img.doml) && decide (img.doml ≤ 64)) &&
    (img.wqs.all fun e => nbits e 14 13 == 0 && nbits e 31 16 == 0 &&
      (nbits e 12 0 == 0 || (decide (16 ≤ nbits e 12 0) && decide (nbits e 12 0 ≤ 4096)))) &&
    ((List.range 16).all fun i => decide (i < img.entries.length) || zeroAt bs (128 + 2 * i) 2) &&
    ((List.range img.sects.length).all (sectOk bs)) && sectsApart img.sects && img.entries.all (targetOk img) &&
    switchOk bs img

/-- The image a slot names, at the address its record gives. -/
def imageAt (m : Mach) (part nti : Nat) : Image :=
  parseImage (devRead m part nti (leAt (devRead m part (nti + 56) 8) 0 8))

/-- Whether an image can be read now. -/
def imageReady (m : Mach) (part nti : Nat) : Bool :=
  !devStalled m part nti 64 accRead && !devStalled m part nti (leAt (devRead m part (nti + 56) 8) 0 8) accRead

/-! ### Starting a task (R335, R155, R118, R63) -/

/-- The variant Table 6-1 names for a level. -/
def variantOf (lvl : Nat) : Nat := min lvl 2
/-- Target `k` of a variant. -/
def Image.target (img : Image) (k var : Nat) : Nat :=
  let e := (img.sw[k]?).getD (0, 0, 0)
  if var = 0 then e.1 else if var = 1 then e.2.1 else e.2.2

/-- Write a section into a site's spaces; its row groups are valid, with the section's class and extend bit. -/
def placeSect (c : Core) (s : Sect) : Core :=
  if s.mlen = 0 then c
  else
    let groups := fun (c : Core) (w : Bool) =>
      (groupsOf s.off s.mlen).foldl (fun c k => c.setGroup w k ⟨true, s.x, s.lc, 0, false, false, false⟩) c
    match s.space with
    | 8 => c.modMem fun x => { x with sm := x.sm.writeList s.off s.bytes }
    | 9 => groups (c.modMem fun x => { x with am := x.am.writeList s.off s.bytes }) false
    | 10 => groups (c.modMem fun x => { x with wm := x.wm.writeList s.off s.bytes }) true
    | 12 => c.modMem fun x => { x with im := x.im.writeList s.off s.bytes }
    | _ => c

/-- DMEM0 to DMEM3 of a task (Tables 5-1, 5-2); `count` is what its level-3 domain counts so far (R120). -/
def dmemOf (l : Launch) (key count d task : Nat) : Dword :=
  match d with
  | 0 => dw (task * 2 ^ 40 + 2 ^ 20)
  | 1 => dw (l.gangOf task * 2 ^ 40 + l.per * 2 ^ 20 + task % l.per)
  | 2 => dw (keyInv key * 2 ^ 40 + l.tasks * 2 ^ 20 + task)
  | _ => if l.img.domid = 0xFFFF then 0 else dw (l.img.domid * 2 ^ 52 + count * 2 ^ 26 + (l.domBase + task))

/-- What a task starts with: sections, mode and profile, membership and buffers, and its first address. -/
def startCore (m : Mach) (t : TaskId) (site : Nat) : Core :=
  let l := m.launch t.launch
  let c : Core := { ctl := { task := some t, vf := l.vf, part := l.part } }
  let c := l.img.sects.foldl placeSect c
  let dom : Dom := SMap.get (fun _ => {}) (m.partn l.part).doms l.img.domid
  let c := (List.range 4).foldl (fun c d => c.setCsr true (0x30 + d) (dmemOf l t.launch dom.count d t.task)) c
  let c := (List.range 16).foldl (fun c k => c.setCsr true (0x50 + k) ((l.bufs[k]?).getD 0)) c
  let c := (c.setCsr true 0x016 (dwBool (nbit l.img.flags 0))).setCsr true 0x003 (dw l.img.nprof)
  let var := if l.img.sw = [] then 0 else variantOf (m.die (dieOf site)).lvl
  let c := c.setCsr true 0x043 (dw (4 * var))
  let pc := dw (if l.img.sw = [] then (l.img.entries[l.entry]?).getD 0 else l.img.target 0 var)
  c.modRf fun r => { r with pc := pc, npc := pc }

/-- What a phase image resumes as on a site (R186). -/
def phaseStart (m : Mach) (t : TaskId) (old : Core) : Core :=
  let c := ((m.launch t.launch).img.sects.filter fun s => s.space == 12).foldl placeSect
    { old with rf := { csr := old.rf.csr } }
  c.modRf fun r => { r with pc := old.rf.pc, npc := old.rf.pc }

/-- The words a section has been written to hold what an injection armed for one of them makes of it (R238). -/
def placed (m : Mach) (a : Nat) (l : List Sect) : Mach := l.foldl (fun m s =>
  let put := fun (ary : Nat) => if s.mlen = 0 then m else noteWrite m a ary s.off s.mlen
  match s.space with
  | 8 => put 0
  | 9 => put 3
  | 10 => put 4
  | 12 => put 2
  | _ => m) m

end Sys2Proof.Machine
end

