-- ==== Sys2Proof/Machine/Streams.lean ====
section
/-!
DEFINITION. Hardware queues and stream engines (08_the_tile R200-R207; 17_matrix_and_engine_instructions R425, R426):
their words, and the step of a stream engine that moves one row.
-/
namespace Sys2Proof.Machine

def Core.se (c : Core) (n : Nat) : SEng := SMap.get (fun _ => {}) c.eng.se n
def Core.setSe (c : Core) (n : Nat) (x : SEng) : Core :=
  c.modEng fun e => { e with se := SMap.set (fun _ => {}) e.se n x }

/-! ### Programs (Tables 8-9, 8-10) -/

def SEng.nstep (e : SEng) : Nat := byteAt e.prog 0
def SEng.reps (e : SEng) : Nat := leAt e.prog 2 2
/-- Field of step `i`. -/
def SEng.fld (e : SEng) (i off n : Nat) : Nat := leAt e.prog (16 + 64 * i + off) n
def SEng.kind (e : SEng) (i : Nat) : Nat := e.fld i 0 1
def SEng.toSpace (e : SEng) (i : Nat) : Bool := nbit (e.fld i 1 1) 0
def SEng.lc (e : SEng) (i : Nat) : Nat := nbits (e.fld i 1 1) 2 1
def SEng.q (e : SEng) (i : Nat) : Nat := e.fld i 2 1
def SEng.ndim (e : SEng) (i : Nat) : Nat := nbits (e.fld i 3 1) 2 0
def SEng.iq (e : SEng) (i : Nat) : Nat := nbits (e.fld i 3 1) 3 0
def SEng.base (e : SEng) (i : Nat) : Dword := dw (e.fld i 8 8)
def SEng.cnt (e : SEng) (i d : Nat) : Nat := e.fld i (16 + 8 * d) 4
def SEng.str (e : SEng) (i d : Nat) : Int := sext 32 (e.fld i (20 + 8 * d) 4)
/-- Dimensions a step uses: a gather one, a mark none. -/
def SEng.dims (e : SEng) (i : Nat) : Nat :=
  if e.kind i = 1 then e.ndim i else if e.kind i = 2 then 1 else 0

/-- A well-formed step (R205). -/
def SEng.stepOk (e : SEng) (i : Nat) : Bool :=
  let k := e.kind i
  let b3 := e.fld i 3 1
  decide (1 ≤ k) && decide (k ≤ 3) && nbits (e.fld i 1 1) 7 3 == 0 && e.fld i 4 4 == 0 &&
    (match k with
      | 1 => decide (1 ≤ b3) && decide (b3 ≤ 6)
      | 2 => decide (b3 < 8) || (decide (12 ≤ b3) && decide (b3 < 16))
      | _ => b3 == 0) &&
    (if k = 3 then decide (12 ≤ e.q i) && decide (e.q i < 16)
     else decide (e.q i < if e.toSpace i then 12 else 8)) &&
    (List.range 6).all fun d => decide (d < e.dims i) == (e.cnt i d != 0)
/-- A well-formed program. -/
def SEng.wellFormed (e : SEng) : Bool :=
  decide (1 ≤ e.nstep) && decide (e.nstep ≤ 16) && byteAt e.prog 1 == 0 && zeroAt e.prog 4 12 &&
    (List.range e.nstep).all e.stepOk

/-- Whether a stream engine reaches a space: S, A and global both ways, W to read (R191). -/
def streamSpace (t : Nat) (toSpace : Bool) : Bool := t == tagS || t == tagA || t == 0 || (t == tagW && !toSpace)
/-- The rows of a step lie in a space the engine reaches; of a gather step only BASE is known before. -/
def SEng.spaceOk (e : SEng) (i : Nat) : Bool :=
  let b := e.base i
  let ds := (List.range (e.ndim i)).map fun d => ((e.cnt i d : Int) - 1) * e.str i d
  let lo := (offOf b : Int) + ds.foldl (fun s x => if x < 0 then s + x else s) 0
  let hi := (offOf b : Int) + ds.foldl (fun s x => if 0 < x then s + x else s) 0
  match e.kind i with
  | 1 => streamSpace (tagOfAddr b) (e.toSpace i) && decide (0 ≤ lo) &&
      decide (hi + 256 ≤ 2 ^ ((spaceBits (tagOfAddr b)).getD 0))
  | 2 => streamSpace (tagOfAddr b) (e.toSpace i) && inSpace b 1
  | _ => true
/-- The queues of a step are bound to engine `n`. -/
def SEng.boundOk (e : SEng) (c : Core) (n i : Nat) : Bool :=
  let q := c.hq (e.q i)
  q.bound && (if e.toSpace i && e.kind i != 3 then q.cons == 1 + n else q.prod == 1 + n) &&
    (e.kind i != 2 || ((c.hq (e.iq i)).bound && (c.hq (e.iq i)).cons == 1 + n))

/-! ### Stream words (R425) -/

/-- The pace of the row an engine stands at, in cycles: from S one in 4, from A or W one in 2 (Table 8-5); none for other rows. -/
def SEng.rate (e : SEng) : Nat :=
  let i := e.step
  let t := tagOfAddr (e.base i)
  if e.kind i = 3 ∨ e.toSpace i then 0 else if t = tagS then 4 else if t = tagA ∨ t = tagW then 2 else 0

/-- SLOAD. -/
def sloadWord (n a : Nat) : Exec Unit :=
  orLate (do
    let m ← getOld
    let x ← rdClean a
    needWord ((m.core.se n).st != 2) 0x01
    need (tagOfAddr x == tagS && x.toNat % 16 == 0 && inSpace x 16) 0x0B x
    let h ← taskReadS (offOf x) 16
    let ns := byteAt h 0
    if 1 ≤ ns ∧ ns ≤ 16 then do
      need (inSpace x (16 + 64 * ns)) 0x0B x
      let p ← taskReadS (offOf x) (16 + 64 * ns)
      modM fun m => m.modCore fun c => c.setSe n { st := 1, prog := p }
    else modM fun m => m.modCore fun c => c.setSe n { st := 1, prog := h }) lateTrap

/-- SGO. -/
def sgoWord (n : Nat) : Exec Unit := do
  let m ← getOld
  let e := m.core.se n
  needWord (e.st == 1 && e.wellFormed) 0x01
  match (List.range e.nstep).find? fun i => !e.spaceOk i with
  | some i => raise 0x0B (e.base i)
  | none => do
    needWord ((List.range e.nstep).all fun i => e.boundOk m.core n i) 0x07
    modM fun m => m.modCore fun c => c.setSe n { st := 2, prog := e.prog, nextAt := c.ctl.cyc + e.rate }
def sstopWord (n : Nat) : Exec Unit := modM fun m => m.modCore fun c =>
  let e := c.se n
  if e.st = 2 then c.setSe n { e with stop := true } else c
def swaitWord (n : Nat) : Exec Unit := do
  let m ← getOld
  if (m.core.se n).st = 2 then hold 0 else pure ()

/-! ### One row (STREAM_ROW_TRANSFER) -/

/-- The nest position after one more row, dimension 0 fastest; none at its end. -/
def nestNext (cnts pos : List Nat) : Option (List Nat) :=
  match cnts, pos with
  | c :: cs, p :: ps => if p + 1 < c then some ((p + 1) :: ps) else (nestNext cs ps).map fun t => 0 :: t
  | _, _ => none

/-- The engine past a step: the next step, the next pass, or the end of the program. -/
def SEng.nextStep (e : SEng) : SEng :=
  let e := { e with nest := [], moved := 0, pend := [] }
  if e.step + 1 < e.nstep then { e with step := e.step + 1 }
  else if e.reps = 0 ∨ e.pass + 1 < e.reps then { e with step := 0, pass := e.pass + 1 }
  else { st := 1, prog := e.prog }
/-- The engine past the row it stands at. -/
def SEng.past (e : SEng) : SEng :=
  let i := e.step
  match e.kind i with
  | 1 =>
    let pos := if e.nest = [] then List.replicate (e.ndim i) 0 else e.nest
    match nestNext ((List.range (e.ndim i)).map (e.cnt i)) pos with
    | some p => { e with nest := p }
    | none => e.nextStep
  | 2 => if e.moved + 1 < e.cnt i 0 then { e with moved := e.moved + 1, pend := e.pend.drop 1 } else e.nextStep
  | _ => e.nextStep
/-- The address of the row it stands at. -/
def SEng.rowAddr (e : SEng) : Dword :=
  let i := e.step
  if e.kind i = 2 then e.base i + dwInt ((((e.pend.head?).map Prod.fst).getD 0 : Nat) * e.str i 0)
  else e.base i + dwInt ((e.nest.zipIdx.map fun (p, d) => (p : Int) * e.str i d).foldl (· + ·) 0)

/-- Read a row for engine `n`, or write one. -/
def streamRead (m : Mach) (a n : Nat) (ad : Dword) : Got RowP :=
  let t := tagOfAddr ad
  let row := fun (d : List Byte × Bool) => (⟨rowOfBytes d.1, d.2⟩ : RowP)
  if t = tagS then
    match engReadS m a 4 n (offOf ad) 256 with
    | .ok d m => .ok (row d) m
    | .stop m => .stop m
  else if t = 0 then
    match engLoad m a (engSe n) (offOf ad) 256 (some .read) with
    | .ok d m => .ok (row d) m
    | .stop m => .stop m
  else
    let r := readBuf m a (t == tagW) (offOf ad) 256
    .ok (row (r.1.bytes, r.1.inval.isSome)) r.2
def streamWrite (m : Mach) (a n : Nat) (ad : Dword) (x : RowP) (cls : Nat) : Got Unit :=
  let t := tagOfAddr ad
  if x.p then .stop (engineTrap m a 0x04 ad n)
  else if t = tagS then engWriteS m a 4 n (offOf ad) (rowBytes x.v)
  else if t = 0 then engStore m a (engSe n) (offOf ad) (rowBytes x.v) (some .write)
  else .ok () (writeBuf m a false (offOf ad) (rowBytes x.v) cls false)

/-- The TLB entry of an engine for an address. -/
def tlbEntry (m : Mach) (a eng va : Nat) : Option TlbE :=
  (SMap.get (fun _ => []) (m.agent a).eng.tlb eng).find? fun e => e.covers va
/-- After an access at `ad` that found no entry in `m0` for a page it touches: the translation of the next page of the direction of
dimension 0 (R207). A walk that fails leaves nothing. -/
def streamAhead (m0 m : Mach) (a n acc : Nat) (ad : Dword) (back : Bool) : Mach :=
  if tagOfAddr ad ≠ 0 then m
  else (pageSpans (offOf ad) 256).foldl (fun m s =>
    match tlbEntry m0 a (engSe n) s.1, tlbEntry m a (engSe n) s.1 with
    | none, some e =>
      let va := if back then e.va - 1 else e.va + e.size
      if (back && e.va == 0) || decide (2 ^ 49 ≤ va) || (tlbEntry m a (engSe n) va).isSome then m
      else
        match translate m a (m.agent a).ctl.part (engSe n) va acc with
        | (.ok _, m) => m
        | (.error _, _) => m
    | _, _ => m) m

def modSe (m : Mach) (a n : Nat) (f : SEng → SEng) : Mach := m.modAgent a fun c => c.setSe n (f (c.se n))
/-- The engine halts when a trap of its stands recorded (R215). -/
def seHalt (m : Mach) (a n : Nat) : Mach := m.modAgent a fun c => c.setSe n { c.se n with halted := c.trapped n }

/-- Move the row at `ad`. -/
def streamMove (m : Mach) (a n : Nat) (e : SEng) : Mach :=
  let i := e.step
  let ad := e.rowAddr
  let q := (m.agent a).hq (e.q i)
  let c := m.agent a
  -- rows of a local space follow one another at their pace (R193)
  let past := fun (m : Mach) => modSe m a n fun x =>
    let y := x.past
    { y with nextAt := (if e.rate = 0 then c.ctl.cyc else e.nextAt) + y.rate }
  let back := decide (e.str i 0 < 0)
  if e.toSpace i then
    match q.items with
    | [] => m
    | x :: rest =>
      if ad.toNat % 32 ≠ 0 ∨ !inSpace ad 256 then seHalt (engineTrap m a 0x0B ad n) a n
      else
        match streamWrite m a n ad x.found (e.lc i) with
        | .ok _ m' => past (engPop (streamAhead m m' a n accWrite ad back) a (e.q i) x rest)
        | .stop m => seHalt m a n
  else if hqDepth (e.q i) ≤ q.items.length then m
  else if ad.toNat % 32 ≠ 0 ∨ !inSpace ad 256 then seHalt (engineTrap m a 0x0B ad n) a n
  else
    match streamRead m a n ad with
    | .ok x m' => past (pushHq (streamAhead m m' a n accRead ad back) a (e.q i) x 1)
    | .stop m => seHalt m a n

/-- The indices of an item of the index queue. -/
def itemIndices (iq : Nat) (x : RowP) : List (Nat × Bool) :=
  if iq < 8 then (lanes 32 64 x.v).map fun i => (i, x.p) else [(laneAt 32 x.v 0, x.p)]

/-- Whether a running engine stands before the first row of a step. -/
def SEng.atStep (e : SEng) : Bool := e.nest == [] && e.moved == 0 && e.pend == []

/-- A running stream engine does what is next; once its task has stopped at a yield point it goes no further than the
next step (R182). -/
def streamStep (m : Mach) (a n : Nat) : Mach :=
  let e := (m.agent a).se n
  let i := e.step
  if !m.runs a || e.st != 2 || e.halted then m
  else if (m.agent a).ctl.wait == .yielded && e.atStep then m
  else if e.stop then modSe m a n fun e => { st := 1, prog := e.prog }
  else if e.rate ≠ 0 ∧ (m.agent a).ctl.cyc < e.nextAt then m
  else
    match e.kind i with
    | 1 =>
      let e := if e.nest = [] then { e with nest := List.replicate (e.ndim i) 0 } else e
      streamMove m a n e
    | 2 =>
      let iq := (m.agent a).hq (e.iq i)
      match e.pend, iq.items with
      | [], [] => m
      | [], x :: rest =>
        let m := engPop m a (e.iq i) x rest
        gatherRow (modSe m a n fun e => { e with pend := itemIndices (e.iq i) x.found }) a n i
      | _, _ => gatherRow m a n i
    | _ =>
      if hqDepth (e.q i) ≤ ((m.agent a).hq (e.q i)).items.length then m
      else modSe (pushHq m a (e.q i) ⟨(e.base i).setWidth 2048, false⟩ 1) a n fun x =>
        let y := x.past
        { y with nextAt := (m.agent a).ctl.cyc + y.rate }
where
  /-- The row of the first index; a poisoned index is a trap (R301). -/
  gatherRow (m : Mach) (a n i : Nat) : Mach :=
    let e := (m.agent a).se n
    match e.pend with
    | (_, true) :: _ => seHalt (engineTrap m a 0x04 (e.base i) n) a n
    | _ => streamMove m a n e

/-! ### Rows in their time (R193) -/

/-- Whether an engine of the issuing tile has a row of a local space to push, and the cycle of it. -/
def Core.rowDue (c : Core) (n : Nat) : Option Nat :=
  let e := c.se n
  if e.st = 2 ∧ !e.halted ∧ !e.stop ∧ e.rate ≠ 0 ∧ e.nextAt ≤ c.ctl.cyc ∧ (c.hq (e.q e.step)).items.length < hqDepth (e.q e.step) ∧
      (e.kind e.step = 1 ∨ e.pend ≠ [] ∨ (c.hq (e.iq e.step)).items ≠ []) ∧ !(c.ctl.wait == .yielded && e.atStep) then some e.nextAt
  else none
/-- The engine whose row is due first. -/
def Core.firstRow (c : Core) : Option Nat :=
  ((List.range 4).foldl (fun (b : Option (Nat × Nat)) n => match c.rowDue n, b with
    | some t, none => some (n, t)
    | some t, some x => if t < x.2 then some (n, t) else b
    | none, _ => b) none).map Prod.fst
/-- The rows of stream engines that are due, at most `k`; a row that waits for room is there when room comes. -/
def streamWork (k : Nat) (m : Mach) : Mach :=
  match k with
  | 0 => m
  | k + 1 =>
    match if m.runs m.me then m.core.firstRow else none with
    | some n => streamWork k (streamStep m m.me n)
    | none =>
      let c := m.core
      if c.eng.se.any fun e => e.2.st == 2 && e.2.rate != 0 && decide (e.2.nextAt < c.ctl.cyc) then
        m.modEng fun x => { x with se := x.se.map fun e =>
          (e.1, if e.2.st = 2 ∧ e.2.rate ≠ 0 then { e.2 with nextAt := max e.2.nextAt c.ctl.cyc } else e.2) }
      else m

/-! ### Queue words (R201, R426) -/

/-- Codes Table 17-7 allows for queue `n`. -/
def prodOk (n p : Nat) : Bool :=
  p == 0 || (if n < 8 then decide (p ≤ 8) else if n < 12 then p == 9 else decide (p ≤ 4) || p == 8 || p == 10 || p == 11)
def consOk (n c : Nat) : Bool := decide (c ≤ 5) || (decide (n < 12) && (c == 6 || c == 7))

/-- Whether an engine bound to queue `n` is active. -/
def queueBusy (c : Core) (n : Nat) : Bool :=
  let q := c.hq n
  let seRun := fun (k : Nat) => decide (1 ≤ k) && decide (k ≤ 4) && (c.se (k - 1)).st == 2
  let chRun := fun (k : Nat) => (k == 6 || k == 7) && (c.chan (k - 6)).cmds != []
  seRun q.prod || seRun q.cons || chRun q.prod || chRun q.cons || q.resv != 0 || c.eng.wpops.any fun w => w.hq == n

/-- QBIND. -/
def qbindWord (n p c o : Nat) : Exec Unit := do
  let m ← getM
  let q := m.hq n
  let task := p == 8 || c == 5
  needWord (prodOk n p && consOk n c && (task || o == 0) && !(p == 8 && c == 5)) 0x01
  needWord (!(q.bound && (q.items != [] || queueBusy m.core n))) 0x07
  let other := fun (k : Nat) =>
    let r := m.hq k
    k != n && r.bound && (r.prod == 8 || r.cons == 5) && r.port == o && (decide (12 ≤ k) == decide (12 ≤ n))
  needWord (!(task && (List.range 16).any other)) 0x07
  modM fun m => m.setHq n (if p = 0 ∧ c = 0 then {} else { bound := true, prod := p, cons := c, port := o })

/-- QFLUSH: a writer that faces a full queue goes on without its row. -/
def qflushWord (n : Nat) : Exec Unit := do
  let m ← getM
  let q := m.hq n
  if q.bound then do
    let full := decide (hqDepth n ≤ q.items.length)
    modM fun m => m.setHq n { q with items := [] }
    if full && 1 ≤ q.prod && q.prod ≤ 4 then
      modM fun m => m.modCore fun c =>
        let e := c.se (q.prod - 1)
        if e.st = 2 ∧ e.q e.step = n ∧ (e.kind e.step = 3 ∨ !e.toSpace e.step) then
          let e := if e.kind e.step = 1 ∧ e.nest = [] then { e with nest := List.replicate (e.ndim e.step) 0 } else e
          c.setSe (q.prod - 1) e.past
        else c
    else if full && (q.prod == 6 || q.prod == 7) then
      modM fun m => m.modCore fun c =>
        let k := q.prod - 6
        let ch := c.chan k
        match ch.cmds with
        | x :: t =>
          if x.op = 0 ∧ bit x.ctl 36 ∧ bits x.dst 3 0 = n then
            let d := min 256 (x.len - x.done)
            ((c.setChan k { ch with cmds := { x with done := x.done + d } :: t }).addWpos k d).settleChan k
          else c
        | [] => c
    else pure ()
  else pure ()

/-- QSTAT. -/
def qstatWord (d n : Nat) : Exec Unit := do
  let m ← getM
  let q := m.hq n
  let resv := if 8 ≤ n ∧ n < 12 then q.resv else 0
  wrS d ⟨dw (q.items.length + resv * 2 ^ 8 + (if q.bound then 2 ^ 15 else 0) + q.prod * 2 ^ 16 + q.cons * 2 ^ 20 +
    q.port * 2 ^ 24), false⟩ 1

/-! ### The words -/

/-- SLOAD (R425). -/
def execSload (n : BitVec 2) (a : BitVec 6) (st : State) : Res := word (.sload n a) (sloadWord (fld n) (fld a)) st
/-- SGO (R425). -/
def execSgo (n : BitVec 2) (st : State) : Res := word (.sgo n) (sgoWord (fld n)) st
/-- SSTOP (R425). -/
def execSstop (n : BitVec 2) (st : State) : Res := word (.sstop n) (sstopWord (fld n)) st
/-- SWAIT (R425). -/
def execSwait (n : BitVec 2) (st : State) : Res := word (.swait n) (swaitWord (fld n)) st
/-- QBIND (R426). -/
def execQbind (n : BitVec 4) (p : BitVec 4) (c : BitVec 4) (o : BitVec 2) (st : State) : Res :=
  word (.qbind n p c o) (qbindWord (fld n) (fld p) (fld c) (fld o)) st
/-- QFLUSH (R426). -/
def execQflush (n : BitVec 4) (st : State) : Res := word (.qflush n) (qflushWord (fld n)) st
/-- QSTAT (R426). -/
def execQstat (d : BitVec 6) (n : BitVec 4) (st : State) : Res := word (.qstat d n) (qstatWord (fld d) (fld n)) st
/-- STREAM_ROW_TRANSFER (R206). -/
def execStreamRowTransfer (st : State) : Res := runEvent (fun x m => streamStep m x.a (x.b % 4)) st

end Sys2Proof.Machine
end

