-- ==== Sys2Proof/Machine/WorkQ.lean ====
section
/-!
DEFINITION. Work queues (05_scheduling R136-R138; 17_matrix_and_engine_instructions R434, R435).
-/
namespace Sys2Proof.Machine

/-- The key of work queue `n` of a launch's image, when the image declares it: its scope is the launch or the
launch's domain (Table 13-18). -/
def wqKeyOf (key : Nat) (l : Launch) (n : Nat) : Option Nat :=
  match l.img.wqs[n]? with
  | some e =>
    if nbits e 12 0 = 0 then none
    else if nbit e 15 then some ((2 ^ 30 + l.part * 4096 + l.img.domid) * 4 + n)
    else some (key * 4 + n)
  | none => none
def Mach.myWq (m : Mach) (n : Nat) : Option Nat := wqKeyOf m.myTask.launch (m.launch m.myTask.launch) n
/-- Poppers by number: 32 × agent, and 16 plus its scalar queue more for a pop into one. -/
def popperOf (a : Nat) (hq : Option Nat) : Nat := 32 * a + match hq with
  | some q => 16 + q
  | none => 0

/-- What a popper receives at once (R137): the oldest item, when no popper waits; 2 when the queue is closed and empty. -/
def WQ.outcome (q : WQ) : Option (Nat × Dword) :=
  match q.items with
  | x :: _ => if q.poppers = [] then some (0, x) else none
  | [] => if q.closed then some (2, 0) else none
/-- The queue without the item just handed out. -/
def WQ.taken (q : WQ) : WQ := { q with items := q.items.drop 1 }

/-! ### Pops into a scalar queue -/

/-- Outcomes that have come enter their queues in the order of issue: the code, then the item (R434). -/
def pushPops (fuel : Nat) (m : Mach) (a : Nat) : Mach :=
  match fuel with
  | 0 => m
  | n + 1 =>
    match (m.agent a).eng.wpops with
    | w :: t =>
      match w.got with
      | some (code, x) =>
        let put := fun (m : Mach) (v : Nat) => pushHq m a w.hq ⟨BitVec.ofNat 2048 v, false⟩ 0
        let m := if code = 0 then put (put m code) x.toNat else put m code
        pushPops n (m.modAgent a fun c =>
          (c.setHq w.hq { c.hq w.hq with resv := (c.hq w.hq).resv - 2 }).modEng fun e => { e with wpops := t }) a
      | none => m
    | [] => m

/-- Give an agent's pop of a queue its outcome. -/
def popAnswer (m : Mach) (k a hq : Nat) (o : Nat × Dword) : Mach :=
  let mark := fun (l : List WPopQ) =>
    match l.findIdx? fun w => w.wq == k && w.hq == hq && w.got == none with
    | some i => l.modify i fun w => { w with got := some o }
    | none => l
  pushPops 4 (m.modAgent a fun c => c.modEng fun e => { e with wpops := mark e.wpops }) a

/-- A blocked popper is given its outcome: into its scalar queue, or kept for its bundle, which takes it when it issues again;
either belongs to the task from now on (R138). -/
def giveTo (m : Mach) (k p : Nat) (o : Nat × Dword) : Mach :=
  if 16 ≤ p % 32 then popAnswer m k (p / 32) (p % 16) o
  else m.modAgent (p / 32) fun c => c.modEng fun e => { e with wgot := some (k, o.1, o.2) }
/-- Serve the poppers that wait, the longest-waiting first: the oldest item each; outcome 2 once the queue is closed and empty (R137). -/
def wqServe (fuel : Nat) (m : Mach) (k : Nat) : Mach :=
  match fuel with
  | 0 => m
  | n + 1 =>
    let q := m.wq k
    match q.poppers, q.items with
    | p :: ps, x :: xs => wqServe n (giveTo (m.setWq k { q with poppers := ps, items := xs }) k p (0, x)) k
    | p :: ps, [] => if q.closed then wqServe n (giveTo (m.setWq k { q with poppers := ps }) k p (2, 0)) k else m
    | [], _ => m
def wqServeAll (m : Mach) (k : Nat) : Mach := wqServe ((m.wq k).poppers.length + 1) m k

/-- A resumed task joins again the lines of its outstanding pops, at the tail (R138). -/
def rejoinPops (m : Mach) (a : Nat) : Mach :=
  ((m.agent a).eng.wpops.filter fun w => w.got == none).foldl (fun m w =>
    let q := m.wq w.wq
    wqServeAll (m.setWq w.wq { q with poppers := q.poppers ++ [popperOf a (some w.hq)] }) w.wq) m

/-! ### Errors in the stage cache (R234, R238, log 14) -/

/-- Before a word uses a queue, an error in the queue's words is found: logged, and gone where it could be corrected; one that cannot
be ends the launch of the task that meets it (Table 9-9). -/
def wqRead (k : Nat) : Exec Unit := do
  let m ← getM
  match (m.wq k).err with
  | none => pure ()
  | some e =>
    let found := fun (m : Mach) => (logItem m m.me 7 (some e)).setWq k { m.wq k with err := none }
    if e.ue then stop (.hold 0 fun m => endLaunch (found m) m.myTask.launch 10 4) else modM found
/-- A word that has changed a queue has written its words in the lead panel's stage cache. -/
def wqWrote (k : Nat) : Exec Unit := modM fun m =>
  let e := injInto m (m.partn m.myPart).lead 7 0 (k + 2) ((m.wq k).cap + 8)
  match e.1 with
  | none => e.2.2
  | some r => e.2.2.setWq k { m.wq k with err := some r }

/-! ### The words -/

/-- Take the present bundle's place in a line, at its tail when it has none. -/
def placeIn (l : List Nat) (x : Nat) : Nat := (l.findIdx? (· == x)).getD l.length

/-- WPOP with Q = 0: what it was given while it waited, else what the queue has for it now. -/
def wpopWord (d n : Nat) (nb : Bool) : Exec Unit := do
  let m ← getM
  match m.myWq n with
  | none => raiseWord 0x07
  | some k => do
    wqRead k
    let q := { m.wq k with err := none }
    let me := popperOf m.me none
    let give := fun (code : Nat) (x : Dword) => do
      wrS d ⟨x, false⟩ 1
      wrS (d + 1) ⟨dw code, false⟩ 1
    let fresh := match q.outcome with
      | some (code, x) => do
        modM fun m => m.setWq k q.taken
        wqWrote k
        give code x
      | none =>
        if nb then give 1 0
        else holdWith fun m =>
          awaits (.pop k) (m.setWq k { q with poppers := if q.poppers.contains me then q.poppers else q.poppers ++ [me] })
    match m.core.eng.wgot with
    | some (j, code, x) =>
      if j = k then do
        modM fun m => m.modEng fun e => { e with wgot := none }
        give code x
      else fresh
    | none => fresh

/-- WPOP with Q = 1: two items of hqM are reserved; the outcome follows. -/
def wpopQWord (n : Nat) (nb : Bool) (hq : Nat) : Exec Unit := do
  let m ← getM
  match m.myWq n with
  | none => raiseWord 0x07
  | some k => do
    let h := m.hq hq
    needWord (h.bound && h.prod == 10) 0x07
    if hqDepth hq < h.items.length + h.resv + 2 || decide (4 ≤ m.core.eng.wpops.length) then hold 0
    else do
      wqRead k
      let q := { m.wq k with err := none }
      modM fun m => (m.setHq hq { h with resv := h.resv + 2 }).modEng fun e => { e with wpops := e.wpops ++ [⟨k, hq, none⟩] }
      match q.outcome with
      | some o => modM fun m => popAnswer (m.setWq k q.taken) k m.me hq o
      | none =>
        if nb then modM fun m => popAnswer m k m.me hq (1, 0)
        else modM fun m => m.setWq k { q with poppers := q.poppers ++ [popperOf m.me (some hq)] }
      wqWrote k

/-- WPUSH. -/
def wpushWord (d a n : Nat) (nb : Bool) : Exec Unit :=
  orLate (do
    let x ← rdClean a
    let m ← getM
    match m.myWq n with
    | none => raiseWord 0x07
    | some k => do
      wqRead k
      let q := { m.wq k with err := none }
      needWord (!q.closed) 0x07
      let i := placeIn q.pushers m.me
      if q.items.length + i < q.cap then do
        modM fun m => wqServeAll (m.setWq k { q with items := q.items ++ [x], pushers := q.pushers.eraseIdx i }) k
        wqWrote k
        wrS d ⟨1, false⟩ 1
      else if nb then wrS d ⟨0, false⟩ 1
      else holdWith fun m =>
        awaits (.push k) <| m.setWq k { q with pushers := if q.pushers.contains m.me then q.pushers else q.pushers ++ [m.me] }) (lateS d 1)

/-- WCLOSE. -/
def wcloseWord (n : Nat) : Exec Unit := do
  let m ← getM
  match m.myWq n with
  | none => raiseWord 0x07
  | some k => do
    wqRead k
    modM fun m => wqServeAll (m.setWq k { m.wq k with closed := true }) k
    wqWrote k

/-- WPOP (R434). -/
def execWpop (d : BitVec 6) (n : BitVec 2) (b : BitVec 1) (st : State) : Res :=
  word (.wpop d n b) (wpopWord (fld d) (fld n) (b == 1)) st
/-- WPOP_Q (R434). -/
def execWpopQ (n : BitVec 2) (b : BitVec 1) (m : BitVec 4) (st : State) : Res :=
  word (.wpopQ n b m) (wpopQWord (fld n) (b == 1) (fld m)) st
/-- WPUSH (R435). -/
def execWpush (d : BitVec 6) (a : BitVec 6) (n : BitVec 2) (b : BitVec 1) (st : State) : Res :=
  word (.wpush d a n b) (wpushWord (fld d) (fld a) (fld n) (b == 1)) st
/-- WCLOSE (R435). -/
def execWclose (n : BitVec 2) (st : State) : Res := word (.wclose n) (wcloseWord (fld n)) st

end Sys2Proof.Machine
end

