-- ==== Sys2Proof/Machine/Freeze.lean ====
section
/-!
DEFINITION. Freeze, soft yield, saving and thawing (07_freeze_and_preemption R162-R187): what a save slot receives, and
how a gang stops, leaves its sites and resumes.
-/
namespace Sys2Proof.Machine

/-! ### Save slots in HBM (R166-R171, Table 7-2) -/

/-- Physical pieces of `n` bytes at `off` of a task's save slot; none when it has no slot or the save area no mapping. -/
def slotPieces (m : Mach) (t : TaskId) (off n : Nat) : Option (List (Nat × Nat)) :=
  let l := m.launch t.launch
  let v := m.vf l.vf
  match v.saves.find? fun e => e.2 == taskKey t with
  | none => none
  | some (j, _) =>
    match SMap.get (fun _ => []) v.spill j with
    | [] =>
      match devPieces m l.part (bits v.vqd 45 18 * 2 ^ 21 + j * 0xA00000 + off) n accWrite with
      | .ok ps => some ps
      | .error _ => none
    | rs => some ((pageSpans off n).map fun s => (((rs[s.1 / regionSize]?).getD 0) * regionSize + s.1 % regionSize, s.2))
/-- Whether a task's save slot can be reached: its stack takes requests (R159). -/
def slotReady (m : Mach) (t : TaskId) : Bool :=
  match slotPieces m t 0 0xA00000 with
  | some ps => !m.stalled ps
  | none => true
/-- A save slot for a task that can be written now. -/
def readySave (m : Mach) (t : TaskId) : Option Mach := (takeSave m t).bind fun m => if slotReady m t then some m else none
/-- Store bytes in a task's save slot. -/
def slotStore (m : Mach) (t : TaskId) (off : Nat) (bs : List Byte) : Mach :=
  match slotPieces m t off bs.length with
  | some ps => hbmWriteAll m (m.launch t.launch).part ps bs
  | none => m

/-- Free values in a part of a task's save slot whose layout no rule gives (log 15). -/
def slotFree (m : Mach) (t : TaskId) (off n : Nat) : Mach :=
  match slotPieces m t off n with
  | some ps => hbmWriteAll { m with free := m.free + n } (m.launch t.launch).part ps (freeBytes m.free n)
  | none => m

/-- Zero a part of a task's save slot. -/
def slotBlank (m : Mach) (t : TaskId) (off n : Nat) : Mach :=
  match slotPieces m t off n with
  | some ps => ps.foldl (fun m p =>
      if keyErased m p.1 then m else markDirty (m.setHbm (m.sys.hbm.zero p.1 p.2)) (m.launch t.launch).part p.1) m
  | none => m
/-- Store `n` bytes of a memory of zeros and listed bytes in a task's save slot, by units of 4,096 bytes. -/
def slotMem (m : Mach) (t : TaskId) (off : Nat) (src : Memory) (n : Nat) : Mach :=
  (List.range (n / 4096)).foldl (fun m k =>
    if src.any fun e => e.1 / 4096 == k then slotStore m t (off + 4096 * k) (src.readList (4096 * k) 4096) else m)
    (slotBlank m t off n)

/-- Bytes padded with zeros to `n`. -/
def padTo (n : Nat) (bs : List Byte) : List Byte := bs ++ List.replicate (n - bs.length) 0

/-- Tile revision and digest of the scan layout of a die, fused (R169, Table 13-8). -/
def trevOf (die : Nat) : Nat := (Config.fused (48 + die)).toNat % 256
def ldigOf (die : Nat) : List Byte := (List.range 4).flatMap fun i => leBytes (Config.fused (64 + 4 * die + i)).toNat 8

/-- Receive-table entries (Table 7-4). -/
def rcvEntries (c : Core) : List (List Byte) := (c.eng.rcv.take 256).map fun e =>
  let src := if 2 ^ 20 ≤ e.1 then e.1 % 32 + 2 ^ 30 else e.1
  leBytes (src + 2 ^ 31) 4 ++ leBytes e.2 2 ++ leBytes 0 2
/-- Fault records (Table 7-5). -/
def fltEntries (c : Core) : List (List Byte) := c.ctl.flt.map fun e =>
  [BitVec.ofNat 8 e.1, BitVec.ofNat 8 e.2.1] ++ leBytes 0 6 ++ leBytes e.2.2.1 8 ++ leBytes e.2.2.2 8 ++ leBytes 0 8

/-- The image header (Table 7-3). -/
def imageHeader (m : Mach) (t : TaskId) (site kind : Nat) (arrays : Bool) : List Byte :=
  let l := m.launch t.launch
  let c := m.taskCore t
  let shadow := decide (kind ≤ 2)
  let die := dieOf site
  let i := t.task % l.per
  let slot := (((m.vf l.vf).saves.find? fun e => e.2 == taskKey t).map Prod.fst).getD 0
  let cr := c.ctl.crash.getD (0, 0)
  padTo 256 (
    leBytes 0x4C40 2 ++ [1, BitVec.ofNat 8 kind, BitVec.ofNat 8 (if shadow then trevOf die else 0),
      BitVec.ofNat 8 ((if arrays then 1 else 0) + if c.ctl.resp = [] then 0 else 2)] ++
    leBytes (rcvEntries c).length 2 ++ leBytes (fmaskOf m site) 8 ++ leBytes (l.img.rfeat ||| (l.gang (l.gangOf t.task)).rfeat) 8 ++
    (if shadow then ldigOf die else List.replicate 32 0) ++
    leBytes (l.vf % 1024 + keyInv t.launch * 2 ^ 16) 8 ++ leBytes (l.gangOf t.task) 2 ++
    [BitVec.ofNat 8 (i % l.img.w), BitVec.ofNat 8 (i / l.img.w)] ++ leBytes slot 2 ++ leBytes 0 2 ++ leBytes c.ctl.cyc 8 ++
    [BitVec.ofNat 8 (if kind = 1 then c.ctl.flt.length else 0), BitVec.ofNat 8 (if kind = 2 then cr.1 else 0),
      BitVec.ofNat 8 (if kind = 2 then cr.2 else 0), 0] ++
    leBytes (if kind = 4 then c.rf.pc.toNat else 0) 4)

/-- Header, receive table and fault records. -/
def putHeader (m : Mach) (t : TaskId) (site kind : Nat) (arrays : Bool) : Mach :=
  let c := m.taskCore t
  let m := slotStore m t 0 (imageHeader m t site kind arrays)
  let m := slotStore m t 0x100 (padTo 2048 (rcvEntries c).flatten)
  slotStore m t 0x900 (padTo 256 (if kind = 1 then (fltEntries c).flatten else []))
/-- The same and the 192 KiB after it: the registers of a phase image (R185); the scan chain or yield record of the other kinds, whose
layout no rule gives, are free values, and the context itself stays with the model (log 15). -/
def putImage (m : Mach) (t : TaskId) (site kind : Nat) (arrays : Bool) : Mach :=
  let c := m.taskCore t
  let m := putHeader m t site kind arrays
  if kind = 4 then
    let regs := (List.range 8).map (fun k => c.csr true (0x30 + k)) ++ (List.range 16).map fun k => c.csr true (0x50 + k)
    slotStore m t 0x1000 (regs.flatMap fun v => leBytes v.toNat 8)
  else slotFree m t 0x1000 0x30000

/-- The items of a queue in its place of Table 7-2. -/
def queueBytes (c : Core) (n : Nat) : List Byte :=
  let q := c.hq n
  if n < 12 then padTo (256 * hqDepth n) (q.items.flatMap fun i => rowBytes i.row.v)
  else padTo 128 (q.items.flatMap fun i => leBytes (i.row.v.toNat % 2 ^ 64) 8)

/-- The arrays of a context into its slot: C, S, I, queues, race-check bits, row-group table, valid groups (R176). -/
def putArrays (m : Mach) (t : TaskId) : Mach :=
  let c := m.taskCore t
  let m := c.mem.crow.foldl (fun m e => if e.1 < 1024 then slotStore m t (0x40000 + 256 * e.1) (rowBytes e.2.v) else m)
    (slotBlank m t 0x40000 0x40000)
  let m := slotMem m t 0x80000 c.mem.sm 0x80000
  let m := slotMem m t 0x100000 c.mem.im 0x10000
  let m := ((List.range 16).foldl (fun x n =>
    ((if (c.hq n).items = [] then x.1 else slotStore x.1 t x.2 (queueBytes c n)), x.2 + (queueBytes c n).length))
    (slotBlank m t 0x110000 (((List.range 16).flatMap (queueBytes c)).length), 0x110000)).1
  let m := slotStore m t 0x130000 ((List.range 16384).map fun g => BitVec.ofNat 8 (SMap.get (fun _ => 0) c.mem.race g))
  let rg := fun (w : Bool) => (List.range 1024).flatMap fun k =>
    let g := c.group w k
    leBytes ((if g.v then 2 ^ 31 else 0) + (if g.x then 2 ^ 30 else 0) + g.cls % 4 * 2 ^ 28 + g.age % 4096) 4
  let m := slotStore m t 0x134000 (rg false ++ rg true)
  let grp := fun (m : Mach) (w : Bool) => (List.range 1024).foldl (fun m k =>
    if (c.group w k).v then slotStore m t ((if w then 0x600000 else 0x200000) + 4096 * k) ((c.buf w).readList (4096 * k) 4096)
    else m) m
  grp (grp m false) true

/-! ### Errors and crash frames (R177, R180) -/

/-- Errors a save meets in queue items: logged, and an uncorrectable one is the item's poison from then on (R177). -/
def saveQueues (m : Mach) (a : Nat) : Mach :=
  (List.range 16).foldl (fun m n =>
    let q := (m.agent a).hq n
    if q.items.all fun i => i.err.isNone then m
    else (q.items.foldl (fun m i => logItem m a 5 i.err) m).modAgent a fun c =>
      c.setHq n { c.hq n with items := q.items.map fun i => ⟨i.found, i.src, none⟩ }) m
/-- Errors a save meets: an uncorrectable word of C becomes its row's poison, words of S and I keep theirs, each row group is read;
all are logged (R177, R234). -/
def saveReads (m : Mach) (a : Nat) : Mach :=
  let m := saveQueues m a
  let c := m.agent a
  if c.mem.err = [] then m
  else
    let m := (c.mem.err.filter fun e => e.1 / 2 ^ 40 == 0 || e.1 / 2 ^ 40 == 2).foldl (fun m e =>
      noteRead m a (e.1 / 2 ^ 40) (e.1 % 2 ^ 40 * 8) 8) m
    let rows := (c.mem.err.filter fun e => e.1 / 2 ^ 40 == 1).map fun e => e.1 % 2 ^ 40 / 32
    let m := rows.eraseDups.foldl (fun m r =>
      let x := crowRead m a r
      let m := x.2.modAgent a fun c => c.setRow r x.1
      m.modAgent a fun c => c.modMem fun y => { y with err := y.err.filter fun e => e.1 / 2 ^ 40 != 1 || e.1 % 2 ^ 40 / 32 != r }) m
    [false, true].foldl (fun m w => (List.range 1024).foldl (fun m k =>
      if ((m.agent a).group w k).v then (readBuf m a w (4096 * k) 4096).2 else m) m) m

/-- A crash frame is written with the arrays and its slot kept; event 0x0040 is posted and the launch ends (R180). -/
def crashFrame (m : Mach) (t : TaskId) (a : Nat) : Mach :=
  let l := m.launch t.launch
  let cause := ((m.agent a).ctl.crash.getD (0, 0)).1
  let m := keepCrash (putArrays (putImage (saveReads m a) t a 2 true) t) t
  let m := postEvent m 0x40 l.part l.vf 0xFF
    [BitVec.ofNat 8 (panelOfSite a), BitVec.ofNat 8 (localSite a), BitVec.ofNat 8 cause]
  endLaunch (freezeLaunch m t.launch 0) t.launch 10 cause

/-! ### Scan-out (R166, R167) -/

/-- The tile whose scan a panel's network takes next: first stopped, then lowest local site, among those with a slot. -/
def scanNext (m : Mach) (p : Nat) : Option Nat :=
  let sites := (List.range 1152).filter fun a => panelOfSite a == p && ((m.site a).tst == 3 || (m.site a).tst == 6)
  let order : Nat → Nat := fun a => (m.site a).ord * 64 + localSite a
  let ready := sites.filter fun a => match (m.site a).occ with
    | some t => (readySave m t).isSome
    | none => false
  (ready.foldl (fun (b : Option Nat) a => match b with
    | none => some a
    | some x => if order a < order x then some a else some x) none)

/-- A tile's scan-out ends (Table 7-1): its shadow image, or fault frame, lies in its slot; a crash frame ends the launch. -/
def scanOut (m : Mach) (a : Nat) : Option Mach :=
  let s := m.site a
  match s.occ with
  | some t =>
    if s.tst = 3 then
      (readySave m t).map fun m =>
        let kind := if (m.agent a).ctl.flt = [] then 0 else 1
        let m := (putImage m t a kind false).setSite a { s with tst := 4 }
        let l := m.launch t.launch
        let sites := l.gangSites (l.gangOf t.task)
        if sites.all fun b => (m.site b).tst != 3 then gsEvent m sites else m
    else if s.tst = 6 then (readySave m t).map fun m => crashFrame m t a
    else some m
  | none => some m

/-! ### Parking (R176, R177, R102) -/

/-- What arrays come back as: groups that were not valid are invalid and zero (R175). -/
def savedCore (c : Core) : Core :=
  let clean := fun (c : Core) (w : Bool) (l : SMap Group) => l.foldl (fun c e =>
    if e.2.v then c.setGroup w e.1 { e.2 with due := false }
    else dropErr ((c.setBuf w ((c.buf w).zero (4096 * e.1) 4096)).setGroup w e.1 {}) w e.1) c
  clean (clean c false c.mem.ag) true c.mem.wg

/-- Every scan of a gang ends, if each of its tasks can have a slot. -/
def scanGang (m : Mach) (key g : Nat) : Option Mach :=
  ((m.launch key).gangSites g).foldl (fun o a => o.bind fun m => scanOut m a) (some m)

/-- The arrays of a parked gang are saved and its sites become FREE (R176). -/
def saveGang (m : Mach) (key g : Nat) : Option Mach :=
  let l := m.launch key
  let gg := l.gang g
  if (gg.st = 2 ∨ gg.st = 3) ∧ !gg.saved ∧ !gangCrashed m key g ∧ (l.gangTasks g).all fun i => slotReady m ⟨key, i⟩ then
    (scanGang m key g).map fun m =>
      let m := (l.gangTasks g).foldl (fun m i =>
        let t : TaskId := ⟨key, i⟩
        let a := l.siteFor i
        let kind := if gg.st = 2 then 3 else if (m.agent a).ctl.flt = [] then 0 else 1
        let m := putArrays (putHeader (saveReads m a) t a kind true) t
        vacate (m.keepSaved t kind a (savedCore (m.agent a))) a) m
      gsEvent (m.setLaunch key ((m.launch key).setGang g { gg with saved := true })) (l.gangSites g)
  else none

/-- The parked gang on a site is saved because another reservation claims the site. -/
def claimSite (m : Mach) (a : Nat) : Option Mach :=
  match (m.site a).occ with
  | some t => saveGang m t.launch ((m.launch t.launch).gangOf t.task)
  | none => none

/-! ### Phase images (R185) -/

/-- A context reduced to its phase image (R185): where issue goes on, DMEM, PHASE and BUFB, and its pair counters, which
belong to the launch (R170). -/
def phaseCore (c : Core) : Core :=
  { rf := { csr := c.rf.csr.filter fun e => (decide (0x30 ≤ e.1) && decide (e.1 ≤ 0x37)) || (decide (0x50 ≤ e.1) && decide (e.1 ≤ 0x5F)),
            pc := c.rf.pc },
    eng := { snd := c.eng.snd, rcv := c.eng.rcv },
    ctl := { task := c.ctl.task, vf := c.ctl.vf, part := c.ctl.part, barq := c.ctl.barq,
             wait := if c.ctl.wait = .ended then .ended else .none } }

/-- The phase images of a gang past its barrier are written and its sites become FREE; none while a slot cannot be written. -/
def phaseGang (m : Mach) (key g : Nat) : Option Mach :=
  let l := m.launch key
  let gg := l.gang g
  if gg.toPhase ∧ !gangCrashed m key g then
    ((l.gangTasks g).foldl (fun o i => o.bind fun m => readySave m ⟨key, i⟩) (some m)).map fun m =>
      let m := (l.gangTasks g).foldl (fun m i =>
        let t : TaskId := ⟨key, i⟩
        let c := m.taskCore t
        let m := (putImage m t (l.siteFor i) 4 false).keepSaved t 4 (l.siteFor i) (phaseCore c)
        if gg.onSites then vacate m (l.siteFor i) else m) m
      gsEvent (m.setLaunch key ((m.launch key).setGang g { gg with st := 2, kind := 4, saved := true, toPhase := false, why := 0 }))
        (if gg.onSites then l.gangSites g else [])
  else none
/-- Whether every gang of a launch is held in phase form or has ended. -/
def launchHeld (l : Launch) : Bool :=
  l.phaseHold && (List.range l.img.g).all fun g => (l.gang g).st == 4 || ((l.gang g).kind == 4 && (l.gang g).saved)
/-- A launch is held no more: its gangs are admitted again. -/
def Launch.letGo (l : Launch) : Launch :=
  { l with phaseHold := false, gangs := l.gangs.map fun e =>
    (e.1, if e.2.toPhase || (e.2.st == 2 && e.2.kind == 4 && e.2.saved) then { e.2 with toPhase := false, why := 1 } else e.2) }
/-- The gangs of a launch whose phase images can be written take them; a launch held to move to other dies is let go once it stands
in phase form, one held for MQUIESCE stays (R185). -/
def phaseDue (m : Mach) (key : Nat) : Mach :=
  let m := (m.launch key).gangs.foldl (fun m e => (phaseGang m key e.1).getD m) m
  let l := m.launch key
  if launchHeld l ∧ (m.vf l.vf).mig < 2 then m.setLaunch key l.letGo else m

/-- SCAN_OUT_COMPLETE: of the tile that is next on its panel's network. -/
def scanStep (m : Mach) (a : Nat) : Mach :=
  if scanNext m (panelOfSite a) = some a then
    let key := ((m.site a).occ.map TaskId.launch).getD 0
    phaseDue ((scanOut m a).getD m) key
  else m

/-! ### Resuming (R173, R174, R183, R187) -/

/-- Whether a header that lies in a slot lets its image go to a site of a die: known, of its design, with every feature (R169). -/
def headerOk (m : Mach) (die : Nat) (h : List Byte) : Bool :=
  leAt h 0 2 == 0x4C40 && byteAt h 2 == 1 && decide (byteAt h 3 ≤ 4) &&
    (decide (2 < byteAt h 3) || (byteAt h 4 == trevOf die && (h.drop 24).take 32 == ldigOf die)) &&
    leAt h 16 8 &&& fmaskOf m (siteOf die 0 0) == leAt h 16 8
/-- The same of every image of a gang that has one in a slot. -/
def imagesOk (m : Mach) (key g die : Nat) : Bool :=
  ((m.launch key).gangTasks g).all fun i => match slotPieces m ⟨key, i⟩ 0 256 with
    | some ps => headerOk m die (hbmRead m ps).1
    | none => true
/-- Whether a gang's sites hold it untouched. -/
def inPlace (m : Mach) (key g : Nat) : Bool :=
  let l := m.launch key
  !(l.gang g).saved && (l.gangTasks g).all fun i =>
    let s := m.site (l.siteFor i)
    s.rst == 3 && s.occ == some ⟨key, i⟩
/-- Whether a fault record of a gang still lacks its mapping (R179). -/
def faultPending (m : Mach) (key g : Nat) : Bool :=
  let l := m.launch key
  m.sys.panels.any fun e => e.2.flts.any fun f => match f.task with
    | some t => f.eng != 9 && t.launch == key && l.gangOf t.task == g
    | none => false
/-- Whether the sites of a rectangle may run a launch's task: every feature it requires (R169, R184, R186, R187). -/
def featuresOk (m : Mach) (l : Launch) (g die : Nat) : Bool :=
  let f := l.img.rfeat ||| (l.gang g).rfeat
  f &&& fmaskOf m (siteOf die 0 0) == f
/-- Whether a stopped gang may go on on a die. -/
def mayThaw (m : Mach) (key g die : Nat) : Bool := featuresOk m (m.launch key) g die && imagesOk m key g die

/-- The context of a stopped task as it goes on: no TLB entry, no fault record, a yield point left; a drained loop
enters its first stage again (R183). -/
def thawCore (c : Core) : Core :=
  let yielded := c.ctl.wait == .yielded
  let c := c.modEng fun e => { e with tlb := [] }
  let c := c.modCtl fun k => { k with flt := [], yieldReq := false, blockAt := none, blockOn := none, wait := if yielded then .none else k.wait }
  if yielded then
    match c.ctl.loop with
    | some l =>
      if l.j = 0 then (c.modCtl fun k => { k with loop := some { l with j := 1 } }).setP 8 ⟨true, false⟩ else c
    | none => c
  else c

/-- A task that waited on a semaphore joins its list again, through the map as it stands now (R135, R134); an entry that
has become invalid is the ownership trap of R96. -/
def rejoinSem (m : Mach) (a : Nat) : Mach :=
  let c := m.agent a
  match c.ctl.wait with
  | .sem vsn _ _ n =>
    match semOf m c.ctl.part c.ctl.vf vsn with
    | some (p, i) =>
      (m.setSem p i (semJoin (m.sem p i) a n)).modAgent a fun c => c.modCtl fun k => { k with wait := .sem vsn p i n }
    | none => (engineTrap m a 0x05 (dw vsn) 8).modAgent a fun c => c.modCtl fun k => { k with wait := k.wait2, wait2 := .none }
  | _ => m

/-- A task goes on at its site: what its inboxes hold is replayed, and its waits are entered again. -/
def resumeTask (m : Mach) (t : TaskId) (a : Nat) : Mach :=
  let m := freeSave m t
  let m := m.modAgent a thawCore
  let m := m.setSite a { m.site a with rst := 2, tst := 1, holder := t.launch * 2 ^ 16 + (m.launch t.launch).gangOf t.task,
                                       occ := some t, last := (m.launch t.launch).vf }
  rejoinPops (rejoinSem (replayAll (moveHeld m t) a t) a) a

/-- A gang resumes where its contexts stand (Table 5-13). -/
def resumeGang (m : Mach) (key g : Nat) : Mach :=
  let l := m.launch key
  let m := m.setLaunch key (l.setGang g { l.gang g with st := 1, kind := 0, saved := false, askedAt := none, refused := 0, why := 0 })
  (l.gangTasks g).foldl (fun m i => resumeTask m ⟨key, i⟩ (l.siteFor i)) m

/-- Thaw in place. -/
def thawHere (m : Mach) (key g : Nat) : Mach := resumeGang m key g

/-- Thaw on new sites whose holds the caller has committed: contexts come from their slots, and the relocation table is
rewritten first (R173, R176, R186). -/
def thawAt (m : Mach) (key g die oy ox : Nat) : Mach :=
  let l := m.launch key
  let gg := l.gang g
  let m := m.setLaunch key (l.setGang g { gg with die := die, oy := oy, ox := ox })
  let l := m.launch key
  let m := (l.gangTasks g).foldl (fun m i =>
    let t : TaskId := ⟨key, i⟩
    let a := l.siteFor i
    let sv := SMap.get (fun _ => {}) m.sys.saved (taskKey t)
    let c := if gg.kind = 4 then phaseStart m t sv.core else sv.core
    let c := if gg.kind = 4 then c else savedCore c
    let m := (m.setAgent a c).onSys fun s => { s with saved := SMap.erase s.saved (taskKey t) }
    let m := if gg.kind = 4 then placed m a (l.img.sects.filter fun s => s.space == 12) else m
    let p := m.partn l.part
    m.setPart l.part { p with reloc := SMap.set (fun _ => 0) p.reloc (taskKey t) (a + 1) }) m
  resumeGang m key g

/-! ### Soft yield (R182, R183) -/

/-- Ask a resident gang to yield (Table 7-1); a crashed tile stays so. -/
def yieldGang (m : Mach) (key g why : Nat) : Mach :=
  let l := m.launch key
  let gg := l.gang g
  let m := m.setLaunch key (l.setGang g { gg with askedAt := some m.sys.ns, why := why })
  (l.gangSites g).foldl (fun m a =>
    if (m.site a).tst = 6 then m
    else (m.setSite a { m.site a with tst := 2 }).modAgent a fun c => c.modCtl fun k => { k with yieldReq := true }) m

/-- Whether a gang has been asked to yield and has not stopped. -/
def yielding (m : Mach) (key g : Nat) : Bool :=
  let l := m.launch key
  (l.gang g).st == 1 && (l.gang g).askedAt.isSome

/-- Engines quiet for a yield: no matrix operation, fill or copy command left, streams before a step. -/
def Core.yieldQuiet (c : Core) : Bool :=
  c.eng.mq == [] && c.eng.fills == [] && c.eng.ch.all (fun e => e.2.cmds == []) &&
    c.eng.se.all fun e => e.2.st != 2 || e.2.halted || e.2.atStep
/-- Whether a task has stopped for a yield, or needs to do nothing for it (R117). -/
def Core.atYield (c : Core) : Bool := (c.ctl.wait == .yielded || c.ctl.wait == .done || c.ctl.wait == .ended) && c.yieldQuiet

/-- YIELD_COMPLETE: every task has stopped with quiet engines; each writes a yield record (R183). -/
def yieldDone (m : Mach) (key g : Nat) : Mach :=
  let l := m.launch key
  if yielding m key g ∧ (l.gangSites g).all fun a => (m.agent a).atYield then
    match (l.gangTasks g).foldl (fun (o : Option Mach) i => o.bind fun m => readySave m ⟨key, i⟩) (some m) with
    | none => m
    | some m =>
      let m := (l.gangTasks g).foldl (fun m i =>
        let a := l.siteFor i
        (putImage m ⟨key, i⟩ a 3 false).setSite a { m.site a with rst := 3, tst := 5 }) m
      let m := m.onSys fun s => { s with seq := s.seq + 1 }
      let l := m.launch key
      gsEvent (m.setLaunch key (l.setGang g { l.gang g with st := 2, kind := 3, askedAt := none, order := m.sys.seq }))
        (l.gangSites g)
  else m

/-- SCAN_OUT_COMPLETE (R166). -/
def execScanOutComplete (st : State) : Res := runEvent (fun x m => scanStep m x.a) st
/-- YIELD_COMPLETE (R183). -/
def execYieldComplete (st : State) : Res := runEvent (fun x m => yieldDone m x.a x.b) st

end Sys2Proof.Machine
end

