-- ==== Sys2Proof/Machine/Sched.lean ====
section
/-!
DEFINITION. The scheduler (05_scheduling R115-R132, R142-R147): which launches are head of their sources, where a gang
may be placed, which gang is placed next, pre-emption by priority, time slices and the launch-residency rule.
-/
namespace Sys2Proof.Machine

/-! ### Quotas (R91, R92, R128) -/

/-- Whether PSMAP enables a site. -/
def siteOn (m : Mach) (a : Nat) : Bool := Nat.testBit (m.panel (panelOfSite a)).psmap (localSite a)
/-- Enabled tiles of a partition. -/
def partTiles (m : Mach) (part : Nat) : Nat :=
  (panelsOf (m.partn part).mask).foldl (fun n p => n + popCount 36 (m.panel p).psmap) 0
/-- VFs of a partition. -/
def partVfs (m : Mach) (part : Nat) : List (Nat × VF) := m.sys.vfs.filter fun e => e.2.live && e.2.part == part
/-- Tiles that the TS = 0 VFs leave free. -/
def poolTiles (m : Mach) (part : Nat) : Nat :=
  partTiles m part - ((partVfs m part).filter fun e => !e.2.ts).foldl (fun n e => n + e.2.tiles) 0
/-- Tiles of a VF's resident gangs. -/
def vfTiles (m : Mach) (vfn : Nat) : Nat :=
  m.sys.launches.foldl (fun n e =>
    if e.2.vf = vfn then n + (e.2.gangs.filter fun g => g.2.st == 1).length * e.2.per else n) 0
/-- Whether a VF's slice is running. -/
def Part.running (p : Part) (vfn : Nat) : Bool := p.slice.isSome && p.sliceVf == vfn
/-- Whether a further gang of a launch lies within its VF's own quota, and whether it may be placed at all: a
time-shared VF only in its slice, a burst VF also on the pool in its slice. -/
def ownQuota (m : Mach) (l : Launch) : Bool := decide (vfTiles m l.vf + l.per ≤ (m.vf l.vf).tiles)
def quotaOk (m : Mach) (l : Launch) : Bool :=
  let run := (m.partn l.part).running l.vf
  if (m.vf l.vf).ts then run && ownQuota m l
  else ownQuota m l || (run && decide (vfTiles m l.vf + l.per ≤ (m.vf l.vf).tiles + poolTiles m l.part))

/-! ### Placement (R116, R123) -/

/-- Origins of a w × h rectangle, ascending by die, y, x. -/
def originsOf (w h : Nat) : List (Nat × Nat × Nat) :=
  (List.range 8).flatMap fun d => (List.range (13 - h)).flatMap fun y => (List.range (13 - w)).map fun x => (d, y, x)
/-- The sites of a rectangle, in ascending global order. -/
def rectSites (w h : Nat) (o : Nat × Nat × Nat) : List Nat :=
  (List.range (w * h)).map fun i => siteOf o.1 (o.2.1 + i / w) (o.2.2 + i % w)

/-- Whether a site of a partition is there for a gang: enabled, in a panel of it, on a die that serves and whose clock
runs. -/
def siteServes (m : Mach) (part a : Nat) : Bool :=
  (m.panel (panelOfSite a)).part == some part && siteOn m a && (m.die (dieOf a)).rdy && m.clocked (dieOf a)
/-- Whether a reservation for a launch may take a site; `other`: also one PARKED by another VF (R123 step 2). A site of a gang with a
crash frame still to be written is not claimed. -/
def siteTakes (m : Mach) (l : Launch) (other : Bool) (a : Nat) : Bool :=
  let s := m.site a
  siteServes m l.part a && (s.rst == 0 || (s.rst == 3 && (match s.occ with
    | some t =>
      let w := (m.launch t.launch).vf
      let p := m.partn l.part
      !gangCrashed m t.launch ((m.launch t.launch).gangOf t.task) && (w == l.vf || (other && (m.vf w).ts && !p.running w && p.running l.vf && ((m.vf l.vf).ts || !ownQuota m l)))
    | none => false)))
/-- The first origin for a gang on a die of `dies` whose sites may be taken. -/
def findOrigin (m : Mach) (l : Launch) (g : Nat) (dies : Nat → Bool) (other : Bool) : Option (Nat × Nat × Nat) :=
  (originsOf l.img.w l.img.h).find? fun o =>
    dies o.1 && featuresOk m l g o.1 && (rectSites l.img.w l.img.h o).all (siteTakes m l other)
def placement (m : Mach) (l : Launch) (g : Nat) (dies : Nat → Bool) : Option (Nat × Nat × Nat) :=
  match findOrigin m l g dies false with
  | some o => some o
  | none => findOrigin m l g dies true
/-- Whether a shape has any rectangle in a partition (R116), whatever occupies it. -/
def shapeFits (m : Mach) (part w h : Nat) : Bool :=
  (originsOf w h).any fun o => (rectSites w h o).all fun a => (m.panel (panelOfSite a)).part == some part && siteOn m a

/-! ### Admission (R120, R147) -/

/-- Whether a launch not yet admitted may be: no other launch has its INVID bits (R147), and its domain is absent or has
a place (R120). -/
def mayAdmit (m : Mach) (key : Nat) : Bool :=
  let l := m.launch key
  let p := m.partn l.part
  decide ((m.vf l.vf).mig ≤ 1) && (m.sys.launches.all fun e => e.1 == key || e.2.part != l.part || keyInv e.1 != keyInv key || decide (l.inv < e.2.inv)) &&
    (l.img.domid == 0xFFFF || !(p.doms.any fun e => e.1 == l.img.domid) ||
      (let d : Dom := SMap.get (fun _ => {}) p.doms l.img.domid
       d.l == l.img.doml && decide (d.members.length < d.l)))

/-! ### Which gang of a launch comes next -/

/-- Whether what a bundle waited on when its task stopped is there now: room or items of a work queue, an item the park inbox
holds for a hardware queue. -/
def blockFreed (m : Mach) (t : TaskId) (b : Block) : Bool :=
  match b with
  | .pop k => (m.wq k).items != [] || (m.wq k).closed
  | .push k => decide ((m.wq k).items.length < (m.wq k).cap) || (m.wq k).closed
  | .queue n => (heldFor m t).any fun p => bit p.ctl 36 && p.addr.toNat % 16 == n
/-- Whether a stopped task has become unblocked (R143): its barrier completed, its semaphore was granted or holds enough, its
answer waits in the inbox (R165), its event or time-out has come, its queue has what it needs. -/
def taskFreed (m : Mach) (t : TaskId) : Bool :=
  let c := m.taskCore t
  match c.ctl.wait with
  | .bar d n => c.phaseReached d n
  | .sem _ p i n => (m.sem p i).waiters == [] && decide (n ≤ (m.sem p i).count)
  | .resp => true
  | .event _ mask u => c.ctl.ev &&& mask != 0 || u.any fun t => decide (t ≤ m.sys.ns)
  | .none => c.eng.wgot.isSome || (match c.ctl.blockOn with
    | some b => blockFreed m t b
    | none => c.ctl.blockAt.isNone)
  | _ => false
/-- Stopped gangs of a kind, the first frozen first. -/
def stoppedGangs (l : Launch) (why : Nat) : List (Nat × Gang) :=
  l.gangs.filter fun e => (e.2.st == 2 || e.2.st == 3) && e.2.why == why
def firstStopped (gs : List (Nat × Gang)) : Option Nat :=
  (gs.foldl (fun (b : Option (Nat × Gang)) e => match b with
    | none => some e
    | some x => if e.2.order < x.2.order then some e else some x) none).map Prod.fst
/-- The gang of a launch to place next: one that the launch-residency rule stopped and that can go on; then the
pre-empted; then, unless a gang waits for THAW, the undispatched; then the others it stopped. -/
def nextGang (m : Mach) (key : Nat) : Option Nat :=
  let l := m.launch key
  let two := stoppedGangs l 2
  match firstStopped (two.filter fun e => (l.gangTasks e.1).any fun i => taskFreed m ⟨key, i⟩) with
  | some g => some g
  | none =>
    match firstStopped ((stoppedGangs l 1).filter fun e => !faultPending m key e.1) with
    | some g => some g
    | none =>
      match l.undispatched with
      | some g => if stoppedGangs l 0 = [] ∧ l.st ≤ 2 ∧ isHead m key ∧ (l.st = 2 ∨ mayAdmit m key) then some g else none
      | none => firstStopped two

/-- Where a gang would go: on the sites that still hold it, or at an origin. -/
def offerFor (m : Mach) (key g : Nat) : Option (Option (Nat × Nat × Nat)) :=
  let l := m.launch key
  let gg := l.gang g
  if (l.phaseHold ∧ gg.kind = 4) ∨ gg.toPhase ∨ gangCrashed m key g ∨ !quotaOk m l ∨ (0 < gg.refused ∧ m.dieClock gg.die < gg.retryAt) then none
  else if gg.st = 0 then if imageReady m l.part l.nti then (placement m l g fun _ => true).map some else none
  else if inPlace m key g then if mayThaw m key g gg.die ∧ m.clocked gg.die then some none else none
  else if gg.saved ∧ (l.gangTasks g).all fun i => slotReady m ⟨key, i⟩ then
    (placement m l g fun d => (gg.kind == 4 || d == gg.die) && imagesOk m key g d).map some
  else none
/-- What a launch offers: gang and place. -/
def offerOf (m : Mach) (key : Nat) : Option (Nat × Option (Nat × Nat × Nat)) :=
  (nextGang m key).bind fun g => (offerFor m key g).map fun o => (g, o)

/-! ### Admission -/

/-- A launch joins its level-3 domain, opening it if need be (R120). -/
def joinDom (m : Mach) (key : Nat) : Mach :=
  let l := m.launch key
  if l.img.domid = 0xFFFF then m
  else
    let p := m.partn l.part
    let d : Dom := SMap.get (fun _ => {}) p.doms l.img.domid
    let d' : Dom := { d with l := l.img.doml, count := d.count + l.tasks, members := d.members ++ [key] }
    let m := m.setPart l.part { p with doms := SMap.set (fun _ => {}) p.doms l.img.domid d' }
    -- COUNT reads as the total declared so far in every member (R120)
    let m := d.members.foldl (fun m k => (m.launch k).liveTasks.foldl (fun m u => m.modTask ⟨k, u⟩ fun c =>
      c.setCsr true 0x33 (putBits (c.csr true 0x33) 51 26 d'.count)) m) m
    m.setLaunch key { l with domBase := d.count }
/-- Create the work queues a launch declares and that are not there (R136). -/
def makeQueues (m : Mach) (key : Nat) : Mach :=
  let l := m.launch key
  (List.range 4).foldl (fun m n => match wqKeyOf key l n with
    | some k =>
      if m.sys.wqs.any fun e => e.1 == k then m
      else m.setWq k { cap := nbits ((l.img.wqs[n]?).getD 0) 12 0 }
    | none => m) m
/-- PENDING to RUNNING (Table 5-12). -/
def admitLaunch (m : Mach) (key : Nat) : Mach :=
  let l := m.launch key
  if l.st = 2 then m
  else
    let m := m.onSys fun s => { s with seq := s.seq + 1 }
    makeQueues (joinDom (m.setLaunch key { l with st := 2, admitAt := some m.sys.seq }) key) key

/-- The sites of an origin are claimed; none when a parked gang's state cannot be saved. -/
def claimAll (m : Mach) (w h : Nat) (o : Nat × Nat × Nat) : Option Mach :=
  (rectSites w h o).foldl (fun om a => om.bind fun m => if (m.site a).rst = 3 then claimSite m a else some m) (some m)

/-- Start the tasks of an undispatched gang on committed sites (Table 5-13). -/
def startGang (m : Mach) (key g : Nat) (o : Nat × Nat × Nat) : Mach :=
  let m := admitLaunch m key
  let l := m.launch key
  let m := m.setLaunch key (l.setGang g { st := 1, die := o.1, oy := o.2.1, ox := o.2.2 })
  let l := m.launch key
  let m := (l.gangTasks g).foldl (fun m i =>
    let t : TaskId := ⟨key, i⟩
    let a := l.siteFor i
    let m := placed (m.setAgent a (startCore m t a)) a l.img.sects
    let m := m.setSite a { rst := 2, tst := 1, holder := key * 2 ^ 16 + g, occ := some t, last := l.vf }
    let p := m.partn l.part
    m.setPart l.part { p with reloc := SMap.set (fun _ => 0) p.reloc (taskKey t) (a + 1) }) m
  -- what the inboxes hold for the gang is treated as for a frozen task (R172)
  headUpdate ((l.gangTasks g).foldl (fun m i => replayAll (moveHeld m ⟨key, i⟩) (l.siteFor i) ⟨key, i⟩) m)

/-- A refused hold (R123): the count of refusals and the cycle of its die at which it is tried again, 64 × 2^n on. -/
def backOff (m : Mach) (key g die : Nat) : Mach :=
  let l := m.launch key
  let gg := l.gang g
  m.setLaunch key (l.setGang g { gg with refused := gg.refused + 1, die := die,
                                         retryAt := m.dieClock die + 64 * 2 ^ min gg.refused 10 * 20 })

/-- Place one gang of a launch (R123). -/
def placeGang (m : Mach) (key g : Nat) (o : Option (Nat × Nat × Nat)) : Mach :=
  match o with
  | none => thawHere m key g
  | some o =>
    let l := m.launch key
    match claimAll m l.img.w l.img.h o with
    | none => backOff m key g o.1
    | some m => if (l.gang g).st = 0 then startGang m key g o else thawAt m key g o.1 o.2.1 o.2.2

/-! ### Selection (R126) -/

def minOf (l : List Nat) : Nat := l.foldl min (l.headD 0)
/-- The launch served among candidates, by priority, then age, then the pointer of the priority. -/
def choose (m : Mach) (part : Nat) (ks : List Nat) : Option Nat :=
  match ks with
  | [] => none
  | _ =>
    let top := ks.foldl (fun n k => max n (m.launch k).prio) 0
    let ks := ks.filter fun k => (m.launch k).prio == top
    let age := fun (k : Nat) => ((m.launch k).headAt).getD 0
    let old := minOf (ks.map age)
    let ks := ks.filter fun k => age k == old
    let ptr := SMap.get (fun _ => 0) (m.partn part).ptrs top
    let above := ks.filter fun k => decide (ptr < (m.launch k).source)
    let ks := if above = [] then ks else above
    let src := minOf (ks.map fun k => (m.launch k).source)
    let ks := ks.filter fun k => (m.launch k).source == src
    let inv := minOf (ks.map fun k => (m.launch k).inv)
    ks.find? fun k => (m.launch k).inv == inv

/-- Keys of the launches of a partition. -/
def partLaunches (m : Mach) (part : Nat) : List Nat := (m.sys.launches.filter fun e => e.2.part == part).map Prod.fst

/-- Would a launch have a placement if some gangs of another left their sites (R127)? -/
def freedBy (m : Mach) (key vict : Nat) (gs : List Nat) : Bool :=
  let v := m.launch vict
  let m' := gs.foldl (fun m g => (v.gangSites g).foldl (fun m a => m.setSite a { m.site a with rst := 0 }) m) m
  let v' := gs.foldl (fun l g => l.setGang g { l.gang g with st := 2 }) v
  let m' := m'.setLaunch vict v'
  match nextGang m key with
  | some g => (offerFor m' key g).isSome
  | none => false
/-- The lowest-priority resident launch of the VF below the pending one, among equals the one admitted last. -/
def victimOf (m : Mach) (key : Nat) : Option Nat :=
  let l := m.launch key
  let ks := (partLaunches m l.part).filter fun k =>
    let v := m.launch k
    v.vf == l.vf && decide (v.prio < l.prio) && v.gangs.any fun g => g.2.st == 1 && g.2.askedAt.isNone
  ks.foldl (fun (b : Option Nat) k => match b with
    | none => some k
    | some x =>
      let p := (m.launch k).prio
      let q := (m.launch x).prio
      if p < q ∨ (p = q ∧ (m.launch x).admitAt.getD 0 < (m.launch k).admitAt.getD 0) then some k else some x) none
/-- The resident gangs of a launch that no one has asked to yield. -/
def Launch.askable (l : Launch) : List Nat := (l.gangs.filter fun g => g.2.st == 1 && g.2.askedAt.isNone).map Prod.fst
/-- For each place that gang `g` of the pending launch could take if the victim left all its sites, in the order of R123: the
gangs of the victim that stand there. -/
def victimsAt (m : Mach) (key vict g : Nat) : List (List Nat) :=
  let l := m.launch key
  let v := m.launch vict
  let gg := l.gang g
  let m' := v.askable.foldl (fun m j => (v.gangSites j).foldl (fun m a => m.setSite a { m.site a with rst := 0 }) m) m
  if gg.st ≠ 0 ∧ inPlace m key g then [[]]
  else
    ((originsOf l.img.w l.img.h).filter fun o =>
      (gg.st == 0 || gg.kind == 4 || o.1 == gg.die) && featuresOk m l g o.1 && (gg.st == 0 || imagesOk m key g o.1) &&
        (rectSites l.img.w l.img.h o).all (siteTakes m' l true)).map fun o =>
      v.askable.filter fun j => (v.gangSites j).any (rectSites l.img.w l.img.h o).contains
/-- The shortest list, the first among equals. -/
def shortest (ls : List (List Nat)) : Option (List Nat) :=
  ls.foldl (fun b x => match b with
    | none => some x
    | some y => if x.length < y.length then some x else some y) none
/-- As few gangs of the victim as the pending gang needs (R127): those at the place that takes fewest, and for the quota further
ones in index order (log 74). -/
def victimGangs (m : Mach) (key vict g : Nat) : Option (List Nat) :=
  let l := m.launch key
  let v := m.launch vict
  let less := fun (n : Nat) => quotaOk (m.setLaunch vict ((v.askable.take n).foldl (fun x j => x.setGang j { x.gang j with st := 2 }) v)) l
  match (List.range (v.askable.length + 1)).find? less with
  | some n => shortest ((victimsAt m key vict g).map fun h => h ++ (v.askable.filter fun j => !h.contains j).take (n - h.length))
  | none => none
/-- Pre-emption: as few gangs of the victim as the pending gang needs are asked to yield, unless some of its VF are already. -/
def preempt (m : Mach) (key : Nat) : Mach :=
  let l := m.launch key
  let busy := m.sys.launches.any fun e => e.2.vf == l.vf && e.2.gangs.any fun g => g.2.st == 1 && g.2.askedAt.isSome
  match victimOf m key, nextGang m key with
  | some v, some g =>
    if busy then m
    else
      match victimGangs m key v g with
      | some gs => gs.foldl (fun m j => yieldGang m v j 1) m
      | none => m
  | _, _ => m

/-- Whether a launch is held in phase form rather than run to DONE (R185, R186). -/
def phaseForm (m : Mach) (l : Launch) : Bool :=
  nbit l.img.flags 1 &&
    (l.img.domid == 0xFFFF || decide ((SMap.get (fun _ => {}) (m.partn l.part).doms l.img.domid : Dom).l ≤ 1))
/-- The scheduler holds a running launch in phase form, to move its gangs to another die (R185). When it does so is its own decision,
which comes with the step (log 85). -/
def holdLaunch (m : Mach) (part key : Nat) : Mach :=
  let l := m.launch key
  if m.hasLaunch key ∧ l.part = part ∧ l.st = 2 ∧ phaseForm m l then m.setLaunch key { l with phaseHold := true } else m

/-- SCHEDULER_SELECTION (R126): one gang is placed; when none can be, a launch of higher priority pre-empts one of its
own VF (R127). Phase images that waited for a slot are written (R185). -/
def selectGang (m : Mach) (part : Nat) : Mach :=
  let m := headUpdate ((partLaunches m part).foldl phaseDue m)
  let ks := partLaunches m part
  match choose m part (ks.filter fun k => (offerOf m k).isSome) with
  | some k =>
    match offerOf m k with
    | some (g, o) =>
      let l := m.launch k
      let m := placeGang m k g o
      let p := m.partn part
      m.setPart part { p with ptrs := SMap.set (fun _ => 0) p.ptrs l.prio l.source }
    | none => m
  | none =>
    match choose m part (ks.filter fun k => (nextGang m k).isSome && (offerOf m k).isNone &&
        (match victimOf m k with
          | some v => freedBy m k v (m.launch v).askable
          | none => false)) with
    | some k => preempt m k
    | none => m

/-- RESERVATION_RETRY (R123): the back-off of a refused reservation has passed. -/
def retryGang (m : Mach) (key g : Nat) : Mach :=
  let gg := (m.launch key).gang g
  if 0 < gg.refused ∧ gg.retryAt ≤ m.dieClock gg.die ∧ nextGang m key = some g then
    match offerFor m key g with
    | some o => placeGang m key g o
    | none => m
  else m

/-! ### Time slices (R128, R129) -/

/-- An entry of the slice table of the lead command core. -/
def sliceEntry (m : Mach) (part k : Nat) : Dword := m.ccCsr (m.partn part).lead (0x840 + k)
def sliceValid (e : Dword) : Bool := bit e 63 && decide (5 ≤ bits e 40 32) && decide (bits e 40 32 ≤ 500)
def csrSLCTL : Nat := 0x850
/-- The next valid entry at or after `k`, around the table. -/
def nextSlice (m : Mach) (part k : Nat) : Option Nat :=
  let ctl := m.ccCsr (m.partn part).lead csrSLCTL
  let n := bits ctl 8 4
  if bit ctl 0 ∧ 1 ≤ n ∧ n ≤ 16 then
    ((List.range n).map fun i => (k + i) % n).find? fun i => sliceValid (sliceEntry m part i)
  else none
/-- A boundary: the entry found runs and CUR shows it, or none does; event SL follows (R129). -/
def boundaryTo (m : Mach) (part : Nat) (k : Option Nat) : Mach :=
  let p := m.partn part
  match k with
  | some i =>
    let e := sliceEntry m part i
    let m := m.setPart part { p with slice := some i, sliceVf := bits e 57 48, sliceAt := m.sys.ns + 100000 * bits e 40 32 }
    setEv (m.setCcCsr p.lead csrSLCTL (putBits (m.ccCsr p.lead csrSLCTL) 19 16 i)) (ccOf p.lead) 4
  | none => setEv (m.setPart part { p with slice := none, sliceVf := 0 }) (ccOf p.lead) 4
/-- SLICE_BOUNDARY: at the end of the quantum. -/
def sliceEnd (m : Mach) (part : Nat) : Mach :=
  let p := m.partn part
  match p.slice with
  | some k => if p.sliceAt ≤ m.sys.ns then boundaryTo m part (nextSlice m part (k + 1)) else m
  | none => m
/-- A write of the slice registers makes a boundary at once when no slice is running and the table is valid (R128). -/
def sliceWritten (m : Mach) (part : Nat) : Mach :=
  match (m.partn part).slice, nextSlice m part 0 with
  | none, some k => boundaryTo m part (some k)
  | _, _ => m
/-- SLCTL_WRITE: CUR is read-only, reserved bits read zero. -/
def slctlSet (m : Mach) (panel : Nat) (v : Dword) : Mach :=
  match m.leads panel with
  | some part =>
    let old := m.ccCsr panel csrSLCTL
    sliceWritten (m.setCcCsr panel csrSLCTL ((v &&& 0x1F1) ||| (old &&& 0xF0000))) part
  | none => m
/-- A write of SLTn. -/
def sltSet (m : Mach) (panel n : Nat) (v : Dword) : Mach :=
  match m.leads panel with
  | some part => sliceWritten (m.setCcCsr panel n (v &&& 0x83FF01FF00000000)) part
  | none => m

/-! ### The launch-residency rule (R143, R144) -/

/-- The instant from which each task of a gang has been blocked or done (R143): the latest of them; `done` leaves the instants of
DONE out, for the gang's latest block. Any bundle that cannot issue blocks its task (log 75). -/
def gangSince (m : Mach) (l : Launch) (g : Nat) (done : Bool) : Option Nat :=
  (l.gangSites g).foldl (fun (o : Option Nat) a =>
    let c := m.agent a
    o.bind fun n => if done ∧ c.ctl.wait = .ended then some n else c.ctl.blockAt.map fun b => max n b) (some 0)
/-- The instant a gang's latest block began, when each of its tasks is blocked or done. -/
def gangBlock (m : Mach) (l : Launch) (g : Nat) : Option Nat := gangSince m l g true
/-- Whether every task of a launch's resident gangs is blocked or done, and since when (R143, R144). -/
def launchSince (m : Mach) (key : Nat) : Option Nat :=
  let l := m.launch key
  (l.gangs.filter fun e => e.2.st == 1).foldl (fun (o : Option Nat) e =>
    o.bind fun n => (gangSince m l e.1 false).map fun b => max n b) (some l.rotAt)
/-- RESIDENCY_ROTATION. -/
def rotate (m : Mach) (key : Nat) : Mach :=
  let l := m.launch key
  let here := (l.gangs.filter fun e => e.2.st == 1).map Prod.fst
  let more := l.undispatched.isSome || (stoppedGangs l 2) != []
  let blocks := here.map fun g => (g, (gangBlock m l g).getD 0)
  match launchSince m key with
  | some since =>
    if l.st = 2 ∧ more ∧ here ≠ [] ∧ (here.all fun g => (l.gang g).askedAt.isNone) ∧ since + 50000 ≤ m.sys.ns then
      match blocks.find? fun b => b.2 == minOf (blocks.map Prod.snd) with
      | some b => yieldGang (m.setLaunch key { l with rotAt := m.sys.ns }) key b.1 2
      | none => m
    else m
  | none => m
/-- YIELD_DEADLINE: 20 µs after the request the gang is frozen; one that the launch-residency rule asked not while a task of its
launch can issue: it stays asked (R144; log 76). -/
def yieldLate (m : Mach) (key g : Nat) : Mach :=
  let gg := (m.launch key).gang g
  match gg.askedAt with
  | some t =>
    if yielding m key g ∧ t + 20000 ≤ m.sys.ns ∧ (gg.why ≠ 2 ∨ (launchSince m key).isSome) then freezeGang m key g gg.why else m
  | none => m

/-- What a tick reports: WAITE event GS for a resident gang whose tasks have been blocked or done for 50 µs (R459). -/
def reportBlocks (m : Mach) : Mach :=
  m.sys.launches.foldl (fun m e => (e.2.gangs.filter fun g => g.2.st == 1).foldl (fun m g =>
    let l := m.launch e.1
    match gangSince m l g.1 false with
    | some b =>
      if b + 50000 ≤ m.sys.ns ∧ g.2.told ≠ some b then
        gsEvent (m.setLaunch e.1 (l.setGang g.1 { l.gang g.1 with told := some b })) (l.gangSites g.1)
      else m
    | none => m) m) m

/-! ### Floors (R130-R132) -/

/-- Quarters of its bandwidth that a stack gives in a derate state (Table 6-9). -/
def derateQ (dr : Nat) : Nat := if dr = 0 then 4 else if dr = 1 then 3 else if dr = 2 then 2 else 0
/-- The supply of a partition in 1/80 tile-GHz: each enabled tile adds its die's granted clock (1.9, 1.6, 1.3, 0.95 GHz)
times the fraction of its panel's stack (R161). -/
def supplyOf (m : Mach) (part : Nat) : Nat :=
  (panelsOf (m.partn part).mask).foldl (fun n p =>
    n + popCount 36 (m.panel p).psmap * (derateQ (m.stack (p / 4)).dr * cycleTicks (m.die (p / 4)).lvl)) 0
/-- A VF's floor in 1/80 tile-GHz, when it is enabled. -/
def floorFor (m : Mach) (part vfn : Nat) : Option Nat :=
  let lead := (m.partn part).lead
  let base := bits (m.ccCsr lead 0x851) 63 12 * 4096
  let e := (m.agent (ccOf lead)).mem.sm.readNat (base + 4 * (vfn - 1)) 4
  if 1 ≤ vfn ∧ nbit e 31 then some (5 * nbits e 15 0) else none
/-- Whether a VF has an admitted launch. -/
def hasAdmitted (m : Mach) (vfn : Nat) : Bool := m.sys.launches.any fun e => e.2.vf == vfn && e.2.st == 2
/-- Floors of the VFs of a partition with admitted launches. -/
def floorsOf (m : Mach) (part : Nat) : Nat :=
  ((partVfs m part).filter fun e => hasAdmitted m e.1).foldl (fun n e => n + (floorFor m part e.1).getD 0) 0
/-- Step 5 of the residency check. -/
def floorOk (m : Mach) (part vfn : Nat) : Bool :=
  match floorFor m part vfn with
  | some f => hasAdmitted m vfn || decide (f + floorsOf m part ≤ supplyOf m part)
  | none => true

/-- SCHEDULER_SELECTION (R126; R185 where it brings a launch). -/
def execSchedulerSelection (st : State) : Res := runEvent (fun x m => if x.b = 0 then selectGang m x.a else holdLaunch m x.a (x.b - 1)) st
/-- RESERVATION_RETRY (R123). -/
def execReservationRetry (st : State) : Res := runEvent (fun x m => retryGang m x.a x.b) st
/-- SLICE_BOUNDARY (R129). -/
def execSliceBoundary (st : State) : Res := runEvent (fun x m => sliceEnd m x.a) st
/-- SLCTL_WRITE (R128). -/
def execSlctlWrite (st : State) : Res := runEvent (fun x m => slctlSet m x.a x.v) st
/-- RESIDENCY_ROTATION (R143). -/
def execResidencyRotation (st : State) : Res := runEvent (fun x m => rotate m x.a) st
/-- YIELD_DEADLINE (R182). -/
def execYieldDeadline (st : State) : Res := runEvent (fun x m => yieldLate m x.a x.b) st

end Sys2Proof.Machine
end

