-- ==== Sys2Proof/Machine/Queues.lean ====
section
/-!
DEFINITION. Host queues (03_host_and_commands R47-R60): binding, doorbells, which entry starts next and the checks
every entry has, and the commands that need no slot and no copy: NOP, MARK, FENCE, SIGNAL, WAIT (R72-R75).
-/
namespace Sys2Proof.Machine

/-! ### Which queues start commands -/

/-- The partition a queue serves (R57). -/
def queuePart (m : Mach) (k : Nat) : Nat := if k / 16 = 0 then (m.queue k).part else (m.vf (k / 16)).part
/-- Whether the destruction of a VF has been asked for and waits for copies: nothing of the VF starts any more (R91, R97 step 1). -/
def vfClosing (m : Mach) (vfn : Nat) : Bool :=
  vfn != 0 && (m.sys.mc.take 2 == [0x11, vfn] || m.sys.vfLow.any fun n => decide (n < vfn))
/-- Whether a function's queues start commands: a time-shared VF's in its slice (R129), none of a VF being moved (R111) or
destroyed (R97). -/
def vfStarts (m : Mach) (vfn : Nat) : Bool :=
  let v := m.vf vfn
  vfn == 0 || (v.live && decide (v.mig ≤ 1) && (!v.ts || (m.partn v.part).running vfn) && !vfClosing m vfn)
def queueRuns (m : Mach) (k : Nat) : Bool := (m.queue k).st == 1 && vfStarts m (k / 16)

/-- Read TAIL (R48): a count too far ahead puts the queue into ERROR. -/
def readTail (m : Mach) (k : Nat) : Mach :=
  let q := m.queue k
  let t := m.sys.host.readNat (q.qcba + 48) 4
  if 2 ^ q.rsize < cntDiff t q.head then
    postEvent (m.setQueue k { q with st := 3, tail := t, dbl := false }) 0x22 (queuePart m k) (k / 16) (k % 16)
      (leBytes t 4 ++ leBytes q.head 4)
  else m.setQueue k { q with tail := t, dbl := false }
/-- A recorded doorbell is acted on once the queue runs (R49). -/
def catchUp (m : Mach) (k : Nat) : Mach := if (m.queue k).dbl && queueRuns m k then readTail m k else m
/-- The host does not answer a read of the ring: a BOUND queue enters ERROR, with the event of a ring overflow (Table 3-4, R56). -/
def ringLost (m : Mach) (k : Nat) : Mach :=
  let q := m.queue k
  if q.st = 1 then
    postEvent (m.setQueue k { q with st := 3 }) 0x22 (queuePart m k) (k / 16) (k % 16) (leBytes q.tail 4 ++ leBytes q.head 4)
  else m
/-- DOORBELL (R49, R91): recorded, and acted on where the queue is BOUND; WAITE event DB of the core that serves it, whatever the state of the
queue (log 17). `lost` says that the host did not answer the read of TAIL or of the ring that followed. -/
def ringDoorbell (m : Mach) (vfn qidx : Nat) (lost : Bool) : Mach :=
  if 8 ≤ qidx ∨ 512 < vfn ∨ (vfn ≠ 0 ∧ !(m.vf vfn).live) then m
  else
    let k := queueKey vfn qidx
    let m := m.setQueue k { m.queue k with dbl := true }
    let m := setEv m (ccOf (m.partn (queuePart m k)).lead) 1
    if lost then ringLost m k else catchUp m k

/-! ### Entries -/

def entryAt (m : Mach) (k c : Nat) : List Byte :=
  let q := m.queue k
  m.sys.host.readList (q.ringb + 64 * (c % 2 ^ q.rsize)) 64
/-- The entry at the head of a queue that may start a command (R52, R59). -/
def headOf (m : Mach) (k : Nat) : Option (List Byte) :=
  let q := m.queue k
  if queueRuns m k && !q.full && q.recs == [] && q.waitCmd.isNone && q.head != q.tail then some (entryAt m k q.head)
  else none
def cmdOf (q : Queue) (b : List Byte) : Cmd := ⟨q.head, byteAt b 0, byteAt b 1, leAt b 4 4, 0⟩
def argOf (b : List Byte) : Nat := leAt b 2 2

/-- The device has read `n` entries: HEAD moves and is written (R50). -/
def consume (m : Mach) (k n : Nat) : Mach :=
  let q := m.queue k
  let h := (q.head + n) % 2 ^ 32
  (m.setHost (m.sys.host.writeNat (q.qcba + 52) 4 h)).setQueue k { q with head := h }
/-- A command that ends without having run. -/
def endCmd (m : Mach) (k n : Nat) (c : Cmd) (status detail wgen inv : Nat) : Mach :=
  complete (consume m k n) k c status detail wgen inv
/-- A command that has started and runs on. -/
def goOn (m : Mach) (k n : Nat) (c : Cmd) : Mach :=
  let m := consume m k n
  m.setQueue k { m.queue k with started := (m.queue k).started ++ [c] }

/-- An INVOKE with a continuation (R61). -/
def invokeLong (b : List Byte) : Bool := byteAt b 0 == 1 && decide (8 < nbits (argOf b) 13 9)
/-- The entries an entry takes; none while TAIL does not cover them. -/
def spanOf (m : Mach) (k : Nat) (b : List Byte) : Option Nat :=
  if invokeLong b then if 2 ≤ cntDiff (m.queue k).tail (m.queue k).head then some 2 else none else some 1
/-- Whether the entry after an INVOKE continues it. -/
def continues (m : Mach) (k : Nat) (b : List Byte) : Bool :=
  let n := entryAt m k ((m.queue k).head + 1)
  byteAt n 0 == 0x81 && leAt n 4 4 == leAt b 4 4

/-- Why a queue does not carry a command: the DETAIL of STATUS 13 (R57, Table 3-6). -/
def kindFail (vfn kind opc : Nat) : Option Nat :=
  if vfn = 0 ∧ 1 ≤ opc ∧ opc ≤ 5 then some 1
  else if (1 ≤ opc ∧ opc ≤ 5 ∧ kind ≠ 0) ∨ (opc = 6 ∧ kind ≠ 1) then some 0
  else none

/-- Entries with a reserved OPC are consumed, one record each (R58 check 1). -/
def skipBad (fuel : Nat) (m : Mach) (k : Nat) : Mach :=
  match fuel with
  | 0 => m
  | n + 1 =>
    match headOf m k with
    | some b => if 0x0A < byteAt b 0 then skipBad n (endCmd m k 1 (cmdOf (m.queue k) b) 2 0 0 0) k else m
    | none => m

/-- Start the command at the head of a queue if its OPC is `opc`, after the checks of R58 but the last, which is the
command's own. An INVOKE that fails one of these checks and is not followed by its continuation is consumed alone: R58's 'later
entries are processed normally' is taken before R61's 'both entries are consumed' (log 66). -/
def startCmd (m : Mach) (vfn qidx opc : Nat) (f : Mach → Nat → List Byte → Cmd → Mach) : Mach :=
  let k := queueKey vfn qidx
  if 8 ≤ qidx ∨ 512 < vfn then m
  else
    let m := catchUp m k
    let m := skipBad (cntDiff (m.queue k).tail (m.queue k).head) m k
    match headOf m k with
    | none => m
    | some b =>
      if byteAt b 0 ≠ opc then m
      else
        match spanOf m k b with
        | none => m
        | some n =>
          let c := cmdOf (m.queue k) b
          let n := if n = 2 ∧ !continues m k b then 1 else n
          if 4 ≤ byteAt b 1 then endCmd m k n c 2 0 0 0
          else
            match kindFail vfn (m.queue k).kind opc with
            | some d => endCmd m k n c 13 d 0 0
            | none => f m k b c

/-! ### NOP, MARK, FENCE -/

/-- NOP (R75). -/
def cmdNop (m : Mach) (k : Nat) (b : List Byte) (c : Cmd) : Mach :=
  if argOf b = 0 ∧ zeroAt b 8 56 then endCmd m k 1 c 0 0 0 0 else endCmd m k 1 c 2 0 0 0
/-- MARK: its value comes back as INVID. -/
def cmdMark (m : Mach) (k : Nat) (b : List Byte) (c : Cmd) : Mach :=
  if argOf b = 0 ∧ zeroAt b 16 48 then endCmd m k 1 c 0 0 0 (leAt b 8 8) else endCmd m k 1 c 2 0 0 0
/-- FENCE (R74): waits until every earlier command has completed. -/
def cmdFence (m : Mach) (k : Nat) (b : List Byte) (c : Cmd) : Mach :=
  if argOf b ≠ 0 ∨ !zeroAt b 8 56 then endCmd m k 1 c 2 0 0 0
  else if (m.queue k).started = [] then endCmd m k 1 c 0 0 0 0
  else m

/-! ### A device word a command names (R72) -/

/-- Fault records and waits of copies and commands are known by this number. -/
def copyWho (id : Nat) : Nat := 2 ^ 20 + id
def Mach.copy (m : Mach) (id : Nat) : Copy := SMap.get (fun _ => {}) m.sys.copies id
def Mach.setCopy (m : Mach) (id : Nat) (x : Copy) : Mach := m.onSys fun s => { s with copies := SMap.put s.copies id x }
def Mach.dropCopy (m : Mach) (id : Nat) : Mach := m.onSys fun s => { s with copies := SMap.erase s.copies id }
def Mach.newId (m : Mach) : Nat × Mach := (m.sys.seq, m.onSys fun s => { s with seq := s.seq + 1 })

/-- A walk failed for what is kept as copy `id`: a fault entry of ENG 9 at the lead panel (R247). -/
def copyFault (m : Mach) (id part vfn inv va acc why : Nat) : Mach :=
  fltPost m (m.partn part).lead ⟨fltBytes 9 acc 0xFF 0 why va vfn inv, copyWho id, 9, va, acc, none, none⟩
/-- Whether the command at the head of a queue waits for a mapping. -/
def waitsMap (m : Mach) (k : Nat) : Bool := m.sys.copies.any fun e => e.2.q == k && e.2.dir == 2
/-- The command at the head of a queue waits for a mapping from now. -/
def headFault (m : Mach) (k va acc why : Nat) : Mach :=
  if waitsMap m k then m
  else
    let i := m.newId
    copyFault (i.2.setCopy i.1 { q := k, dir := 2, req := 2, daddr := va }) i.1 (queuePart m k) (k / 16) 0 va acc why

/-- Where a signal word lies, or why it cannot be reached: the mapping, or the region. -/
inductive SWord where
  | ok (pa : Nat)
  | fault (va why : Nat)
  /-- its stack takes no requests (R159) -/
  | waits
  | bad
  deriving DecidableEq, Repr
def sigAt (m : Mach) (part vfn sa acc : Nat) : SWord :=
  match devPieces m part sa 8 acc with
  | .error (va, w) => .fault va w
  | .ok ps =>
    match ps with
    | (pa, _) :: _ =>
      let e := m.region part (pa / regionSize)
      if e.st = 4 ∧ (vfn = 0 ∨ e.vfn = vfn) then .ok pa else .bad
    | [] => .bad
/-- The same for an access now: a word on a stack that takes no requests is waited for. -/
def sigWord (m : Mach) (part vfn sa acc : Nat) : SWord :=
  match sigAt m part vfn sa acc with
  | .ok pa => if m.stalled [(pa, 8)] then .waits else .ok pa
  | r => r

/-- The semaphore a SIGNAL or WAIT of kind 0 names (R72). -/
def cmdSem (m : Mach) (k : Nat) (b : List Byte) : Option (Nat × Nat) :=
  let part := queuePart m k
  if k / 16 = 0 then
    let p := nbits (leAt b 8 4) 16 12
    if Nat.testBit (m.partn part).mask p then some (p, nbits (leAt b 8 4) 11 0) else none
  else if leAt b 8 2 ≤ 4095 then semOf m part (k / 16) (leAt b 8 2) else none
/-- Whether the unused bytes of kind 0 are zero. -/
def semForm (k : Nat) (b : List Byte) : Bool :=
  if k / 16 = 0 then zeroAt b 12 4 && decide (leAt b 8 4 < 2 ^ 17) else zeroAt b 10 6

/-! ### Words forwarded to another package (04 R113) -/

/-- A forwarded write (Table 4-12). -/
def fwdBytes (f : Fwd) (seq v : Nat) : List Byte :=
  leBytes 0x4C20 2 ++ [1, 0] ++ leBytes f.id 4 ++ leBytes seq 4 ++ leBytes 0 4 ++ leBytes f.addr 8 ++ leBytes v 8
/-- Whether an entry of the source stands for a word of VF `vfn` that `n` bytes written at `va` touch. -/
def Fwd.hit (f : Fwd) (vfn va n : Nat) : Bool := f.state != 2 && f.vf == vfn && decide (va < f.addr + 8) && decide (f.addr < va + n)
/-- What each entry of a list becomes once its word has been written: held with its place in arrival order while the VF is cut
over, sent as its next forwarded write while it is relayed. `val` reads the word. -/
def fwdTake (val : Fwd → Nat) (hit : Fwd → Bool) (n : Nat) (l : List Fwd) : List Fwd × List Out :=
  match l with
  | [] => ([], [])
  | f :: t =>
    if !hit f then
      let r := fwdTake val hit n t
      (f :: r.1, r.2)
    else if f.state = 0 then
      let r := fwdTake val hit (n + 1) t
      ({ f with held := f.held ++ [(n, val f)] } :: r.1, r.2)
    else
      let r := fwdTake val hit n t
      ({ f with seq := f.seq + 1 } :: r.1, ⟨5, f.node, f.part, fwdBytes f (f.seq + 1) (val f)⟩ :: r.2)
/-- `n` bytes of VF `vfn`'s ATOMIC memory have been written at `va` from outside its tasks: the entries they touch hold or relay
the value of their word (R113). -/
def fwdNote (m : Mach) (part vfn va n : Nat) : Mach :=
  let p := m.partn part
  if !(p.fwds.any fun f => f.hit vfn va n) then m
  else
    let next := p.fwds.foldl (fun n f => f.held.foldl (fun n h => if f.state = 0 then max n (h.1 + 1) else n) n) 0
    let val := fun (f : Fwd) => match sigAt m part vfn f.addr accRead with
      | .ok pa => m.sys.hbm.readNat pa 8
      | _ => 0
    let r := fwdTake val (fun f => f.hit vfn va n) next p.fwds
    r.2.foldl (fun m o => m.send o) (m.setPart part { p with fwds := r.1 })

/-- A signal word is written: its bytes, and what R113 makes of a forwarded one. -/
def putWord (m : Mach) (part pa va v : Nat) : Mach :=
  fwdNote (noteHbmWrite (hbmWrite m part pa (leBytes v 8)) pa 8) part (m.region part (pa / regionSize)).vfn va 8

/-- SIGNAL (R72). -/
def cmdSignal (m : Mach) (k : Nat) (b : List Byte) (c : Cmd) : Mach :=
  let bad := endCmd m k 1 c 2 0 0 0
  if argOf b = 0 then
    if !semForm k b ∨ !zeroAt b 20 44 then bad
    else
      match cmdSem m k b with
      | some (p, i) => endCmd (m.setSem p i (semSignal (m.sem p i) (leAt b 16 4))) k 1 c 0 0 0 0
      | none => bad
  else if argOf b = 1 ∧ zeroAt b 24 40 ∧ leAt b 8 8 % 8 = 0 then
    if waitsMap m k then m
    else
      match sigWord m (queuePart m k) (k / 16) (leAt b 8 8) accWrite with
      | .ok pa =>
        endCmd (putWord m (queuePart m k) pa (leAt b 8 8) (leAt b 16 8)) k 1 c 0 0 0 0
      | .fault va w => headFault m k va accWrite w
      | .waits => m
      | .bad => endCmd m k 1 c 5 0 0 0
  else bad

/-! ### WAIT (R73) -/

/-- A queue's place in a semaphore's list. -/
def queueWho (k : Nat) : Nat := 2048 + k
/-- The semaphore that has granted a queue its count. -/
def grantTo (m : Mach) (who : Nat) : Option (Nat × Nat) :=
  m.sys.panels.findSome? fun p => (p.2.sems.find? fun e => e.2.granted.contains who).map fun e => (p.1, e.1)
/-- A queue leaves the lists of semaphores; a grant not taken goes back. -/
def leaveSems (m : Mach) (who n : Nat) : Mach :=
  let m := match grantTo m who with
    | some (p, i) => m.setSem p i (semSignal (semTake (m.sem p i) who) n)
    | none => m
  m.sys.panels.foldl (fun m p => (p.2.sems.filter fun e => e.2.waiters.any fun w => w.who == who).foldl (fun m e =>
    m.setSem p.1 e.1 (semLeave (m.sem p.1 e.1) who)) m) m
def condHolds (cond x v : Nat) : Bool := if cond = 0 then decide (v ≤ x) else if cond = 1 then x == v else x != v
/-- A forward end (Table 4-12). -/
def fwdEndBytes (f : Fwd) : List Byte := leBytes 0x4C21 2 ++ [1, 0] ++ leBytes f.id 4 ++ leBytes 0 24
/-- The WAIT of a queue ends: one that was restored tells its source so (R113), unless it is dropped. -/
def endRestored (m : Mach) (k : Nat) (tell : Bool) : Mach :=
  let part := queuePart m k
  let p := m.partn part
  let ended := p.fwds.filter fun f => f.state == 2 && f.q == k
  if ended = [] then m
  else
    let m := if tell then ended.foldl (fun m f => m.send ⟨5, f.node, f.part, fwdEndBytes f⟩) m else m
    m.setPart part { p with fwds := p.fwds.filter fun f => !(f.state == 2 && f.q == k) }
/-- A pending WAIT ends. -/
def endWaitCmd (m : Mach) (k : Nat) (b : List Byte) (status detail : Nat) : Mach :=
  let m := endRestored m k true
  let q := m.queue k
  endCmd (m.setQueue k { q with waitCmd := none }) k 1 (cmdOf q b) status detail 0 0
/-- WAIT_SATISFIED: its condition holds now. -/
def waitCheck (m : Mach) (k : Nat) : Mach :=
  let q := m.queue k
  match q.waitCmd with
  | some (b, _) =>
    if !queueRuns m k ∨ q.full ∨ q.recs ≠ [] then m
    else if !nbit (argOf b) 0 then
      match grantTo m (queueWho k) with
      | some (p, i) => endWaitCmd (m.setSem p i (semTake (m.sem p i) (queueWho k))) k b 0 0
      | none => m
    else if waitsMap m k then m
    else
      match sigWord m (queuePart m k) (k / 16) (leAt b 8 8) accRead with
      | .ok pa =>
        if condHolds (nbits (argOf b) 2 1) (m.sys.hbm.readNat pa 8) (leAt b 16 8) then endWaitCmd m k b 0 0 else m
      | .fault va w => headFault m k va accRead w
      | .waits => m
      | .bad => endWaitCmd m k b 5 0
  | none => m
/-- What a queue waits for a mapping with is dropped, and its fault record. -/
def dropMaps (m : Mach) (k : Nat) : Mach :=
  let ids := (m.sys.copies.filter fun e => e.2.q == k && e.2.dir == 2).map Prod.fst
  let m := ids.foldl (fun m i => m.dropCopy i) m
  m.onSys fun s => { s with panels := s.panels.map fun e =>
    (e.1, { e.2 with flts := e.2.flts.filter fun f => !(ids.any fun i => f.who == copyWho i) }) }
/-- WAIT_TIMEOUT: nothing is taken; a condition that already holds comes first. A mapping still asked for does not hold the time-out
back. While its queue is not BOUND, or its VF is outside its slice, a pending WAIT neither ends nor times out (log 66). -/
def waitLate (m : Mach) (k : Nat) : Mach :=
  let m := waitCheck m k
  let q := m.queue k
  match q.waitCmd with
  | some (b, some t) =>
    if queueRuns m k ∧ t ≤ m.sys.ns then endWaitCmd (leaveSems (dropMaps m k) (queueWho k) (leAt b 16 4)) k b 7 0 else m
  | _ => m
/-- WAIT starts to wait; it completes at once when its condition holds. -/
def cmdWait (m : Mach) (k : Nat) (b : List Byte) (c : Cmd) : Mach :=
  let bad := endCmd m k 1 c 2 0 0 0
  let a := argOf b
  let pend := fun (m : Mach) =>
    let t := leAt b 24 4
    waitCheck (m.setQueue k { m.queue k with waitCmd := some (b, if t = 0 then none else some (m.sys.ns + 1000 * t)) }) k
  if 16 ≤ a ∨ nbits a 2 1 = 3 ∨ !zeroAt b 28 36 then bad
  else if !nbit a 0 then
    if nbits a 2 1 ≠ 0 ∨ !semForm k b ∨ !zeroAt b 20 4 then bad
    else
      match cmdSem m k b with
      | some (p, i) => pend (m.setSem p i (semJoin (m.sem p i) (queueWho k) (leAt b 16 4)))
      | none => bad
  else if leAt b 8 8 % 8 ≠ 0 then bad
  else pend m

/-! ### Space in the completion ring -/

/-- Records that wait are written as far as there is room; a queue that is UNBOUND but for them is then gone (R52, R97). -/
def flushQueue (m : Mach) (k : Nat) : Mach :=
  let m := flushRecs m k ((m.queue k).recs.length + 1)
  if (m.queue k).st = 0 ∧ (m.queue k).recs = [] then m.setQueue k {} else m
/-- CCONS_POLL (R52). -/
def pollCcons (m : Mach) (k : Nat) : Mach :=
  let q := m.queue k
  if q.full ∧ (q.st ≠ 0 ∨ q.recs ≠ []) then
    flushQueue (m.setQueue k { q with ccons := m.sys.host.readNat (q.qcba + 56) 4 }) k
  else m

/-! ### Binding (R53-R55) -/

/-- Whether a QCB's privileged bytes are well formed (R54). -/
def qcbOk (vfn : Nat) (b : List Byte) : Bool :=
  decide (4 ≤ byteAt b 16) && decide (byteAt b 16 ≤ 16) && decide (4 ≤ byteAt b 17) && decide (byteAt b 17 ≤ 16) &&
    decide (byteAt b 18 ≤ 1) && leAt b 0 8 % 4096 == 0 && leAt b 8 8 % 4096 == 0 && decide (byteAt b 19 < 8) &&
    leAt b 20 2 == vfn && decide (leAt b 32 4 < 2 ^ 20) && (byteAt b 18 == 1 || zeroAt b 32 4) && zeroAt b 38 10 &&
    decide (leAt b 36 2 < if vfn = 0 then 64 else 16)
/-- Mask of the bytes that differ. -/
def diffMask (a b : List Byte) : Nat := (List.range 48).foldl (fun n i => if byteAt a i = byteAt b i then n else n + 2 ^ i) 0

/-- BIND: the block is read once. -/
def doBind (m : Mach) (k part qcba : Nat) : Mach × Nat :=
  let vfn := k / 16
  let b := m.sys.host.readList qcba 64
  if (m.queue k).st ≠ 0 then (m, 1)
  else if !qcbOk vfn b then (m, 2)
  else if vfn ≠ 0 ∧ leAt b 22 2 ≠ vfn - 1 then (m, 3)
  else
    let q : Queue := { st := 1, part := if vfn = 0 then part else 0, qcba := qcba, cache := b.take 48, head := leAt b 52 4,
                       ccons := leAt b 56 4, cprod := leAt b 60 4 }
    (readTail (m.setQueue k q) k, 0)
/-- REBIND: the block must be the cached one; records that waited are written as far as the ring has room again. The block lies at
the address kept from BIND, whatever QBADDR or A of QCBB says, also after MRESTORE (log 66). -/
def doRebind (m : Mach) (k : Nat) : Mach × Nat :=
  let q := m.queue k
  let b := m.sys.host.readList q.qcba 48
  if q.st ≠ 2 ∧ q.st ≠ 3 then (m, 1)
  else if b ≠ q.cache then
    (postEvent m 0x21 (queuePart m k) (k / 16) (k % 16) (leBytes (diffMask b q.cache) 6), 4)
  else (readTail (flushQueue (m.setQueue k { q with st := 1, ccons := m.sys.host.readNat (q.qcba + 56) 4 }) k) k, 0)
/-- DETACH. -/
def doDetach (m : Mach) (k : Nat) : Mach × Nat :=
  let q := m.queue k
  if q.st = 1 then (m.setQueue k { q with st := 2 }, 0) else (m, 1)
/-- What a queue that is dropped leaves: its place at semaphores, and its wait for a mapping. Records that still wait for room in
the ring stay until they are written (R97). -/
def dropQueue (m : Mach) (k : Nat) : Mach :=
  let n := match (m.queue k).waitCmd with
    | some (b, _) => leAt b 16 4
    | none => 0
  let m := endRestored (dropMaps (leaveSems m (queueWho k) n) k) k false
  let q := m.queue k
  m.setQueue k (if q.recs = [] then {} else { q with st := 0, started := [], waitCmd := none, dmaq := [], dbl := false })
/-- RELEASE. -/
def doRelease (m : Mach) (k : Nat) : Mach × Nat :=
  let q := m.queue k
  if q.st ≠ 2 ∧ q.st ≠ 3 then (m, 1)
  else if q.started ≠ [] ∨ q.recs ≠ [] then (m, 5)
  else (dropQueue m k, 0)

/-- A bind request (R53): what it does and the cause of a refusal, 0 for none. Where causes 6 and 1 both apply, 6 comes first
(log 66). -/
def qbDo (m : Mach) (op vfn part qidx qcba : Nat) : Mach × Nat :=
  if 512 < vfn ∨ (vfn ≠ 0 ∧ !(m.vf vfn).live) ∨ (vfn = 0 ∧ !(m.partn part).used) then (m, 6)
  else if 8 ≤ qidx ∨ (vfn ≠ 0 ∧ bits (m.vf vfn).vqa 53 50 ≤ qidx) then (m, 1)
  else
    let k := queueKey vfn qidx
    if op = 0 then doBind m k part qcba
    else if op = 1 then doRebind m k
    else if op = 2 then doDetach m k
    else doRelease m k

def regQBREQ : Nat := 0x200
def regQBSTAT : Nat := 0x210
def qbBusy (m : Mach) : Bool := bits (m.reg regQBSTAT) 1 0 == 1
/-- Whether a monitor request on VF `vfn` is in progress that came before the bind request, which then waits for it (R88). -/
def monHolds (m : Mach) (vfn : Nat) : Bool := vfn != 0 && m.sys.mc[1]? == some vfn && m.sys.mc.length != 7
/-- A write of QBREQ (R53): fields kept, and with GO the request is in progress; ignored while one is. -/
def qbWrite (m : Mach) (v : Dword) : Mach :=
  if qbBusy m then m
  else
    let m := m.setReg regQBREQ (v &&& 0x000303FF001F000F)
    if bit v 63 then m.setReg regQBSTAT 1 else m
/-- The monitor carries a bind request out: the one in progress if its OP is `op`, else one written with GO at this moment as `v`.
QBSTAT says how it ended. -/
def qbRequest (m : Mach) (op : Nat) (v : Dword) : Mach :=
  let m := if qbBusy m ∨ bits v 49 48 ≠ op then m else qbWrite m v
  let v := m.reg regQBREQ
  if !qbBusy m ∨ bits v 49 48 ≠ op ∨ monHolds m (bits v 41 32) then m
  else
    let r := qbDo m op (bits v 41 32) (bits v 20 16) (bits v 3 0) ((m.reg 0x208) &&& 0xFFFFFFFFFFFFFFC0).toNat
    (r.1.setReg regQBSTAT (if r.2 = 0 then 2 else dw (r.2 * 256 + 3))).onSys fun s => { s with mc := if s.mc.length = 7 then s.mc.take 6 else s.mc }

/-- DOORBELL (R49). -/
def execDoorbell (st : State) : Res := runEvent (fun x m => ringDoorbell m x.a x.b (x.c != 0)) st
/-- NOP (R75). -/
def execNopCommand (st : State) : Res := runEvent (fun x m => startCmd m x.a x.b 0 cmdNop) st
/-- MARK (R75). -/
def execMark (st : State) : Res := runEvent (fun x m => startCmd m x.a x.b 10 cmdMark) st
/-- FENCE (R74). -/
def execFenceCommand (st : State) : Res := runEvent (fun x m => startCmd m x.a x.b 9 cmdFence) st
/-- SIGNAL (R72). -/
def execSignal (st : State) : Res := runEvent (fun x m => startCmd m x.a x.b 7 cmdSignal) st
/-- WAIT (R73). -/
def execWait (st : State) : Res := runEvent (fun x m => startCmd m x.a x.b 8 cmdWait) st
/-- WAIT_SATISFIED (R73). -/
def execWaitSatisfied (st : State) : Res := runEvent (fun x m => waitCheck m (queueKey x.a x.b)) st
/-- WAIT_TIMEOUT (R73). -/
def execWaitTimeout (st : State) : Res := runEvent (fun x m => waitLate m (queueKey x.a x.b)) st
/-- CCONS_POLL (R52). -/
def execCconsPoll (st : State) : Res := runEvent (fun x m => pollCcons m (queueKey x.a x.b)) st
/-- BIND (R55). -/
def execBind (st : State) : Res := runEvent (fun x m => qbRequest m 0 x.v) st
/-- REBIND (R55). -/
def execRebind (st : State) : Res := runEvent (fun x m => qbRequest m 1 x.v) st
/-- DETACH (R55). -/
def execDetach (st : State) : Res := runEvent (fun x m => qbRequest m 2 x.v) st
/-- RELEASE (R55). -/
def execRelease (st : State) : Res := runEvent (fun x m => qbRequest m 3 x.v) st

end Sys2Proof.Machine
end

