-- ==== Sys2Proof/Machine/Slots.lean ====
section
/-!
DEFINITION. Resident-model slots (03_host_and_commands R61-R70): the residency check, accepting an invocation, loading
and unloading slots, weight generations.
-/
namespace Sys2Proof.Machine

def Mach.slot (m : Mach) (vfn n : Nat) : Slot := SMap.get (fun _ => {}) (m.vf vfn).slots n
def Mach.setSlot (m : Mach) (vfn n : Nat) (x : Slot) : Mach :=
  m.setVf vfn { m.vf vfn with slots := SMap.set (fun _ => {}) (m.vf vfn).slots n x }
def VF.slotQuota (v : VF) : Nat := bits v.vqb 52 46

/-- The physical regions that cover a device range, or the first address not mapped. -/
def rangeRegions (m : Mach) (part va n acc : Nat) : Except (Nat × Nat) (List Nat) :=
  if n = 0 then .ok []
  else
    match devPieces m part va n acc with
    | .ok ps => .ok ((ps.map fun p => p.1 / regionSize).eraseDups)
    | .error e => .error e
/-- Whether regions are FREE in a VF's allocation. -/
def allFree (m : Mach) (part vfn : Nat) (rs : List Nat) : Bool :=
  rs.all fun r => (m.region part r).st == 1 && (m.region part r).vfn == vfn
/-- Change the entries of some regions. -/
def eachRegion (m : Mach) (part : Nat) (rs : List Nat) (f : RegionE → RegionE) : Mach :=
  rs.foldl (fun m r => m.setRegion part r (f (m.region part r))) m
/-- IN_TRANSFER for a copy or slot logic, and SHARED_RO held by slot logic (Table 10-7). -/
def RegionE.busy (e : RegionE) : RegionE := { e with st := 5, hold := 1 }
def RegionE.pinned (e : RegionE) : RegionE := { e with st := 3, pin := true, hold := 0 }

/-! ### Residency (R62, R116, R120, R136) -/

/-- Bytes of stage cache that the queues of an image take. -/
def wqSize (e : Nat) : Nat := if nbits e 12 0 = 0 then 0 else 8 * nbits e 12 0 + 64
/-- The partition whose work queue a key names. -/
def wqPart (k : Nat) : Nat := if 2 ^ 30 ≤ k / 4 ∧ k / 4 < 2 ^ 31 then (k / 4 - 2 ^ 30) / 4096 else keyPart (k / 4)
/-- The work queues an image declares for a launch, each with the stage cache it takes. -/
def wqWants (key : Nat) (l : Launch) : List (Nat × Nat) :=
  (List.range 4).filterMap fun n => (wqKeyOf key l n).map fun k => (k, wqSize ((l.img.wqs[n]?).getD 0))
/-- Queues that take stage cache, each once: those that exist, then those of launches not yet admitted (a domain's queue is shared
by its members). -/
def wqTaken (m : Mach) (part : Nat) : List (Nat × Nat) :=
  let add := fun (l : List (Nat × Nat)) (e : Nat × Nat) => if l.any fun x => x.1 == e.1 then l else e :: l
  (m.sys.launches.filter fun e => e.2.part == part && decide (e.2.st < 2)).foldl (fun l e => (wqWants e.1 e.2).foldl add l)
    ((m.sys.wqs.filter fun e => wqPart e.1 == part).map fun e => (e.1, 8 * e.2.cap + 64))
def wqUsed (m : Mach) (part : Nat) : Nat := ((wqTaken m part).map Prod.snd).sum
/-- What the queues of a launch of an image would add. -/
def wqMore (m : Mach) (part : Nat) (img : Image) : Nat :=
  (((wqWants (launchKey part ((m.partn part).inv + 1)) { part := part, img := img }).filter fun e =>
    !((wqTaken m part).any fun x => x.1 == e.1)).map Prod.snd).sum
/-- Step 4: shape within the quota and on some die, work queues within the stage cache. -/
def imageFits (m : Mach) (vfn part : Nat) (img : Image) : Bool :=
  decide (img.w * img.h ≤ (m.vf vfn).tiles) && shapeFits m part img.w img.h &&
    decide (wqUsed m part + wqMore m part img ≤ 11 * 2 ^ 20)
/-- Whether an open level-3 domain disagrees with an image (R120). -/
def domClash (m : Mach) (part : Nat) (img : Image) : Bool :=
  img.domid != 0xFFFF && (m.partn part).doms.any fun e => e.1 == img.domid && e.2.l != img.doml

/-- The residency check: passed, waiting for a load, or the STATUS of the first step that fails. -/
inductive Resid where
  | ok
  | waits
  | fail (status : Nat)
  deriving DecidableEq, Repr
def residency (m : Mach) (vfn slotm n : Nat) : Resid :=
  let v := m.vf vfn
  let s := m.slot vfn n
  let img := imageAt m v.part s.nti
  if s.st = 2 ∧ domClash m v.part img then .fail 2
  else if !Nat.testBit slotm n then .fail 6
  else if v.slotQuota ≤ n then .fail 3
  else if s.st = 1 ∨ (s.st = 2 ∧ !imageReady m v.part s.nti) then .waits
  else if s.st ≠ 2 then .fail 1
  else if !imageFits m vfn v.part img then .fail 3
  else if !floorOk m v.part vfn then .fail 4
  else .ok

/-! ### Acceptance (R63, R70) -/

/-- A generation of a slot. -/
def Slot.wgen (s : Slot) (g : Nat) : Option WGen := s.gens.find? fun w => w.gen == g
/-- A user latches the current generation. -/
def latch (m : Mach) (vfn n tok : Nat) : Mach :=
  let s := m.slot vfn n
  m.setSlot vfn n { s with gens := s.gens.map fun g => if g.gen = s.cur then { g with users := tok :: g.users } else g }
/-- The next INVID of a partition. -/
def takeInv (m : Mach) (part : Nat) : Nat × Mach :=
  let p := m.partn part
  ((p.inv + 1) % 2 ^ 64, m.setPart part { p with inv := (p.inv + 1) % 2 ^ 64 })
/-- The least of PRIO, the queue's ceiling and the VF's (R63). -/
def effPrio (m : Mach) (vfn prio prioc : Nat) : Nat := min prio (min prioc (bits (m.vf vfn).vqa 57 55))
/-- What BUFB0 to BUFB15 receive. -/
def bufsOf (bufs : List Nat) (w : Option WGen) : List Dword :=
  let l := (List.range 16).map fun k => dw ((bufs[k]?).getD 0)
  match w with
  | some g => if 0 < g.wlen then l.set 15 (dw g.waddr) else l
  | none => l
/-- Accept a launch of a resident slot; `tok` is what keeps its generation live, none for a launch of a graph. -/
def acceptLaunch (m : Mach) (vfn qidx n prio gen entry : Nat) (bufs : List Nat) (origin : Origin) : Nat × Mach :=
  let v := m.vf vfn
  let s := m.slot vfn n
  let r := takeInv m v.part
  let key := launchKey v.part r.1
  let l : Launch := { part := v.part, vf := vfn, qidx := qidx, inv := r.1, prio := prio, slot := n, gen := gen,
                      nti := s.nti, bufs := bufsOf bufs (s.wgen gen), entry := entry, img := imageAt m v.part s.nti,
                      origin := origin }
  let m := if origin.kind = 1 then r.2 else latch r.2 vfn n key
  (key, headUpdate (m.setLaunch key l))

/-- Buffer address fields of an INVOKE entry or a continuation, from byte 8 on. -/
def bufField (b : List Byte) (j : Nat) : Nat := leAt b (8 + 7 * j) 7
def invokeForm (m : Mach) (k : Nat) (b : List Byte) : Bool :=
  let nb := nbits (argOf b) 13 9
  let n := entryAt m k ((m.queue k).head + 1)
  decide (argOf b < 2 ^ 14) && decide (nb ≤ 16) &&
    ((List.range 8).all fun j => decide (nb ≤ j) || decide (bufField b j < 2 ^ 49)) &&
    (!invokeLong b || (continues m k b && zeroAt n 1 3 &&
      (List.range 8).all fun j => decide (nb ≤ 8 + j) || decide (bufField n j < 2 ^ 49)))
def invokeBufs (m : Mach) (k : Nat) (b : List Byte) : List Nat :=
  let nb := nbits (argOf b) 13 9
  let n := entryAt m k ((m.queue k).head + 1)
  ((List.range 16).map fun j => if j < 8 then bufField b j else bufField n (j - 8)).take nb
/-- INVOKE (R61-R63). -/
def cmdInvoke (m : Mach) (k : Nat) (b : List Byte) (c : Cmd) : Mach :=
  let n := if invokeLong b then 2 else 1
  let vfn := k / 16
  let a := argOf b
  let q := m.queue k
  if !invokeForm m k b then endCmd m k n c 2 0 0 0
  else
    match residency m vfn q.slotm (nbits a 5 0) with
    | .waits => m
    | .fail s => endCmd m k n c s 0 0 0
    | .ok =>
      (acceptLaunch (goOn m k n c) vfn (k % 16) (nbits a 5 0) (effPrio m vfn (nbits a 8 6) q.prioc)
        (m.slot vfn (nbits a 5 0)).cur 0 (invokeBufs m k b) ⟨0, k, c.cnt, c.flags * 2 ^ 32 + c.tag⟩).2

/-! ### Loading (R65-R67) -/

/-- The regions of an image or of weights must all be mapped and FREE: the STATUS or fault that stops the command. -/
inductive Ranges where
  | ok (a b : List Nat)
  | fault (va why : Nat)
  | bad
  deriving DecidableEq, Repr
def twoRanges (m : Mach) (part vfn a na b nb accb : Nat) : Ranges :=
  match rangeRegions m part a na accRead, rangeRegions m part b nb accb with
  | .error e, _ => .fault e.1 e.2
  | _, .error e => .fault e.1 e.2
  | .ok ra, .ok rb => if allFree m part vfn (ra ++ rb) then .ok ra rb else .bad

/-- The pieces of 2 MiB in which weights are read from another package (R67): offset and length. -/
def fabricPieces (n : Nat) : List (Nat × Nat) :=
  (List.range ((n + regionSize - 1) / regionSize)).map fun i => (i * regionSize, min regionSize (n - i * regionSize))
/-- The remote reads of a load with SRC = 1 leave the package. -/
def askWeights (m : Mach) (part faddr n : Nat) : Mach :=
  let node := (SMap.get (fun _ => 0) (m.partn part).fab (nbits faddr 59 49)).toNat
  (fabricPieces n).foldl (fun m p => m.send (readRequest node (nbits faddr 48 0 + p.1) p.2)) m
/-- Whether a fabric address names an entry of the partition's node table (R428). -/
def fabricKnown (m : Mach) (part faddr : Nat) : Bool :=
  nbits faddr 63 60 == 1 && (m.partn part).fab.any fun e => e.1 == nbits faddr 59 49

/-- LOADSLOT (R66). A source whose node the partition's table does not name fails as its first piece would (log 68). -/
def cmdLoad (m : Mach) (k : Nat) (b : List Byte) (c : Cmd) : Mach :=
  let vfn := k / 16
  let n := nbits (argOf b) 5 0
  let src := nbits (argOf b) 7 6
  let v := m.vf vfn
  let s := m.slot vfn n
  let len := leAt b 16 8
  if argOf b ≥ 2 ^ 8 ∨ 1 < src ∨ leAt b 8 8 % 4096 ≠ 0 ∨ len = 0 ∨ 2 ^ 32 < len ∨ leAt b 24 8 % regionSize ≠ 0 ∨
      (src = 0 ∧ !zeroAt b 40 8) ∨ !zeroAt b 48 16 then endCmd m k 1 c 2 0 0 0
  else if v.slotQuota ≤ n then endCmd m k 1 c 3 0 0 0
  else if s.st ≠ 0 then endCmd m k 1 c 15 0 0 0
  else if waitsMap m k then m
  else
    let accW := if src = 1 then accWrite else accRead
    match twoRanges m v.part vfn (leAt b 8 8) len (leAt b 24 8) (leAt b 32 8) accW with
    | .fault va w => headFault m k va (if src = 1 ∧ leAt b 24 8 ≤ va ∧ va < leAt b 24 8 + leAt b 32 8 then accWrite else accRead) w
    | .bad => endCmd m k 1 c 5 0 0 0
    | .ok ra rb =>
      if src = 1 ∧ !fabricKnown m v.part (leAt b 40 8) then endCmd m k 1 c 12 0 0 0
      else
      let m := if src = 1 then askWeights m v.part (leAt b 40 8) (leAt b 32 8) else m
      let m := eachRegion (goOn m k 1 c) v.part (ra ++ rb).eraseDups RegionE.busy
      let g : WGen := { gen := 1, waddr := leAt b 24 8, wlen := leAt b 32 8, regs := rb }
      m.setSlot vfn n { st := 1, nti := leAt b 8 8, ntil := len, cur := 1, gens := [g], src := src, faddr := leAt b 40 8,
                        cmd := some (k, c), regs := ra }

/-- The weights of a load. -/
def Slot.weights (s : Slot) : WGen := s.gens.headD { gen := 1, waddr := 0, wlen := 0 }
/-- A load ends without a resident image: its regions are FREE again, the slot EMPTY, its record written (Table 3-10). -/
def loadFails (m : Mach) (vfn n status detail inv : Nat) : Mach :=
  let s := m.slot vfn n
  let rs := (s.regs ++ s.gens.flatMap fun g => g.regs).eraseDups
  let m := (eachRegion m (m.vf vfn).part rs RegionE.free).setSlot vfn n {}
  match s.cmd with
  | some (k, c) => complete m k c status detail 0 inv
  | none => m
/-- Whether a load waits for a mapping. -/
def loadWaits (m : Mach) (vfn n : Nat) : Bool := m.sys.copies.any fun e => e.2.dir == 5 && e.2.q / 16 == vfn && e.2.haddr == n
/-- What a load lacks: the first device address without the mapping it needs, the access and WHY (R247). -/
def loadGap (m : Mach) (part : Nat) (s : Slot) : Option (Nat × Nat × Nat) :=
  match (if s.src = 1 then devPieces m part s.weights.waddr s.weights.wlen accWrite else .ok []), devPieces m part s.nti s.ntil accRead with
  | .error e, _ => some (e.1, accWrite, e.2)
  | _, .error e => some (e.1, accRead, e.2)
  | _, _ => none
/-- The first `n` of the bytes that came for a load are in HBM. -/
def loadStore (m : Mach) (part : Nat) (s : Slot) (n : Nat) (bytes : List Byte) : Mach :=
  match devPieces m part s.weights.waddr (min n bytes.length) accWrite with
  | .ok ps => ps.foldl (fun m p => noteHbmWrite m p.1 p.2) (hbmWriteAll m part ps (bytes.take n))
  | .error _ => m
/-- SLOT_LOAD_DONE (Table 3-10): `piece` is 0, or one more than the index of the 2 MiB piece whose read failed; `bytes` what came
from the fabric below it. A mapping that is gone is asked for with a fault entry of ENG 9, and the load waits (R247). -/
def slotLoaded (m : Mach) (vfn n piece : Nat) (bytes : List Byte) : Mach :=
  let v := m.vf vfn
  let s := m.slot vfn n
  let want := if s.src = 1 then s.weights.wlen else 0
  if s.st ≠ 1 ∨ loadWaits m vfn n ∨ (piece = 0 ∧ bytes.length < want) then m
  else
    match loadGap m v.part s with
    | some (va, acc, why) =>
      match s.cmd with
      | some (k, c) =>
        let i := m.newId
        copyFault (i.2.setCopy i.1 { q := k, cmd := c, dir := 5, req := 2, haddr := n, daddr := va }) i.1 v.part vfn 0 va acc why
      | none => m
    | none =>
      if devStalled m v.part s.nti s.ntil accRead ∨ (s.src = 1 ∧ devStalled m v.part s.weights.waddr s.weights.wlen accWrite) then m
      else
      let m := loadStore m v.part s (if piece = 0 then want else min want ((piece - 1) * regionSize)) bytes
      if piece ≠ 0 then loadFails m vfn n 12 (min (piece - 1) 0xFFFF) 0
      else if imageOk (devRead m v.part s.nti s.ntil) s.ntil then
        let rs := (s.regs ++ s.gens.flatMap fun g => g.regs).eraseDups
        let m := (eachRegion m v.part rs RegionE.pinned).setSlot vfn n { s with st := 2, cmd := none }
        match s.cmd with
        | some (k, c) => complete m k c 0 0 1 0
        | none => m
      else loadFails m vfn n 11 0 0

/-- UNLOADSLOT (R68). -/
def cmdUnload (m : Mach) (k : Nat) (b : List Byte) (c : Cmd) : Mach :=
  let vfn := k / 16
  let n := argOf b
  let s := m.slot vfn n
  if 64 ≤ n ∨ !zeroAt b 8 56 then endCmd m k 1 c 2 0 0 0
  else if (m.vf vfn).slotQuota ≤ n then endCmd m k 1 c 3 0 0 0
  else if s.st = 1 then m
  else if s.st ≠ 2 then endCmd m k 1 c 15 0 0 0
  else (goOn m k 1 c).setSlot vfn n { s with st := 3, cmd := some (k, c) }

/-- SWAPWEIGHTS (R69). -/
def cmdSwap (m : Mach) (k : Nat) (b : List Byte) (c : Cmd) : Mach :=
  let vfn := k / 16
  let n := argOf b
  let v := m.vf vfn
  let s := m.slot vfn n
  if 64 ≤ n ∨ !zeroAt b 8 16 ∨ leAt b 24 8 % regionSize ≠ 0 ∨ !zeroAt b 40 24 then endCmd m k 1 c 2 0 0 0
  else if v.slotQuota ≤ n then endCmd m k 1 c 3 0 0 0
  else if s.st = 1 then m
  else if s.st ≠ 2 then endCmd m k 1 c 15 0 0 0
  else if 4 ≤ s.gens.length ∨ waitsMap m k then m
  else
    match twoRanges m v.part vfn (leAt b 24 8) (leAt b 32 8) 0 0 accRead with
    | .fault va w => headFault m k va accRead w
    | .bad => endCmd m k 1 c 5 0 0 0
    | .ok rs _ =>
      let g := if s.cur = 0xFFFFFFFF then 1 else s.cur + 1
      let m := eachRegion (goOn m k 1 c) v.part rs RegionE.pinned
      let old := s.gens.map fun w => if w.gen = s.cur then { w with swap := some (k, c, g) } else w
      m.setSlot vfn n { s with cur := g, gens := old ++ [{ gen := g, waddr := leAt b 24 8, wlen := leAt b 32 8, regs := rs }] }

/-- GENERATION_RETIRED (R69): not current, or of a slot that unloads, no invocation that latched it lives, and no copy that was
checked against its regions runs (R252). -/
def retireGen (m : Mach) (vfn n gen : Nat) : Mach :=
  let v := m.vf vfn
  let s := m.slot vfn n
  match s.wgen gen with
  | none => m
  | some w =>
    let mine := w.regs ++ if s.st = 3 then s.regs else []
    if w.users ≠ [] ∨ (s.st = 2 ∧ gen = s.cur) ∨ s.st < 2 ∨ mine.any (regionHeld m v.part) then m
    else
      let left := s.gens.filter fun g => g.gen != gen
      let kept := s.regs ++ left.flatMap fun g => g.regs
      let m := eachRegion m v.part (w.regs.filter fun r => !kept.contains r) RegionE.free
      let m := m.setSlot vfn n { s with gens := left }
      let m := match w.swap with
        | some (k, c, g) => complete m k c 0 0 g 0
        | none => m
      if s.st = 3 ∧ left = [] then
        let m := (eachRegion m v.part s.regs RegionE.free).setSlot vfn n {}
        match s.cmd with
        | some (k, c) => complete m k c 0 0 0 0
        | none => m
      else m

/-- INVOKE (R61). -/
def execInvoke (st : State) : Res := runEvent (fun x m => startCmd m x.a x.b 1 cmdInvoke) st
/-- LOADSLOT (R66). -/
def execLoadslot (st : State) : Res := runEvent (fun x m => startCmd m x.a x.b 2 cmdLoad) st
/-- UNLOADSLOT (R68). -/
def execUnloadslot (st : State) : Res := runEvent (fun x m => startCmd m x.a x.b 3 cmdUnload) st
/-- SWAPWEIGHTS (R69). -/
def execSwapweights (st : State) : Res := runEvent (fun x m => startCmd m x.a x.b 4 cmdSwap) st
/-- SLOT_LOAD_DONE (R65). -/
def execSlotLoadDone (st : State) : Res := runEvent (fun x m => slotLoaded m x.a x.b x.c x.bytes) st
/-- GENERATION_RETIRED (R69). -/
def execGenerationRetired (st : State) : Res := runEvent (fun x m => retireGen m x.a x.b x.c) st

end Sys2Proof.Machine
end

