-- ==== Sys2Proof/Machine/HostCopy.lean ====
section
/-!
DEFINITION. Copies between host memory and HBM (03_host_and_commands R76-R80), buffer handles, and the service of
translation faults: supplying or refusing a mapping (10_translation_and_ordering R247-R249; 07 R179). Host addresses of
every PASID are answered by themselves (assumption log 16).
-/
namespace Sys2Proof.Machine

/-! ### Copies -/

/-- The partition and function of a copy. -/
def Copy.vfn (c : Copy) : Nat := c.q / 16
def copyPart (m : Mach) (c : Copy) : Nat := queuePart m c.q
def Copy.isGraph (c : Copy) : Bool := c.dir == 3 || c.dir == 4
/-- The device ranges of a copy: address, and whether it is written. -/
def Copy.ranges (c : Copy) : List (Nat × Bool) :=
  if c.dir = 0 then [(c.daddr, true)] else if c.dir = 1 then [(c.daddr, false)]
  else if c.dir = 3 then [(c.haddr, false), (c.daddr, true)] else []
/-- Whether a region's VF is being moved and a PF copy reads it (Table 4-10). -/
def readsMoved (m : Mach) (c : Copy) (wr : Bool) (e : RegionE) : Bool :=
  c.vfn == 0 && !wr && e.vfn != 0 && decide (1 ≤ (m.vf e.vfn).mig) && decide ((m.vf e.vfn).mig ≤ 4)
/-- Whether a region allows a copy (R77): a SHARED_RO one may be read whatever VF it belongs to (R253). -/
def copyAllows (m : Mach) (c : Copy) (wr : Bool) (e : RegionE) : Bool :=
  (e.st != 0 && readsMoved m c wr e) || (!wr && e.st == 3) || (e.st == 1 && (c.vfn == 0 || e.vfn == c.vfn))

/-- The regions of every range of a copy, or the first address without a mapping, its access and WHY. -/
def copyRegions (m : Mach) (part : Nat) (len : Nat) (rs : List (Nat × Bool)) : Except (Nat × Nat × Nat) (List (Nat × Bool)) :=
  match rs with
  | [] => .ok []
  | (a, wr) :: t =>
    let acc := if wr then accWrite else accRead
    match rangeRegions m part a len acc, copyRegions m part len t with
    | .error e, _ => .error (e.1, acc, e.2)
    | _, .error e => .error e
    | .ok l, .ok l' => .ok ((l.map fun r => (r, wr)) ++ l')

/-- A copy ends: its regions are FREE again, and who asked is told. -/
def finishCopy (m : Mach) (id status detail inv : Nat) : Mach :=
  let c := m.copy id
  let m := eachRegion m (copyPart m c) c.held fun e => if e.st = 5 ∧ e.hold = 1 then e.free else e
  let m := m.dropCopy id
  match c.node with
  | some (run, k) => nodeDone m run k status ((m.run run).succs k)
  | none => complete m c.q c.cmd status detail 0 inv
/-- The regions of a copy are checked before any byte moves (R77); a missing mapping is asked for first. FREE regions are held
IN_TRANSFER; a SHARED_RO one keeps its state and does not change it while the copy runs (R252). -/
def startCopy (m : Mach) (id : Nat) : Mach :=
  let c := m.copy id
  let part := copyPart m c
  if c.len = 0 then finishCopy m id 0 0 0
  else
    match copyRegions m part c.len c.ranges with
    | .error (va, acc, w) =>
      let inv := match c.node with
        | some (run, _) => (m.run run).inv
        | none => 0
      copyFault (m.setCopy id { c with req := 2 }) id part c.vfn inv va acc w
    | .ok rs =>
      if rs.all fun r => copyAllows m c r.2 (m.region part r.1) then
        let mine := (rs.filter fun r => !readsMoved m c r.2 (m.region part r.1)).map Prod.fst
        let busy := mine.filter fun r => (m.region part r).st == 1
        (eachRegion m part busy.eraseDups RegionE.busy).setCopy id { c with req := 1, held := mine.eraseDups }
      else finishCopy m id 5 0 0

/-- Offset of the first byte of physical pieces that cannot be read: in a unit with an uncorrectable error (R234), or in a region
whose key slot is erased (R467). -/
def firstUe (m : Mach) (ps : List (Nat × Nat)) : Option Nat :=
  let r := ps.foldl (fun (s : Nat × Option Nat) p =>
    let hits := (m.sys.hbmErr.filter fun e => e.2 ≥ 2 && decide (p.1 / 64 ≤ e.1) && decide (e.1 ≤ (p.1 + p.2 - 1) / 64)).map
      fun e => s.1 + (max (64 * e.1) p.1 - p.1)
    (s.1 + p.2, match s.2, (if keyErased m p.1 then [s.1] else hits) with
      | some x, _ => some x
      | none, [] => none
      | none, h => some (minOf h))) (0, none)
  r.2
/-- Offset of the first byte of physical pieces that cannot be written. -/
def firstErased (m : Mach) (ps : List (Nat × Nat)) : Option Nat :=
  (ps.foldl (fun (s : Nat × Option Nat) p => (s.1 + p.2, s.2.or (if keyErased m p.1 then some s.1 else none))) (0, none)).2
/-- Where a copy stops short of the end of its pieces: none, or how many bytes of it move. -/
def copyStop (m : Mach) (src dst : List (Nat × Nat)) : Option Nat :=
  match firstUe m src, firstErased m dst with
  | some a, some b => some (min a b)
  | some a, none => some a
  | none, b => b
/-- Move bytes of a copy over checked pieces, from its offset `done`. -/
def moveBytes (m : Mach) (c : Copy) (ps : List (Nat × Nat)) (n : Nat) : Mach :=
  let part := copyPart m c
  if c.dir = 0 then
    let m := hbmWriteAll m part ps (m.sys.host.readList (c.haddr + c.done) n)
    ps.foldl (fun m p => noteHbmWrite m p.1 p.2) m
  else if c.dir = 1 then
    let m := ps.foldl (fun m p => noteHbmRead m p.1 p.2) m
    m.setHost (m.sys.host.writeList (c.haddr + c.done) ((hbmRead m ps).1.take n))
  else
    match devPieces m part (c.haddr + c.done) n accRead with
    | .ok src =>
      let m := src.foldl (fun m p => noteHbmRead m p.1 p.2) m
      let m := hbmWriteAll m part ps ((hbmRead m src).1.take n)
      ps.foldl (fun m p => noteHbmWrite m p.1 p.2) m
    | .error _ => m
/-- Where a copy reads HBM. -/
def copySource (m : Mach) (c : Copy) (n : Nat) : List (Nat × Nat) :=
  if c.dir = 0 then []
  else match devPieces m (copyPart m c) ((if c.dir = 1 then c.daddr else c.haddr) + c.done) n accRead with
    | .ok ps => ps
    | .error _ => []
/-- Carry a checked copy on up to byte `upTo`: the machine, and whether it got there. -/
def advanceCopy (m : Mach) (id upTo : Nat) : Mach × Bool :=
  let c := m.copy id
  let part := copyPart m c
  let n := min upTo c.len - c.done
  if n = 0 then (m, true)
  else
    let find := c.ranges.map fun r =>
      (r.1, r.2, devPieces m part (r.1 + c.done) n (if r.2 then accWrite else accRead))
    let bad := find.findSome? fun x => match x.2.2 with
      | .error e => some (x.1, x.2.1, e)
      | .ok _ => none
    match bad with
    | some (base, wr, va, w) =>
      let k := va - (base + c.done)
      let m := match devPieces m part (c.daddr + c.done) k (if c.dir = 1 then accRead else accWrite) with
        | .ok ps => if k = 0 then m else moveBytes m c ps k
        | .error _ => m
      let inv := match c.node with
        | some (run, _) => (m.run run).inv
        | none => 0
      (copyFault (m.setCopy id { c with done := c.done + k, req := 3 }) id part c.vfn inv va (if wr then accWrite else accRead) w, false)
    | none =>
      match devPieces m part (c.daddr + c.done) n (if c.dir = 1 then accRead else accWrite) with
      | .ok ps =>
        let src := copySource m c n
        if m.stalled (ps ++ src) then (m, false)
        else
          match copyStop m src (if c.dir = 1 then [] else ps) with
          | some k =>
            -- an uncorrectable unit (R234) or an erased key (R467; log 67) ends it; what lies below has been copied
            let m := if k = 0 then m else moveBytes m c (copyTake ps k) k
            let m := src.foldl (fun m p => noteHbmRead m p.1 p.2) m
            (finishCopy m id 8 (2 ^ 15 + 2 ^ 14) (c.done + k), false)
          | none => ((moveBytes m c ps n).setCopy id { c with done := c.done + n }, true)
      | .error _ => (m, false)
where
  /-- The first `k` bytes of physical pieces. -/
  copyTake (ps : List (Nat × Nat)) (k : Nat) : List (Nat × Nat) :=
    match ps with
    | [] => []
    | (a, n) :: t => if k = 0 then [] else (a, min n k) :: copyTake t (k - n)
/-- Page requests not yet answered: at most 512 stand at once (R20). -/
def pagesAsked (m : Mach) : Nat := (m.sys.copies.filter fun e => e.2.req == 4).length
/-- A copy has met a host page that ATS does not translate, at its byte `done`: the page is requested by PRI under the copy's PASID,
for reading or writing, and the copy waits (R78). Where 512 requests stand already, it is asked for later. -/
def askPage (m : Mach) (id : Nat) : Mach :=
  let c := m.copy id
  if c.len ≤ c.done ∨ 512 ≤ pagesAsked m then m
  else (m.setCopy id { c with req := 4 }).send ⟨3, c.pasid, (c.haddr + c.done) / 4096 * 4096, [BitVec.ofNat 8 (c.dir + 1)]⟩
/-- COPYH_DONE: the rest of a checked copy is made and it completes (R77); `miss` is 0, or one more than the offset of the first
byte in a host page that is missing. -/
def copyDone (m : Mach) (id miss : Nat) : Mach :=
  let c := m.copy id
  if (m.sys.copies.any fun e => e.1 == id) && c.req == 1 && c.dir != 2 then
    if miss ≠ 0 ∧ c.dir ≤ 1 then
      let r := advanceCopy m id (max (miss - 1) c.done)
      if r.2 then askPage r.1 id else r.1
    else
      let r := advanceCopy m id c.len
      if r.2 then finishCopy r.1 id 0 0 0 else r.1
  else m
/-- PAGE_REQUEST_RESPONSE (R78): the answer to the page request of a copy, or request and answer in one step for the host page at
byte `off`; a refusal ends the copy there. -/
def pageAnswer (m : Mach) (id off : Nat) (granted : Bool) : Mach :=
  let c := m.copy id
  let m := if c.req = 1 then copyDone m id (off + 1) else m
  let c := m.copy id
  if (m.sys.copies.any fun e => e.1 == id) && c.req == 4 && decide (c.dir ≤ 1) then
    if granted then m.setCopy id { c with req := 1 } else finishCopy m id 8 0 c.done
  else m

/-! ### COPYH (R76, R79, R80) -/

/-- The form of an entry. -/
def copyForm (b : List Byte) : Bool :=
  decide (argOf b < 4) && zeroAt b 32 32 && decide (leAt b 16 8 < 2 ^ 49) && decide (leAt b 24 8 ≤ 2 ^ 32) &&
    decide (leAt b 8 8 < if nbit (argOf b) 1 then 2 ^ 42 else 2 ^ 57)
/-- The host side: PASID and address, or a refusal of the handle (STATUS 9). -/
def hostSide (m : Mach) (k : Nat) (b : List Byte) : Option (Nat × Nat) :=
  let a := argOf b
  let v := leAt b 8 8
  if nbit a 1 then
    let h : Handle := SMap.get (fun _ => {}) (m.vf (k / 16)).handles (nbits v 41 32)
    let off := nbits v 31 0
    if (!h.rd && !h.wr) || (!nbit a 0 && !h.rd) || (nbit a 0 && !h.wr) || decide (h.len < off + leAt b 24 8) then none
    else some (h.pasid, h.base + off)
  else some ((m.queue k).pasid, v)
/-- A well-formed entry starts its copy; `c` is already one of the queue's started commands. A bad handle is refused before LEN 0 is
looked at (log 66). -/
def openCopy (m : Mach) (k : Nat) (b : List Byte) (c : Cmd) : Mach :=
  match hostSide m k b with
  | none => complete m k c 9 0 0 0
  | some (pasid, h) =>
    let i := m.newId
    startCopy (i.2.setCopy i.1 { q := k, cmd := c, dir := argOf b % 2, pasid := pasid, haddr := h, daddr := leAt b 16 8,
                                 len := leAt b 24 8 }) i.1
/-- COPYH of a host entry. -/
def cmdCopyh (m : Mach) (k : Nat) (b : List Byte) (c : Cmd) : Mach :=
  if copyForm b then openCopy (goOn m k 1 c) k b c else endCmd m k 1 c 2 0 0 0
/-- A COPYH entry that DMAQ queued starts between host entries (R80). -/
def startDmaq (m : Mach) (k : Nat) : Option Mach :=
  let q := m.queue k
  match q.dmaq with
  | [] => none
  | b :: t =>
    if queueRuns m k && !q.full && q.recs == [] && q.waitCmd.isNone then
      let c : Cmd := ⟨2 ^ 32 + m.sys.seq, byteAt b 0, byteAt b 1, leAt b 4 4, 0⟩
      let m := m.newId.2.setQueue k { q with dmaq := t, started := q.started ++ [c] }
      some (if 4 ≤ byteAt b 1 ∨ !copyForm b then complete m k c 2 0 0 0
        else if !nbit (argOf b) 1 then complete m k c 9 0 0 0
        else openCopy m k b c)
    else none
/-- COPYH: a queued DMAQ entry, else the entry at the head of the ring. -/
def runCopyh (m : Mach) (vfn qidx : Nat) : Mach :=
  let k := queueKey vfn qidx
  if 8 ≤ qidx ∨ 512 < vfn then m
  else
    match startDmaq (catchUp m k) k with
    | some m => m
    | none => startCmd m vfn qidx 6 cmdCopyh

/-- HANDLE_COMMIT (R79, Table 3-12): a write of HBCTL. -/
def handleCommit (m : Mach) (vfn : Nat) (ctl : Dword) : Mach :=
  let v := m.vf vfn
  if vfn = 0 ∨ 512 < vfn ∨ !v.live then m
  else
    let keep := ctl &&& 0x3000FFFFF
    let v := { v with hbctl := keep }
    let h : Handle := { base := v.hbbase.toNat, len := v.hblen.toNat, rd := bit ctl 32, wr := bit ctl 33, pasid := bits ctl 19 0 }
    m.setVf vfn (if bit ctl 63 then { v with handles := SMap.set (fun _ => {}) v.handles v.hbidx h } else v)

/-! ### Fault service (R247, R248) -/

/-- The command at the head of a queue that waited for a mapping is refused it. -/
def headRefused (m : Mach) (k : Nat) : Mach :=
  let q := m.queue k
  match q.waitCmd with
  | some (b, _) => endWaitCmd m k b 8 (2 ^ 15)
  | none => endCmd m k 1 (cmdOf q (entryAt m k q.head)) 8 (2 ^ 15) 0 0
/-- A copy's fault entry is resolved, or its mapping refused (R249). -/
def copyAnswer (m : Mach) (id : Nat) (ok : Bool) : Mach :=
  let c := m.copy id
  if !(m.sys.copies.any fun e => e.1 == id) then m
  else if c.dir = 2 then
    let m := m.dropCopy id
    if ok then m else headRefused m c.q
  else if c.dir = 5 then
    let m := m.dropCopy id
    if ok then m else loadFails m c.vfn c.haddr 8 (2 ^ 15) 0
  else if !ok then finishCopy m id 8 (2 ^ 15) c.done
  else if c.dir = 4 then m.setCopy id { c with req := 0 }
  else if c.req = 3 then m.setCopy id { c with req := 1 }
  else startCopy (m.setCopy id { c with req := 0 }) id
/-- A record leaves its walker, resolved or refused. -/
def fltEnd (m : Mach) (p : Nat) (f : FltRec) (ok : Bool) : Mach :=
  let m := m.modPanel p fun x => { x with flts := x.flts.filter fun g => g != f }
  match f.task with
  | some t =>
    if !ok then endLaunch m t.launch 8 (2 ^ 15)
    else
      let l := m.launch t.launch
      if f.eng = 9 ∨ faultPending m t.launch (l.gangOf t.task) then m else gsEvent m (l.gangSites (l.gangOf t.task))
  | none => copyAnswer m (f.who - 2 ^ 20) ok
/-- FLTR with GO: the entry `cnt` of a panel; a count not outstanding is ignored. -/
def fltResolve (m : Mach) (p cnt : Nat) (refuse : Bool) : Mach :=
  match (m.panel p).flts.find? fun f => f.cnt == some cnt with
  | none => m
  | some f =>
    let part := (m.panel p).part.getD 32
    let w := walk m p part f.va f.acc
    match refuse, w.1 with
    | false, .leaf _ => fltEnd (m.modPanel p fun x => { x with walkc := walkKeep x.walkc w.2 }) p f true
    | _, _ => fltEnd m p f false
/-- A write of FLTR (Table 10-3). -/
def fltrWrite (m : Mach) (p : Nat) (v : Dword) : Mach := if bit v 63 then fltResolve m p (bits v 31 0) (bit v 62) else m

/-- PAGE_WALK (R240): a walk for an access ends; a permitting leaf fills the TLB and the walk cache. The access itself
meets a failed walk. -/
def pageWalk (m : Mach) (a eng va acc : Nat) : Mach :=
  if agentIn a then (translate m a (if isTileAgent a then (m.agent a).ctl.part else (m.partOf a).getD 32) eng va acc).2 else m
where
  agentIn (a : Nat) : Bool := decide (a < 1184) && decide (eng ≤ 8)

/-- PTROOT (R242): written on the lead core only; every TLB and walk cache of the partition is invalidated. -/
def ptrootSet (m : Mach) (panel : Nat) (v : Dword) : Mach :=
  match m.leads panel with
  | some part => flushTlbs (m.setPart part { m.partn part with ptroot := v &&& 0xFFFFFFFFE001 }) part fun _ => true
  | none => m

/-- COPYH (R76). -/
def execCopyh (st : State) : Res := runEvent (fun x m => runCopyh m x.a x.b) st
/-- COPYH_DONE (R77). -/
def execCopyhDone (st : State) : Res := runEvent (fun x m => copyDone m x.a x.b) st
/-- PAGE_REQUEST_RESPONSE (R78). -/
def execPageRequestResponse (st : State) : Res := runEvent (fun x m => pageAnswer m x.a x.c (x.b != 0)) st
/-- HANDLE_COMMIT (R79). -/
def execHandleCommit (st : State) : Res := runEvent (fun x m => handleCommit m x.a x.v) st
/-- FLTR_SUPPLY (R248). -/
def execFltrSupply (st : State) : Res := runEvent (fun x m => fltResolve m x.a x.b false) st
/-- FLTR_REFUSE (R248). -/
def execFltrRefuse (st : State) : Res := runEvent (fun x m => fltResolve m x.a x.b true) st
/-- PAGE_WALK (R240). -/
def execPageWalk (st : State) : Res := runEvent (fun x m => pageWalk m x.a x.b x.c x.d) st
/-- PTROOT_WRITE (R242). -/
def execPtrootWrite (st : State) : Res := runEvent (fun x m => ptrootSet m x.a x.v) st

end Sys2Proof.Machine
end

