-- ==== Sys2Proof/Machine/Float.lean ====
section
/-!
DEFINITION. Floating point (12_arithmetic R290-R294, R299): the formats, exact values, one rounding, and the
flags. A value is NaN, an infinity, or an exact number mant × 2^exp.
-/
namespace Sys2Proof.Machine

/-- An exact floating-point value. -/
inductive Fl where
  /-- A NaN; `sig` for a signalling one (R292). -/
  | nan (sig : Bool)
  | inf (neg : Bool)
  /-- (−1)^neg × mant × 2^exp; mant 0 is a signed zero. -/
  | fin (neg : Bool) (mant : Nat) (exp : Int)
  deriving DecidableEq, Repr

/-- Flag bits of FFLAGS (Table 12-5). -/
def flagNV : Nat := 16
def flagDZ : Nat := 8
def flagOF : Nat := 4
def flagUF : Nat := 2
def flagNX : Nat := 1

/-- Exponent and fraction widths and bias (Table 12-2). -/
def fracBits (t : Nat) : Nat :=
  match t with
  | 4 => 3
  | 5 => 2
  | 6 => 10
  | 7 => 7
  | 8 => 23
  | 9 => 52
  | _ => 1
def expBits (t : Nat) : Nat := typeWidth t - 1 - fracBits t
def biasOf (t : Nat) : Nat :=
  match t with
  | 4 => 7
  | 5 => 15
  | 6 => 15
  | 7 => 127
  | 8 => 127
  | 9 => 1023
  | _ => 1

/-- The canonical NaN (Table 12-3). -/
def canonNaN (t : Nat) : Nat :=
  match t with
  | 4 => 0x7F
  | 5 => 0x7E
  | 6 => 0x7E00
  | 7 => 0x7FC0
  | 8 => 0x7FC00000
  | 9 => 0x7FF8000000000000
  | _ => 0

/-- The bits of an infinity (formats that have one) and of the largest finite value. -/
def infBits (t : Nat) (neg : Bool) : Nat :=
  (if neg then 2 ^ (typeWidth t - 1) else 0) + (2 ^ expBits t - 1) * 2 ^ fracBits t
def maxFinite (t : Nat) (neg : Bool) : Nat :=
  (if neg then 2 ^ (typeWidth t - 1) else 0) +
    (if t = 4 then 0x7E else if t = 10 then 7 else (2 ^ expBits t - 1) * 2 ^ fracBits t - 1)

/-- What the bits of a type stand for (R290, R292). -/
def unpack (t x : Nat) : Fl :=
  let w := typeWidth t
  let f := x % 2 ^ fracBits t
  let e := (x >>> fracBits t) % 2 ^ expBits t
  let s := Nat.testBit x (w - 1)
  if t = 4 ∧ e = 15 ∧ f = 7 then .nan false
  else if t ≠ 4 ∧ t ≠ 10 ∧ e = 2 ^ expBits t - 1 then
    if f = 0 then .inf s else .nan (t != 5 && !Nat.testBit f (fracBits t - 1))
  else if e = 0 then .fin s f (1 - (biasOf t : Int) - fracBits t)
  else .fin s (2 ^ fracBits t + f) ((e : Int) - biasOf t - fracBits t)

/-- Rounding modes (Table 12-4). -/
inductive RMode where
  | ne
  | tz
  | up
  | dn
  deriving DecidableEq, Repr

def rmOf (k : Nat) : RMode :=
  match k % 4 with
  | 0 => .ne
  | 1 => .tz
  | 2 => .up
  | _ => .dn

/-- How a rounded operation behaves: mode, FP8 saturation, flush (FRM, Table 12-5). -/
structure FCtl where
  rm : RMode
  sf : Bool
  ftz : Bool
  deriving DecidableEq, Repr

/-- FRM as controls; FTZ is for the words R294 names only. -/
def fctlOf (frm : Dword) : FCtl := { rm := rmOf (bits frm 1 0), sf := bit frm 3, ftz := bit frm 2 }
def FCtl.noFtz (c : FCtl) : FCtl := { c with ftz := false }

/-- Divide by 2^k with rounding; `sticky` says that more nonzero value lies below. Also whether inexact. -/
def roundShift (m : RMode) (neg : Bool) (x k : Nat) (sticky : Bool) : Nat × Bool :=
  let q := x >>> k
  let r := x % 2 ^ k
  let inexact := r != 0 || sticky
  let half := 2 ^ k
  let up :=
    match m with
    | .ne =>
      if 2 * r < half then false
      else if 2 * r = half ∧ k ≠ 0 then sticky || q % 2 == 1
      else if k = 0 then false else true
    | .tz => false
    | .up => inexact && !neg
    | .dn => inexact && neg
  (if up then q + 1 else q, inexact)

/-- `x × 2^e` as a multiple of `2^q`, rounded. `sticky` stands for value below `x`'s last bit; callers keep
two spare bits when they set it. -/
def quantize (m : RMode) (neg : Bool) (x : Nat) (e q : Int) (sticky : Bool) : Nat × Bool :=
  if q ≤ e then (x <<< (e - q).toNat, sticky) else roundShift m neg x (q - e).toNat sticky

/-- Exponent of the smallest normal, and of the last place of a subnormal. -/
def eMin (t : Nat) : Int := 1 - (biasOf t : Int)

/-- The bits of `n × 2^q` where `q` is the quantum of its binade. -/
def packFin (t : Nat) (neg : Bool) (n : Nat) (q : Int) : Nat :=
  let s := if neg then 2 ^ (typeWidth t - 1) else 0
  let p := fracBits t
  if n = 0 then s
  else if n < 2 ^ p then s + n
  else
    -- a carry out of the binade doubles n
    let (n', q') := if 2 ^ (p + 1) ≤ n then (n / 2, q + 1) else (n, q)
    s + (q' + p + biasOf t).toNat * 2 ^ p + (n' - 2 ^ p)

/-- The infinity of Table 12-4's overflow results; E4M3 has none and holds the canonical NaN (R293). -/
def overflowInf (t : Nat) (neg : Bool) : Nat := if t = 4 then canonNaN 4 else infBits t neg

/-- The overflow result and flags of R293 (Table 12-4, and SF for FP8). -/
def overflowOf (t : Nat) (c : FCtl) (neg : Bool) : Nat × Nat :=
  let fl := flagOF + flagNX
  if (t = 4 ∨ t = 5) ∧ c.sf then (maxFinite t neg, fl)
  else
    match c.rm, neg with
    | .ne, _ => (overflowInf t neg, fl)
    | .tz, _ => (maxFinite t neg, fl)
    | .up, false => (overflowInf t neg, fl)
    | .up, true => (maxFinite t neg, fl)
    | .dn, false => (maxFinite t neg, fl)
    | .dn, true => (overflowInf t neg, fl)

/-- Whether `n × 2^q` lies beyond the largest finite value of an IEEE-like format. -/
def beyond (t n : Nat) (q : Int) : Bool :=
  let top : Int := if t = 10 then 3 else if t = 4 then 9 else (2 ^ expBits t - 1 : Nat) - (biasOf t : Int)
  decide (top ≤ (Nat.log2 n : Int) + q)

/-- Round `mant × 2^exp` (not zero unless `sticky`) once to type `t` (R293, R294): bits and flags. -/
def roundFin (t : Nat) (c : FCtl) (neg : Bool) (mant : Nat) (exp : Int) (sticky : Bool) : Nat × Nat :=
  if mant = 0 then ((if neg then 2 ^ (typeWidth t - 1) else 0), if sticky then flagUF + flagNX else 0)
  else
    let e : Int := Nat.log2 mant + exp
    let p : Int := fracBits t
    let qu := e - p
    let q := if qu < eMin t - p then eMin t - p else qu
    let nu := quantize c.rm neg mant exp qu sticky
    let n := quantize c.rm neg mant exp q sticky
    let tiny := decide ((Nat.log2 nu.1 : Int) + qu < eMin t)
    if t = 4 ∧ e = 8 ∧ (14 * 2 ^ 60 < ((mant <<< 60) >>> (Nat.log2 mant - 3)) ∨
        (sticky ∧ 14 * 2 ^ 60 ≤ ((mant <<< 60) >>> (Nat.log2 mant - 3)))) ∧ 3 ≤ Nat.log2 mant then
      -- E4M3 between 448 and 512 (R293)
      let x := (mant <<< 60) >>> (Nat.log2 mant - 3)
      let past :=
        match c.rm with
        | .ne => decide (15 * 2 ^ 60 < x) || (sticky && x == 15 * 2 ^ 60)
        | .tz => false
        | .up => !neg
        | .dn => neg
      if past then overflowOf t c neg else (maxFinite t neg, flagNX)
    else if beyond t n.1 q then overflowOf t c neg
    else if c.ftz ∧ tiny then ((if neg then 2 ^ (typeWidth t - 1) else 0), flagUF + flagNX)
    else (packFin t neg n.1 q, (if n.2 then flagNX else 0) + (if n.2 && tiny then flagUF else 0))

/-- A zero of either sign. -/
def zeroBits (t : Nat) (neg : Bool) : Nat := if neg then 2 ^ (typeWidth t - 1) else 0

/-- An exact value rounded to a type; conversions of infinities to FP8 follow R293. -/
def roundFl (t : Nat) (c : FCtl) (x : Fl) : Nat × Nat :=
  match x with
  | .nan s => (canonNaN t, if s then flagNV else 0)
  | .inf n => if t = 4 then (canonNaN 4, flagNV) else (infBits t n, 0)
  | .fin n 0 _ => (zeroBits t n, 0)
  | .fin n m e => roundFin t c n m e false
/-- A floating-point value converted to a type: with SF set, an infinity to FP8 is the largest finite value (R293). -/
def convFl (t : Nat) (c : FCtl) (x : Fl) : Nat × Nat :=
  match x with
  | .inf n => if (t = 4 ∨ t = 5) ∧ c.sf then (maxFinite t n, 0) else roundFl t c x
  | x => roundFl t c x

/-! ### Exact operations -/

/-- A signed integer times 2^exp. -/
def flInt (neg : Bool) (m : Nat) : Int := if neg then -(m : Int) else (m : Int)
def flOfInt (x : Int) (exp : Int) (zneg : Bool) : Fl :=
  if x = 0 then .fin zneg 0 0 else .fin (decide (x < 0)) x.natAbs exp

/-- The exact sum of two numbers given as integers on their exponents. -/
def addExact (a : Int) (ea : Int) (b : Int) (eb : Int) : Int × Int :=
  let e := if ea < eb then ea else eb
  (a * 2 ^ (ea - e).toNat + b * 2 ^ (eb - e).toNat, e)

/-- a + b: exact result and NV (R382). The sign of an exact zero sum follows IEEE 754. -/
def flAdd (m : RMode) (a b : Fl) : Fl × Nat :=
  match a, b with
  | .nan s, .nan s' => (.nan false, if s || s' then flagNV else 0)
  | .nan s, _ => (.nan false, if s then flagNV else 0)
  | _, .nan s => (.nan false, if s then flagNV else 0)
  | .inf n, .inf n' => if n = n' then (.inf n, 0) else (.nan false, flagNV)
  | .inf n, _ => (.inf n, 0)
  | _, .inf n => (.inf n, 0)
  | .fin n x e, .fin n' x' e' =>
    let r := addExact (flInt n x) e (flInt n' x') e'
    if r.1 = 0 then (.fin (if x = 0 ∧ x' = 0 ∧ n = n' then n else decide (m = .dn)) 0 0, 0)
    else (flOfInt r.1 r.2 false, 0)

/-- The negated value. -/
def flNeg (a : Fl) : Fl :=
  match a with
  | .nan s => .nan s
  | .inf n => .inf (!n)
  | .fin n m e => .fin (!n) m e

/-- a × b: exact result and NV. -/
def flMul (a b : Fl) : Fl × Nat :=
  match a, b with
  | .nan s, .nan s' => (.nan false, if s || s' then flagNV else 0)
  | .nan s, _ => (.nan false, if s then flagNV else 0)
  | _, .nan s => (.nan false, if s then flagNV else 0)
  | .inf n, .inf n' => (.inf (n != n'), 0)
  | .inf n, .fin n' m _ => if m = 0 then (.nan false, flagNV) else (.inf (n != n'), 0)
  | .fin n m _, .inf n' => if m = 0 then (.nan false, flagNV) else (.inf (n != n'), 0)
  | .fin n m e, .fin n' m' e' => (.fin (n != n') (m * m') (e + e'), 0)

/-- A subnormal operand read as a zero of its sign (R294, FTZ). -/
def flushIn (t : Nat) (c : FCtl) (a : Fl) : Fl :=
  match a with
  | .fin n m e => if c.ftz ∧ m < 2 ^ fracBits t then .fin n 0 0 else .fin n m e
  | x => x

/-- FTZ is read by the words of R294 on FP16 and BF16 only. -/
def ctlFor (t : Nat) (c : FCtl) : FCtl := if t = 6 ∨ t = 7 then c else c.noFtz

/-- Lane addition, subtraction, multiplication, fused forms (Table 16-5): bits and flags. -/
def laneAdd (t : Nat) (c0 : FCtl) (a b : Nat) : Nat × Nat :=
  let c := ctlFor t c0
  let r := flAdd c.rm (flushIn t c (unpack t a)) (flushIn t c (unpack t b))
  let q := roundFl t c r.1
  (q.1, r.2 ||| q.2)
def laneSub (t : Nat) (c0 : FCtl) (a b : Nat) : Nat × Nat :=
  let c := ctlFor t c0
  let r := flAdd c.rm (flushIn t c (unpack t a)) (flNeg (flushIn t c (unpack t b)))
  let q := roundFl t c r.1
  (q.1, r.2 ||| q.2)
def laneMul (t : Nat) (c0 : FCtl) (a b : Nat) : Nat × Nat :=
  let c := ctlFor t c0
  let r := flMul (flushIn t c (unpack t a)) (flushIn t c (unpack t b))
  let q := roundFl t c r.1
  (q.1, r.2 ||| q.2)
/-- d ± a × b with one rounding. -/
def laneFma (t : Nat) (c0 : FCtl) (sub : Bool) (a b d : Nat) : Nat × Nat :=
  let c := ctlFor t c0
  let p := flMul (flushIn t c (unpack t a)) (flushIn t c (unpack t b))
  let r := flAdd c.rm (if sub then flNeg p.1 else p.1) (flushIn t c (unpack t d))
  let q := roundFl t c r.1
  (q.1, p.2 ||| r.2 ||| q.2)

/-- Numbers in order, −0 below +0 (R383). -/
def flKey (a : Fl) : Int × Int × Bool :=
  match a with
  | .nan _ => (0, 0, false)
  | .inf n => (if n then -1 else 1, 0, n)
  | .fin n m e => (flInt n m, e, n)

/-- a < b for two values that are not NaN; `zeros` says whether −0 < +0. -/
def flLt (zeros : Bool) (a b : Fl) : Bool :=
  match a, b with
  | .inf n, .inf n' => n && !n'
  | .inf n, _ => n
  | _, .inf n' => !n'
  | .fin n m e, .fin n' m' e' =>
    if m = 0 ∧ m' = 0 then zeros && n && !n'
    else
      let r := addExact (flInt n m) e (-(flInt n' m')) e'
      decide (r.1 < 0)
  | _, _ => false

def Fl.isNaN (a : Fl) : Bool :=
  match a with
  | .nan _ => true
  | _ => false
def Fl.isSig (a : Fl) : Bool :=
  match a with
  | .nan s => s
  | _ => false

/-- VMIN and VMAX of floating-point lanes (R383). -/
def laneMinMax (t : Nat) (c0 : FCtl) (mx : Bool) (a b : Nat) : Nat × Nat :=
  let c := ctlFor t c0
  let x := flushIn t c (unpack t a)
  let y := flushIn t c (unpack t b)
  let f := if x.isSig || y.isSig then flagNV else 0
  if x.isNaN || y.isNaN then (canonNaN t, f)
  else
    let lt := flLt true x y
    let pick := if mx then (if lt then y else x) else (if flLt true y x then y else x)
    let bitsOf := if mx then (if lt then b else a) else (if flLt true y x then b else a)
    match pick with
    | .fin n 0 _ => (zeroBits t n, f)
    | _ => (bitsOf, f)

/-- VABS and VNEG of floating-point lanes (R384). -/
def laneSign (t : Nat) (neg : Bool) (a : Nat) : Nat × Nat :=
  match unpack t a with
  | .nan s => (canonNaN t, if s then flagNV else 0)
  | _ => (if neg then Nat.xor a (2 ^ (typeWidth t - 1)) else a % 2 ^ (typeWidth t - 1), 0)

/-- FCLASS (R401). -/
def laneClass (t a : Nat) : Nat :=
  match unpack t a with
  | .nan s => if s then 8 else 9
  | .inf n => if n then 0 else 7
  | .fin n m _ =>
    if m = 0 then (if n then 3 else 4)
    else if m < 2 ^ fracBits t then (if n then 2 else 5)
    else (if n then 1 else 6)

/-- Round a value to an integer (Table 12-6): the integer and whether inexact. -/
def flToInt (m : RMode) (n : Bool) (x : Nat) (e : Int) : Int × Bool :=
  let r := quantize m n x e 0 false
  (flInt n r.1, r.2)

/-- Convert of R299: source type, destination type, controls; bits, FFLAGS bits, SAT. -/
def convert (s t : Nat) (c : FCtl) (x : Nat) : Nat × Nat × Bool :=
  if isFl s then
    if isFl t then
      let r := convFl t c.noFtz (unpack s x)
      (r.1, r.2, false)
    else
      match unpack s x with
      | .nan _ => (0, flagNV, false)
      | .inf n => (wrapN (typeWidth t) (if n then typeMin t else typeMax t), flagNV, false)
      | .fin n m e =>
        let r := flToInt c.rm n m e
        if r.1 < typeMin t then (wrapN (typeWidth t) (typeMin t), flagNV, false)
        else if typeMax t < r.1 then (wrapN (typeWidth t) (typeMax t), flagNV, false)
        else (wrapN (typeWidth t) r.1, if r.2 then flagNX else 0, false)
  else
    let v := laneInt s x
    if isFl t then
      let r := roundFl t c.noFtz (flOfInt v 0 false)
      (r.1, r.2, false)
    else
      let r := satT t v
      (r.1, 0, r.2)

/-! ### Square root and reciprocal, correctly rounded (R399) -/

/-- Integer square root by bisection on bits, from bit `k` down. -/
def isqrtGo (k n r : Nat) : Nat :=
  match k with
  | 0 => r
  | j + 1 => isqrtGo j n (if (r + 2 ^ j) * (r + 2 ^ j) ≤ n then r + 2 ^ j else r)
def isqrt (n : Nat) : Nat := isqrtGo (Nat.log2 n / 2 + 1) n 0

/-- The square root of mant × 2^exp with `sticky`. -/
def flSqrt (mant : Nat) (exp : Int) : Nat × Int × Bool :=
  let e0 := exp - 128
  let odd := e0 % 2 != 0
  let m := mant * 2 ^ (if odd then 129 else 128)
  let e := if odd then e0 - 1 else e0
  let r := isqrt m
  (r, e / 2, r * r != m)

/-- FSQRT and FRCP lanes (R399, Table 16-8). -/
def laneSqrt (t : Nat) (c : FCtl) (a : Nat) : Nat × Nat :=
  match unpack t a with
  | .nan s => (canonNaN t, if s then flagNV else 0)
  | .inf n => if n then (canonNaN t, flagNV) else (infBits t false, 0)
  | .fin n 0 _ => (zeroBits t n, 0)
  | .fin true _ _ => (canonNaN t, flagNV)
  | .fin false m e =>
    let r := flSqrt m e
    roundFin t c.noFtz false r.1 r.2.1 r.2.2
def laneRcp (t : Nat) (c : FCtl) (a : Nat) : Nat × Nat :=
  match unpack t a with
  | .nan s => (canonNaN t, if s then flagNV else 0)
  | .inf n => (zeroBits t n, 0)
  | .fin n 0 _ => (infBits t n, flagDZ)
  | .fin n m e =>
    let k := Nat.log2 m + 128
    roundFin t c.noFtz n (2 ^ k / m) (-(k : Int) - e) (2 ^ k % m != 0)

/-- a / b, rounded once (R274). -/
def laneDiv (t : Nat) (c : FCtl) (a b : Nat) : Nat × Nat :=
  match unpack t a, unpack t b with
  | .nan s, .nan s' => (canonNaN t, if s || s' then flagNV else 0)
  | .nan s, _ => (canonNaN t, if s then flagNV else 0)
  | _, .nan s => (canonNaN t, if s then flagNV else 0)
  | .inf _, .inf _ => (canonNaN t, flagNV)
  | .inf n, .fin n' _ _ => (infBits t (n != n'), 0)
  | .fin n _ _, .inf n' => (zeroBits t (n != n'), 0)
  | .fin n m e, .fin n' m' e' =>
    if m' = 0 then (if m = 0 then (canonNaN t, flagNV) else (infBits t (n != n'), flagDZ))
    else if m = 0 then (zeroBits t (n != n'), 0)
    else
      let k := Nat.log2 m' + 128
      roundFin t c.noFtz (n != n') (m * 2 ^ k / m') (e - e' - (k : Int)) (m * 2 ^ k % m' != 0)

/-- FSCALE (R400). -/
def laneScale (t : Nat) (c : FCtl) (a : Nat) (n : Int) : Nat × Nat :=
  match unpack t a with
  | .fin s 0 _ => (zeroBits t s, 0)
  | .fin s m e =>
    -- beyond ±4,096 every format overflows, or holds less than its smallest subnormal
    let k := if n < -4096 then -4096 else if 4096 < n then 4096 else n
    roundFin t c.noFtz s m (e + k) false
  | .nan s => (canonNaN t, if s then flagNV else 0)
  | .inf _ => (a % 2 ^ typeWidth t, 0)

end Sys2Proof.Machine
end

