-- ==== Sys2Proof/Machine/Flags.lean ====
section
/-!
DEFINITION. The flags of vector and function words (12 R295, R300; 16 R380): the OR over a word's lanes, none
when a source is poisoned, and the arithmetic controls a word reads.
-/
namespace Sys2Proof.Machine

/-- The lanes of a result and their flags together: bits, FFLAGS, SAT. -/
structure Lanes where
  v : List Nat
  ff : Nat
  sat : Bool
  deriving DecidableEq, Repr

/-- Collect lane results. -/
def gather (xs : List (Nat × Nat × Bool)) : Lanes :=
  { v := xs.map fun x => x.1, ff := xs.foldl (fun f x => f ||| x.2.1) 0, sat := xs.any fun x => x.2.2 }

/-- Raise a word's flags unless a source was poisoned (R300, R380). -/
def laneFlags (r : Lanes) (poison : Bool) : Exec Unit :=
  if poison then pure () else orFlags r.ff r.sat

/-- FRM as the word reads it at issue (R318). -/
def readFrm : Exec FCtl := do let m ← getOld; pure (fctlOf (m.csr 0x002))

/-- The arithmetic of the seam buffer, collectives and the matrix engine: round to nearest even, no flush,
infinities on overflow (R274, R306, R437). -/
def ctlRNE : FCtl := ⟨.ne, false, false⟩

end Sys2Proof.Machine
end

