-- ==== Sys2Proof/Machine/Seam.lean ====
section
/-!
DEFINITION. The seam buffer (11_seam_buffer R265-R287) and the words that drive it (17 R433, Table 17-10).
-/
namespace Sys2Proof.Machine

/-! ### Descriptors and handles (Tables 11-1, 11-2) -/

def descTO (d : List Byte) : Nat := leAt d 6 2
def descDBase (d : List Byte) : Dword := dw (leAt d 16 8)
def descDStr (d : List Byte) : Int := sext 64 (leAt d 24 8)
def descDTask (d : List Byte) : Nat := leAt d 32 4
def descANum (d : List Byte) : Nat := leAt d 36 2
def descDQ (d : List Byte) : Nat := nbits (byteAt d 38) 3 0
def descSQ (d : List Byte) : Nat := nbits (byteAt d 38) 7 4
/-- Bytes of a released slab. -/
def descOut (d : List Byte) : Nat := descSlab d * descOSz d

/-- The limits of Table 11-1, in a partition with panels `mask` and a launch of `tasks` tasks. -/
def descOk (d : List Byte) (mask tasks : Nat) : Bool :=
  let k := descDKind d
  let base := descDBase d
  decide (1 ≤ descWin d) && decide (1 ≤ descK d) && decide (descK d ≤ 8) && nbits (byteAt d 2) 7 6 == 0 &&
    (descIType d == 7 || descIType d == 8) && (descOType d == 6 || descOType d == 7 || descOType d == 8) &&
    decide (descPol d ≤ 2) && decide (k ≤ 2) && !nbit (byteAt d 4) 7 && decide (1 ≤ descTO d) &&
    (List.range 32).all (fun n => !Nat.testBit (leAt d 12 4) n || Nat.testBit mask n) && zeroAt d 39 25 &&
    (if k = 2 then base == 0 && leAt d 24 8 == 0
     else base.toNat % 32 == 0 && leAt d 24 8 % 32 == 0 &&
       (if k = 0 then tagOfAddr base == 0 else tagOfAddr base == 8 || tagOfAddr base == 9) && inSpace base 1) &&
    (k == 0 || decide (descDTask d < tasks)) &&
    (if k = 1 then decide (1 ≤ descANum d) && ringOk base else descANum d == 0) &&
    (if k = 2 then decide (descDQ d < 8) && (descSQ d == 0 || decide (12 ≤ descSQ d)) && descNSlab d == 1
     else byteAt d 38 == 0)
where
  /-- A ring lies within its space. -/
  ringOk (base : Dword) : Bool :=
    let e := (offOf base : Int) + ((descANum d : Int) - 1) * descDStr d
    let size : Int := 2 ^ ((spaceBits (tagOfAddr base)).getD 0)
    decide (0 ≤ e) && decide (e + (descNSlab d * descOut d : Nat) ≤ size)

/-- A set is named by its lead panel, index and opening count. -/
def setKey (lead sidx oseq : Nat) : Nat := (lead * 16 + sidx) * 256 + oseq
def keyLead (k : Nat) : Nat := k / 4096
def handleOf (k : Nat) : Dword :=
  dw (2 ^ 63 + k % 256 * 2 ^ 16 + k / 4096 % 32 * 2 ^ 8 + k / 256 % 16)
/-- The key a handle has the form of. -/
def handleKey (h : Dword) : Option Nat :=
  if bit h 63 ∧ bits h 62 24 = 0 ∧ bits h 15 13 = 0 ∧ bits h 7 4 = 0 then
    some (setKey (bits h 12 8) (bits h 3 0) (bits h 23 16))
  else none

/-! ### Slots (R270, R281) -/

def SeamSet.tbase (s : SeamSet) : Nat := descTBase s.desc
def SeamSet.win (s : SeamSet) : Nat := descWin s.desc
def SeamSet.owner_ (s : SeamSet) : TaskId := ⟨s.launch, s.owner⟩
/-- Slots by slab and number; each starts EMPTY for TBASE plus its number. -/
def slotKey (slab ix : Nat) : Nat := slab * 65536 + ix
def SeamSet.empty (s : SeamSet) : Nat → SeamSlot := fun k => { token := s.tbase + k % 65536 }
def SeamSet.slot (s : SeamSet) (k : Nat) : SeamSlot := SMap.get s.empty s.slots k
def SeamSet.setSlot (s : SeamSet) (k : Nat) (x : SeamSlot) : SeamSet := { s with slots := SMap.set s.empty s.slots k x }
def SeamSet.ix (s : SeamSet) (t : Nat) : Nat := (t - s.tbase) % s.win
def SeamSet.genOf (s : SeamSet) (t : Nat) : Nat := (t - s.tbase) / s.win % 16
/-- The slabs that a stripe panel holds (R268). -/
def SeamSet.panelFor (s : SeamSet) (slab : Nat) : Nat :=
  let ps := descStripe s.desc
  (ps[slab % ps.length]?).getD 0
def SeamSet.slabsAt (s : SeamSet) (p : Nat) : List Nat :=
  (List.range (descNSlab s.desc)).filter fun j => s.panelFor j == p
/-- The slots that are not EMPTY as they started, and of them those a test picks. -/
def SeamSet.pick (s : SeamSet) (f : SeamSlot → Bool) : List Nat := (s.slots.filter fun e => f e.2).map Prod.fst

def sat16 (n : Nat) : Nat := min n 0xFFFF

/-- µs boundaries until a timer started now fires (R278). -/
def timerStart (ns lim : Nat) : Nat := lim + if ns % 1000 = 0 then 0 else 1
/-- A gated slot of the token at WB has its timer running in ORDERED mode. -/
def SeamSet.startTimer (s : SeamSet) (ns k : Nat) : SeamSet :=
  let x := s.slot k
  if x.st = 1 ∧ x.timer = none then s.setSlot k { x with timer := some (timerStart ns (descTO s.desc)) } else s

/-- The state after settling (Table 11-6). -/
def SeamSet.readySt (s : SeamSet) (t : Nat) : Nat := if !descArrival s.desc && t != s.wb then 2 else 4
/-- Settle a slot; by substitution it counts in SUBST. `stamp` names the cycle where others may be settled in it, else it is 0. -/
def SeamSet.settle (s : SeamSet) (k : Nat) (subst renorm : Bool) (stamp : Nat) : SeamSet :=
  let x := s.slot k
  let s := s.setSlot k
    { x with st := s.readySt x.token, timer := none, subst := x.subst || subst, renorm := renorm, stamp := stamp }
  if subst then { s with substN := sat16 (s.substN + 1) } else s

/-- WB moves past released tokens; their slots become EMPTY for their successors, and the new WB's go on. -/
def SeamSet.advance (fuel ns : Nat) (s : SeamSet) : SeamSet :=
  match fuel with
  | 0 => s
  | n + 1 =>
    if SMap.get (fun _ => 0) s.rel s.wb = descNSlab s.desc then
      let t := s.wb
      let keys := fun (t : Nat) => (List.range (descNSlab s.desc)).map fun j => slotKey j (s.ix t)
      let s := (keys t).foldl (fun s k =>
        let x := s.slot k
        if x.st = 5 ∧ x.token = t then s.setSlot k { token := t + s.win } else s) s
      let s := { s with wb := t + 1, rel := SMap.erase s.rel t }
      let s := if descArrival s.desc then s else (keys (t + 1)).foldl (fun s k =>
        let x := s.slot k
        if x.token ≠ t + 1 then s
        else if x.st = 2 then s.setSlot k { x with st := 4 }
        else s.startTimer ns k) s
      SeamSet.advance n ns s
    else s

/-! ### Handles at a tile (R267, R433) -/

inductive HState where
  | bad
  | closed (key : Nat)
  | opened (key : Nat) (s : SeamSet)

/-- What a handle names for a task of a launch. -/
def handleState (m : Mach) (launch : Nat) (h : Dword) : HState :=
  match handleKey h with
  | none => .bad
  | some k =>
    -- a set restored from another package keeps its handle beside the sets of this one (log 48)
    match m.sys.sets.find? fun e => e.1 % 2 ^ 17 == k && e.2.launch == launch with
    | some (j, s) => if s.isOpen then .opened j s else .closed j
    | none => .bad

/-- The handle of a word: the first use fetches it and the bundle waits; a foreign one is an ownership fault. -/
def useHandle (h : Dword) : Exec HState := do
  let m ← getM
  let st := handleState m m.myTask.launch h
  let known := fun (k : Nat) => m.core.eng.handles.contains k
  let keep := fun (k : Nat) (m : Mach) => m.modEng fun e => { e with handles := (k :: e.handles.filter (· != k)).take 16 }
  match st with
  | .bad => do
    let s ← isStamped
    if s then hold 0 else raise 0x05 h
  | .closed k => if known k then pure st else holdWith (keep k)
  | .opened k _ => if known k then do modM (keep k); pure st else holdWith (keep k)

/-! ### Opening (R265, R266, R268) and room (R102, R285) -/

/-- Whether a gang of a launch stands resident: its tasks are RUNNING or YIELDING (R278). -/
def launchRuns (m : Mach) (key : Nat) : Bool := (m.launch key).gangs.any fun e => e.2.st == 1

/-- The lowest index free on all stripe panels, or why there is none. -/
def seamFit (m : Mach) (d : List Byte) : Except Nat Nat :=
  let ps := descStripe d
  match (List.range 16).find? fun i => ps.all fun p => SMap.get (fun _ => 0) (m.panel p).setOf i == 0 with
  | none => .error 1
  | some i =>
    if ps.zipIdx.all fun p => decide ((m.panel p.1).units + seamUnits d p.2 ≤ 128) then .ok i else .error 2
/-- The set takes an index and its units. -/
def seamCharge (m : Mach) (d : List Byte) (sidx key : Nat) : Mach :=
  (descStripe d).zipIdx.foldl (fun m p => m.modPanel p.1 fun x =>
    { x with units := x.units + seamUnits d p.2, setOf := SMap.set (fun _ => 0) x.setOf sidx (key + 1) }) m
/-- Units of a set over its stripe panels. -/
def seamTotal (d : List Byte) : Nat := ((descStripe d).zipIdx.map fun p => seamUnits d p.2).sum
/-- The lowest unit of the save area from which `n` are free of the spilled sets of a VF. -/
def seamPlace (m : Mach) (vf n : Nat) : Nat :=
  let l := (m.sys.sets.filter fun e => e.2.isOpen && e.2.spl && (m.launch e.2.launch).vf == vf).map fun e =>
    (e.2.place, e.2.place + seamTotal e.2.desc)
  let fits := fun (o : Nat) => l.all fun x => decide (o + n ≤ x.1) || decide (x.2 ≤ o)
  (((0 :: l.map Prod.snd).filter fits).min?).getD 0
/-- Where a set at a unit of the save area lies: after the area's task slots, a unit for each of the set's (R95, R285). -/
def seamPieces (m : Mach) (key place acc : Nat) : Option (List (Nat × Nat)) :=
  let s := m.set_ key
  let l := m.launch s.launch
  let v := m.vf l.vf
  match devPieces m l.part ((bits v.vqd 45 18 + 5 * v.tiles) * 2 ^ 21 + place * 65536) (seamTotal s.desc * 65536) acc with
  | .ok ps => some ps
  | .error _ => none
/-- Whether a set cannot be spilled or refilled now: a stack of its place takes no requests (R159). -/
def seamStalled (m : Mach) (key place : Nat) : Bool :=
  match seamPieces m key place accWrite with
  | some ps => m.stalled ps
  | none => false
/-- A set stands spilled at a unit of the save area: its slots, counters and pair-counter entries are there in a layout that no rule gives
(free values; the model keeps the set itself beside them, log 15). -/
def spillTo (m : Mach) (key place : Nat) : Mach :=
  let s := m.set_ key
  let n := seamTotal s.desc * 65536
  let m := match seamPieces m key place accWrite with
    | some ps => hbmWriteAll { m with free := m.free + n } (m.launch s.launch).part ps (freeBytes m.free n)
    | none => m
  m.setSet key { s with spl := true, place := place }
/-- A set is spilled (R285): to the save area, and its capacity is free. -/
def seamSpill (m : Mach) (key : Nat) : Mach :=
  let s := m.set_ key
  seamReturn (spillTo m key (seamPlace m (m.launch s.launch).vf (seamTotal s.desc))) key
/-- A set of a launch none of whose tasks runs, on a panel of `ps`: what a claim may take. -/
def seamVictims (m : Mach) (launch : Nat) (ps : List Nat) : List Nat :=
  (m.sys.sets.filter fun e => e.2.isOpen && !e.2.spl && e.2.launch != launch && !launchRuns m e.2.launch &&
    (descStripe e.2.desc).any ps.contains).map Prod.fst
/-- Room for a set, spilling victims while there is too little. -/
def seamRoom (fuel : Nat) (m : Mach) (launch : Nat) (d : List Byte) : Except Nat Nat × Mach :=
  match seamFit m d with
  | .ok i => (.ok i, m)
  | .error e =>
    match fuel with
    | 0 => (.error e, m)
    | n + 1 =>
      match (seamVictims m launch (descStripe d)).head? with
      | some k =>
        let r := seamRoom n (seamSpill m k) launch d
        match r.1 with
        | .ok _ => r
        | .error _ => (.error e, m)
      | none => (.error e, m)

/-- Whether room for a set has to wait for a stack that takes no requests. -/
def roomWaits (m : Mach) (launch : Nat) (d : List Byte) : Bool :=
  (match seamFit m d with
    | .ok _ => false
    | .error _ => true) &&
    (seamVictims m launch (descStripe d)).any fun k => seamStalled m k (seamPlace m (m.launch (m.set_ k).launch).vf (seamTotal (m.set_ k).desc))
/-- Units the open sets of a VF hold. -/
def vfSeamUnits (m : Mach) (vf : Nat) : Nat :=
  ((m.sys.sets.filter fun e => e.2.isOpen && (m.launch e.2.launch).vf == vf).map fun e => seamTotal e.2.desc).sum

/-- Open a set: its handle, or the reason. -/
def seamOpen (m : Mach) (t : TaskId) (vf : Nat) (d : List Byte) : Dword × Mach :=
  match seamRoom 64 m t.launch d with
  | (.error e, _) => (dw e, m)
  | (.ok i, m') =>
    if bits (m.vf vf).vqb 45 33 < vfSeamUnits m vf + seamTotal d then (3, m)
    else
      let lead := ((descStripe d).head?).getD 0
      -- the next opening count whose handle names no set that is still open, spilled or restored
      let count := SMap.get (fun _ => 0) (m'.panel lead).oseq i
      let free := fun (k : Nat) => !(m'.sys.sets.any fun e => e.2.isOpen && e.1 % 2 ^ 17 == setKey lead i ((count + 1 + k) % 256))
      let oseq := (count + 1 + ((List.range 256).find? free).getD 0) % 256
      let key := setKey lead i oseq
      -- the panel remembers only the set last opened at an index
      let m := m'.onSys fun s => { s with sets := s.sets.filter fun e => e.2.isOpen || e.1 / 256 != key / 256 }
      let m := m.modPanel lead fun x => { x with oseq := SMap.set (fun _ => 0) x.oseq i oseq }
      let m := (seamCharge m d i key).setSet key
        { isOpen := true, oseq := oseq, launch := t.launch, owner := t.task, desc := d, wb := descTBase d }
      (handleOf key, m)

/-- SEAMO. -/
def seamoWord (d a : Nat) : Exec Unit :=
  orLate (do
    let x ← rdClean a
    need (tagOfAddr x == tagS && x.toNat % 64 == 0 && inSpace x 64) 0x0B x
    let bs ← taskReadS (offOf x) 64
    let m ← getM
    let mask := (m.partn m.core.ctl.part).mask
    needWord (descOk bs mask (m.launch m.myTask.launch).tasks) 0x01
    let bs := if leAt bs 12 4 = 0 then bs.take 12 ++ leBytes (2 ^ panelOfSite m.me) 4 ++ bs.drop 16 else bs
    if roomWaits m m.myTask.launch bs then hold 0
    else do
      let r := seamOpen m m.myTask m.core.ctl.vf bs
      modM fun _ => r.2
      wrS d ⟨r.1, false⟩ 1) (lateS d 1)

/-! ### Sending (R273) -/

/-- Packets that wait for an answer. -/
def Engs.open_ (e : Engs) : Nat := (e.pkts.filter fun p => !p.unsent).length
/-- A packet of the tile as it goes to its panel: eight words of gates, or a row. -/
def SPkt.pkt (p : SPkt) (site : Nat) (t : TaskId) : Pkt :=
  { kind := if p.kind = 0 then 1 else 2, src := site, srcTask := t.task, task := t, seq := p.seq, addr := p.handle,
    ctl := dw (p.token + p.expert * 2 ^ 32 + p.slab * 2 ^ 48), data := [], poison := false, extra := p.data }
def sendSeam (m : Mach) (p : SPkt) (site : Nat) (t : TaskId) : Mach :=
  m.modPanel p.panel fun x => { x with inq := x.inq ++ [p.pkt site t] }
/-- Whether a task's tile runs, so that its packets go out and answers reach it (R286). -/
def tileRuns (m : Mach) (t : TaskId) : Bool :=
  match m.placeOf t with
  | some a => m.runs a && m.takes a t
  | none => false
/-- Send packets that wait for room among the eight, while the tile runs. -/
def sendUnsent (fuel : Nat) (m : Mach) (t : TaskId) : Mach :=
  match fuel with
  | 0 => m
  | n + 1 =>
    let e := (m.taskCore t).eng
    if decide (8 ≤ e.open_) || !tileRuns m t then m
    else
      match e.pkts.find? fun p => p.unsent with
      | none => m
      | some p =>
        let m := m.modTask t fun c => c.modEng fun e =>
          { e with pkts := e.pkts.map fun q => if q.panel = p.panel ∧ q.seq = p.seq then { q with unsent := false } else q }
        sendUnsent n (sendSeam m p ((m.placeOf t).getD 0) t) t

/-- The conditions of R273 under which a word that sends to `ps` waits. -/
def sendBlocked (e : Engs) (ps : List Nat) : Bool :=
  decide (8 ≤ e.open_) || (e.pkts.any fun p => p.unsent) || e.pkts.any fun p => p.refused && ps.contains p.panel

/-- Take numbers for packets and send them. -/
def seamSend (ps : List Nat) (mk : Nat → Nat → SPkt) : Exec Unit := do
  let m ← getM
  if sendBlocked m.core.eng ps then hold 0
  else do
    modM fun m => ps.foldl (fun m p => m.modCore fun c =>
      let q := seqNext (c.sent (panelKey p))
      (c.setSent (panelKey p) q).modEng fun e => { e with pkts := e.pkts ++ [mk p q] }) m
    modM fun m => sendUnsent 33 m m.myTask

/-- Strictly increasing. -/
def rising (l : List Nat) : Bool :=
  match l with
  | a :: b :: t => decide (a < b) && rising (b :: t)
  | _ => true

/-- SEAMG. -/
def seamgWord (h t a : Nat) : Exec Unit :=
  orLate (do
    let x ← rdClean h
    let y ← rdClean t
    let r ← rdV a
    needWord (!r.p) 0x04
    match ← useHandle x with
    | .opened _ s => do
      let k := descK s.desc
      let l := lanes 32 16 r.v
      let idx := l.take k
      let g := (l.drop 8).take k
      needWord (rising idx && idx.all fun i => decide (i ≤ 65535)) 0x01
      seamSend (descStripe s.desc) fun p q =>
        { seq := q, panel := p, kind := 0, handle := x, token := bits y 31 0, expert := 0, slab := 0, data := idx ++ g,
          refused := false, unsent := true }
    | _ => pure ()) lateTrap

/-- SEAMP. -/
def seampWord (h t a : Nat) : Exec Unit :=
  orLate (do
    let x ← rdClean h
    let y ← rdClean t
    match ← useHandle x with
    | .opened _ s => do
      let n := descSlab s.desc * descISz s.desc
      needWord (decide (n ≤ 256) || decide (a ≤ 58)) 0x01
      let r ← rdV a
      let r2 ← if n ≤ 256 then pure ({} : RowP) else rdV (a + 1)
      needWord (!r.p && !r2.p) 0x04
      let w := 8 * descISz s.desc
      let els := (lanes w (2048 / w) r.v ++ lanes w (2048 / w) r2.v).take (descSlab s.desc)
      let slab := bits y 55 48
      seamSend [s.panelFor slab] fun p q =>
        { seq := q, panel := p, kind := 1, handle := x, token := bits y 31 0, expert := bits y 47 32, slab := slab,
          data := els, refused := false, unsent := true }
    | _ => do
      let r ← rdV a
      needWord (!r.p) 0x04) lateTrap

/-! ### Arrival at a panel (R271-R273) -/

/-- What a panel does with a packet whose number is next. -/
inductive Arrival where
  | accept (m : Mach)
  | refuse
  | foreign

/-- Count in a field of SST1. -/
inductive Counted where
  | late
  | dup
  | stray
def SeamSet.count (s : SeamSet) (c : Counted) : SeamSet :=
  match c with
  | .late => { s with late := sat16 (s.late + 1) }
  | .dup => { s with dup := sat16 (s.dup + 1) }
  | .stray => { s with stray := sat16 (s.stray + 1) }

/-- The item that a row of a slot is for error injection (log 14). -/
def seamItem (key slot row : Nat) : Nat := (key * 2 ^ 24 + slot) * 256 + row
/-- Note an injected error in a row of a slot just written. -/
def seamInject (m : Mach) (p key slot row : Nat) : Mach :=
  let e := injInto m p 8 0 (seamItem key slot row) 32
  match e.1 with
  | none => e.2.2
  | some r =>
    let s := m.set_ key
    let x := s.slot slot
    e.2.2.setSet key (s.setSlot slot { x with errs := (row, r) :: x.errs.filter (·.1 != row) })

/-- A gate record (R271). -/
def gateArrive (m : Mach) (p key : Nat) (s : SeamSet) (k : Pkt) : Arrival :=
  let t := bits k.ctl 31 0
  let n := descK s.desc
  let slots := (s.slabsAt p).map fun j => slotKey j (s.ix t)
  if t < s.wb then .accept (m.setSet key (s.count .late))
  else if s.wb + s.win ≤ t then .refuse
  else if slots.any fun i => (s.slot i).token == t && (s.slot i).st != 0 then .accept (m.setSet key (s.count .dup))
  else if slots.any fun i => (s.slot i).token != t then .refuse
  else
    let s := slots.foldl (fun s i =>
      let s := s.setSlot i { s.slot i with st := 1, arr := 0, eidx := k.extra.take n, gates := k.extra.drop n }
      if !descArrival s.desc ∧ t = s.wb then s.startTimer m.sys.ns i else s) s
    .accept (slots.foldl (fun m i => seamInject m p key i 255) (m.setSet key s))

/-- A put (Table 11-4). -/
def putArrive (m : Mach) (p key : Nat) (s : SeamSet) (k : Pkt) : Arrival :=
  let t := bits k.ctl 31 0
  let slab := bits k.ctl 55 48
  let i := slotKey slab (s.ix t)
  let x := s.slot i
  let here := x.token == t
  if descNSlab s.desc ≤ slab ∨ s.panelFor slab ≠ p then .accept (m.setSet key (s.count .stray))
  else if t < s.wb ∨ (here ∧ (2 ≤ x.st ∨ x.subst)) then .accept (m.setSet key (s.count .late))
  else if s.wb + s.win ≤ t then .refuse
  else if !here then .refuse
  else if x.st = 0 then .refuse
  else
    match x.eidx.findIdx? (· == bits k.ctl 47 32) with
    | none => .accept (m.setSet key (s.count .stray))
    | some b =>
      if Nat.testBit x.arr b then .accept (m.setSet key (s.count .dup))
      else
        let arr := x.arr + 2 ^ b
        let s := s.setSlot i { x with arr := arr, rows := SMap.set (fun _ => []) x.rows b k.extra }
        let s := if arr = 2 ^ descK s.desc - 1 then s.settle i false false 0
          else if descArrival s.desc then s.startTimer m.sys.ns i else s
        .accept (seamInject (m.setSet key s) p key i b)

/-- The first packet of a kind at a panel. -/
def takeKind (kind : Nat) (l : List Pkt) : Option (Pkt × List Pkt) :=
  match l with
  | [] => none
  | p :: t => if p.kind = kind then some (p, t) else (takeKind kind t).map fun r => (r.1, p :: r.2)

/-- An answer of panel `p` to the packet of a number: the sender forgets the packet, or will send it again. -/
def SPkt.answered (p seq : Nat) (ok : Bool) (l : List SPkt) : List SPkt :=
  if ok then l.filter fun q => !(q.panel == p && q.seq == seq)
  else l.map fun q => if q.panel = p ∧ q.seq = seq then { q with refused := true, again := true } else q
/-- An answer reaches a running tile; for a stopped one it is held until the thaw (R286). -/
def seamAnswer (m : Mach) (p : Nat) (k : Pkt) (ok : Bool) : Mach :=
  if tileRuns m k.task then
    sendUnsent 33 (m.modTask k.task fun c => c.modEng fun e => { e with pkts := SPkt.answered p k.seq ok e.pkts }) k.task
  else m.modTask k.task fun c => c.modEng fun e => { e with answers := e.answers ++ [(p, k.seq, ok)] }
def seamAck (m : Mach) (p : Nat) (k : Pkt) : Mach := seamAnswer m p k true
def seamNack (m : Mach) (p : Nat) (k : Pkt) : Mach := seamAnswer m p k false
/-- The answers held for the issuing tile are handed over, and its unsent packets go out (R286). -/
def seamHandOver (m : Mach) : Mach :=
  match m.core.ctl.task with
  | some t =>
    if m.core.eng.answers != [] || m.core.eng.pkts.any fun p => p.unsent then
      sendUnsent 33 (m.modEng fun e => { e with answers := [], pkts := e.answers.foldl (fun l x => SPkt.answered x.1 x.2.1 x.2.2 l) e.pkts }) t
    else m
  | none => m

/-- A gate record or put reaches a panel, while the clock of its die runs. -/
def seamArrive (m : Mach) (p kind : Nat) : Mach :=
  match if m.clocked (dieOfAgent (ccOf p)) then takeKind kind (m.panel p).inq else none with
  | none => m
  | some (k, rest) =>
    let m := m.modPanel p fun x => { x with inq := rest }
    let key := taskKey k.task
    let last := SMap.get (fun _ => 0) (m.panel p).last key
    let took := fun (m : Mach) =>
      seamAck (m.modPanel p fun x => { x with last := SMap.set (fun _ => 0) x.last key k.seq }) p k
    if !m.hasLaunch k.task.launch then m
    else if k.seq = seqNext last then
      let r : Arrival := match handleState m k.task.launch k.addr with
        | .bad => .foreign
        | .closed _ => .accept m
        | .opened sk s =>
          if s.spl then .refuse else if kind = 1 then gateArrive m p sk s k else putArrive m p sk s k
      match r with
      | .accept m => took m
      | .refuse => seamNack m p k
      | .foreign => took (taskTrap m k.task 0x05 k.addr 7)
    else if seqAfter k.seq last then seamNack m p k
    else seamAck m p k

/-- The refused packet with the lowest number goes again; it stays refused until it is accepted (R273). -/
def seamAgain (m : Mach) (a : Nat) : Mach :=
  match (m.agent a).ctl.task, (m.agent a).eng.pkts.find? fun p => p.again with
  | some t, some p =>
    if m.runs a then
      sendSeam (m.modAgent a fun c => c.modEng fun e =>
        { e with pkts := e.pkts.map fun q => if q.panel = p.panel ∧ q.seq = p.seq then { q with again := false } else q })
        p a t
    else m
  | _, _ => m

/-! ### The combination (R274) -/

def isNaN32 (x : Nat) : Bool := (unpack 8 x).isNaN
/-- A result and whether a NaN arose from operands that were none. -/
def newNaN (r : Nat) (ops : List Nat) : Bool := isNaN32 r && !(ops.any isNaN32)
def toF32 (t x : Nat) : Nat := if t = 7 then x * 65536 else x

/-- Output lanes, overflow, NaN created. -/
def combine (d : List Byte) (x : SeamSlot) : List Nat × Bool × Bool :=
  let ps := (List.range (descK d)).filter fun k => Nat.testBit x.arr k
  let gate := fun (k : Nat) => (x.gates[k]?).getD 0
  let zero := (List.replicate (descSlab d) 0, false, false)
  let sum := ps.foldl (fun (s : Nat × Bool) k =>
    let r := (laneAdd 8 ctlRNE s.1 (gate k)).1
    (r, s.2 || newNaN r [s.1, gate k])) (0, false)
  if x.renorm ∧ (ps = [] ∨ sum.1 % 2 ^ 31 = 0) then (zero.1, false, sum.2)
  else
    let gw := ps.map fun k =>
      if x.renorm then (let q := (laneDiv 8 ctlRNE (gate k) sum.1).1; (k, q, newNaN q [gate k, sum.1])) else (k, gate k, false)
    let nv0 := x.renorm && (sum.2 || gw.any fun g => g.2.2)
    let out := (List.range (descSlab d)).map fun i =>
      let acc := gw.foldl (fun (s : Nat × Bool × Bool) g =>
        let y := toF32 (descIType d) (((SMap.get (fun _ => []) x.rows g.1)[i]?).getD 0)
        let r := laneFma 8 ctlRNE false g.2.1 y s.1
        (r.1, s.2.1 || nbit r.2 2, s.2.2 || newNaN r.1 [g.2.1, y, s.1])) (0, false, false)
      let c := convert 8 (descOType d) ctlRNE acc.1
      (c.1, acc.2.1 || nbit c.2.1 2, acc.2.2)
    (out.map fun o => o.1, out.any fun o => o.2.1, nv0 || out.any fun o => o.2.2)

/-! ### Release (R276, R277) -/

/-- What a write to a destination comes to. -/
inductive Rel where
  | done (m : Mach)
  | wait (m : Mach)
  /-- an inbox has taken the post of this number, and it is written at the thaw (R286) -/
  | parked (m : Mach) (seq : Nat)

/-- A release posted to a task by panel `p` (Table 11-5): written, or taken by the inbox that holds for it. -/
def seamPost (m : Mach) (p : Nat) (dest : TaskId) (kind : Nat) (addr ctl : Dword) (bs : List Byte) : Rel :=
  let dk := taskKey dest
  let seq := seqNext (SMap.get (fun _ => 0) (m.panel p).snd dk)
  let k : Pkt := { kind := kind, src := 2048 + p, srcTask := 0, task := dest, seq := seq, addr := addr, ctl := ctl,
                   data := bs, poison := false, extra := [] }
  let sent := fun (m : Mach) => m.modPanel p fun x => { x with snd := SMap.set (fun _ => 0) x.snd dk seq }
  let park :=
    if taskOver m dest then Rel.done (sent m)
    else if 12032 < inboxFlits (m.panel (m.inboxOf dest)).inbox + k.flits then .wait m else .parked (sent (parkPkt m k)) seq
  match m.placeOf dest with
  | none => park
  | some a =>
    if !m.takes a dest then park
    else if (m.agent a).eng.ihalt then .wait m
    else if seqNext ((m.agent a).rcvd k.srcKey) ≠ seq then park
    else
      match deliver m a k with
      | .done m => .done (sent (m.modAgent a fun c => c.setRcvd k.srcKey seq))
      | .race g => .wait (raceTrap m a g)
      | _ => .wait m

/-- A post of a release, sent once: one that an inbox took is written when its receiver has it (R276). -/
def seamSent (m : Mach) (p key slot : Nat) (dest : TaskId) (send : Mach → Rel) : Rel :=
  let keep := fun (m : Mach) (h : Option Nat) => m.setSet key ((m.set_ key).setSlot slot { (m.set_ key).slot slot with held := h })
  match ((m.set_ key).slot slot).held with
  | some n => if seqAfter n ((m.taskCore dest).rcvd (panelKey p)) then .wait m else .done (keep m none)
  | none =>
    match send m with
    | .parked m n => .wait (keep m (some n))
    | r => r

/-- A release into global memory; `p` is the panel that releases. -/
def seamGlobal (m : Mach) (p : Nat) (s : SeamSet) (va : Nat) (bs : List Byte) : Rel :=
  let t := s.owner_
  let l := m.launch t.launch
  if (m.taskCore t).eng.xhalt then .wait m
  else
    match translateAll m (ccOf p) l.part 0 accWrite (pageSpans va bs.length) with
    | (.error (v, w), _) =>
      if (m.panel p).flts.any fun f => f.eng == 9 && f.va == v then .wait m
      else .wait (fltPost m p ⟨fltBytes 9 1 0xFF 0 w v l.vf (keyInv t.launch), ccOf p, 9, v, accWrite, none, some t⟩)
    | (.ok ps, m') =>
      if m.stalled ps then .wait m
      else if rightsOk m l.part l.vf t .write ps then
        .done (ps.foldl (fun m q => noteHbmWrite m q.1 q.2) (hbmWriteAll m' l.part ps bs))
      else .wait ((taskTrap m t 0x05 (dw va) 7).modTask t fun c => c.modEng fun e => { e with xhalt := true })

/-- A slot has become HELD: the owner takes 0x0A before its next bundle, in the order of such slots; a launch whose owner is done ends;
a SEAMC that waits to close the set raises the trap itself (R279, R283). -/
def seamHeld (m : Mach) (key token : Nat) : Mach :=
  let s := m.set_ key
  if taskIsDone m s.owner_ then endLaunch m s.launch 10 0x0A
  else if (m.taskCore s.owner_).eng.closing = some key then m
  else m.modTask s.owner_ fun c => c.modCtl fun k => { k with ptraps := k.ptraps ++ [⟨0x0A, dw token, 7⟩] }

/-- Errors found in a slot as it is combined (R287): logged, a corrected one gone; rows that hold none of their data. -/
def seamCheck (m : Mach) (p key slot : Nat) : Mach :=
  let s := m.set_ key
  let x := s.slot slot
  let m := x.errs.foldl (fun m e => logErr m p 8 e.2.ue 0xFF 3 e.2.addr 0) m
  let bad := x.errs.filter fun e => e.2.ue
  if bad = [] then m.setSet key (s.setSlot slot { x with errs := [] })
  else if bad.any fun e => e.1 == 255 then
    m.setSet key ({ s with ue := true }.setSlot slot { x with errs := [], ue := true, arr := 0, renorm := true, subst := true })
  else
    let rows := bad.filter fun e => Nat.testBit x.arr e.1
    let arr := rows.foldl (fun a e => a - 2 ^ e.1) x.arr
    let s := { s with ue := true }
    if rows = [] then m.setSet key (s.setSlot slot { x with errs := [], ue := true })
    else if descPol s.desc = 2 then
      seamHeld (m.setSet key (s.setSlot slot { x with errs := [], ue := true, arr := arr, st := 3 })) key x.token
    else m.setSet key ((s.setSlot slot { x with errs := [], ue := true, arr := arr }).settle slot true (descPol s.desc == 1) x.stamp)

/-- Write a combined slab, then the status item where one is asked for. -/
def seamWrite (m : Mach) (p key slot : Nat) (s : SeamSet) (x : SeamSlot) (bs : List Byte) : Rel :=
  let d := s.desc
  let u := x.token - s.tbase
  let slab := slot / 65536
  let dest : TaskId := ⟨s.launch, descDTask d⟩
  let lc := nbits (byteAt d 4) 5 4 * 2 ^ 33 + if nbit (byteAt d 4) 6 then 2 ^ 35 else 0
  let at_ := fun (n : Nat) => wrapN 60 ((offOf (descDBase d) : Int) + n * descDStr d + (slab * descOut d : Nat))
  match descDKind d with
  | 0 => seamGlobal m p s (at_ u % 2 ^ 49) bs
  | 1 => seamSent m p key slot dest fun m =>
      seamPost m p dest 3 (dw (tagOfAddr (descDBase d) * 2 ^ 60 + at_ (u % descANum d))) (dw lc) bs
  | _ =>
    match if x.wrote then Rel.done m else seamSent m p key slot dest fun m => seamPost m p dest 3 (dw (descDQ d)) (dw (2 ^ 36)) bs with
    | .done m =>
      if descSQ d = 0 then .done m
      else
        let item := x.token + x.arr * 2 ^ 32 + (if x.subst then 2 ^ 40 else 0) + if x.ue then 2 ^ 41 else 0
        let m := m.setSet key ((m.set_ key).setSlot slot { (m.set_ key).slot slot with wrote := true })
        seamSent m p key slot dest fun m => seamPost m p dest 4 (dw (descSQ d)) (dw (2 ^ 36)) (leBytes item 8)
    | r => r

/-- A slab has been written: it counts, and its slot is free once WB has passed (Table 11-6). -/
def seamCounted (m : Mach) (key slot : Nat) (ovf nv : Bool) : Mach :=
  let s := m.set_ key
  let x := s.slot slot
  let n := SMap.get (fun _ => 0) s.rel x.token + 1
  let s := { s with rel := SMap.set (fun _ => 0) s.rel x.token n, ovf := s.ovf || ovf, nv := s.nv || nv,
                    rcnt := if n = descNSlab s.desc then s.rcnt + 1 else s.rcnt }
  let s := s.setSlot slot { token := x.token, st := 5, arr := x.arr, subst := x.subst }
  let s := SeamSet.advance (s.rel.length + 1) m.sys.ns s
  m.setSet key s

/-- The unit of panel `p` combines a slot that lies there and writes it to its destination. -/
def releaseOne (m : Mach) (p key slot : Nat) : Mach :=
  if (m.set_ key).spl || ((m.set_ key).slot slot).st != 4 || (m.set_ key).panelFor (slot / 65536) != p then m
  else
    let m := seamCheck m p key slot
    let s := m.set_ key
    let x := s.slot slot
    if x.st ≠ 4 then m
    else
      let r := combine s.desc x
      let bs := r.1.flatMap fun v => leBytes v (descOSz s.desc)
      match seamWrite m p key slot s x bs with
      | .done m => seamCounted m key slot r.2.1 r.2.2
      | .wait m => m
      | .parked m _ => m

/-- A place in a list by token. -/
def byToken (x : Nat × Nat × Nat) (l : List (Nat × Nat × Nat)) : List (Nat × Nat × Nat) :=
  match l with
  | [] => [x]
  | y :: t => if x.1 < y.1 then x :: l else y :: byToken x t
/-- The slots of a panel that were settled in the cycle a slot was, and of a lower token: token, set and slot, lowest first (R276). -/
def settledBefore (m : Mach) (p key slot : Nat) : List (Nat × Nat × Nat) :=
  let x := (m.set_ key).slot slot
  if x.stamp = 0 then []
  else m.sys.sets.foldl (fun l e => e.2.slots.foldl (fun l y =>
    if y.2.st = 4 ∧ y.2.stamp = x.stamp ∧ y.2.token < x.token ∧ e.2.panelFor (y.1 / 65536) = p then byToken (y.2.token, e.1, y.1) l
    else l) l) []
/-- SLOT_RELEASE, while the clock of the panel's die runs: of slots settled in one cycle the lower token goes first. -/
def seamRelease (m : Mach) (p key slot : Nat) : Mach :=
  if m.clocked (dieOfAgent (ccOf p)) then
    releaseOne ((settledBefore m p key slot).foldl (fun m y => releaseOne m p y.2.1 y.2.2) m) p key slot
  else m

/-- The set at an index of a panel. -/
def setAt (m : Mach) (p sidx : Nat) : Option Nat :=
  match SMap.get (fun _ => 0) (m.panel p).setOf sidx with
  | 0 => none
  | k + 1 => some k

/-! ### Time-outs (R278, R279) -/

/-- SEAM_TIMEOUT: a timer that has run out fires. -/
def seamFire (m : Mach) (key slot : Nat) : Mach :=
  let s := m.set_ key
  let x := s.slot slot
  if s.isOpen ∧ !s.spl ∧ x.st = 1 ∧ x.timer = some 0 then
    if descPol s.desc = 2 then seamHeld (m.setSet key (s.setSlot slot { x with st := 3, timer := none })) key x.token
    else m.setSet key (s.settle slot true (descPol s.desc == 1) (2 * m.sys.ns + 2))
  else m
/-- Timers that ran out at the last boundary and have not fired yet: sets and slots. -/
def timersOut (m : Mach) : List (Nat × Nat) :=
  m.sys.sets.flatMap fun e => if e.2.isOpen && !e.2.spl then (e.2.pick fun x => x.st == 1 && x.timer == some 0).map fun k => (e.1, k) else []
/-- Before time goes on every such timer fires: a timer fires at its boundary (R278). -/
def seamFireAll (m : Mach) : Mach := (timersOut m).foldl (fun m e => seamFire m e.1 e.2) m

/-- A µs boundary: a timer that has started since the last one begins; one that had begun counts the µs since, unless it was paused from
the last boundary on (R278). -/
def seamTick (m : Mach) : Mach :=
  m.sys.sets.foldl (fun m e =>
    let s := e.2
    if s.isOpen then
      let count := fun (n : Nat) => if n = descTO s.desc + 1 ∨ s.ran then n - 1 else n
      m.setSet e.1 { s with ran := !s.spl && launchRuns m s.launch,
                            slots := s.slots.map fun x => (x.1, { x.2 with timer := x.2.timer.map count }) }
    else m) m

/-! ### Refill (R285) -/

/-- A spilled set comes back into an index of its stripe panels, once its place in the save area can be read. -/
def seamBack (m : Mach) (lead sidx : Nat) : Mach :=
  match m.sys.sets.find? fun e => e.2.isOpen && e.2.spl && e.1 % 2 ^ 17 / 256 == lead * 16 + sidx with
  | none => m
  | some (key, s) =>
    if seamStalled m key s.place || roomWaits m s.launch s.desc then m
    else
    match seamRoom 64 m s.launch s.desc with
    | (.error _, _) => m
    | (.ok i, m) => (seamCharge m s.desc i key).setSet key { m.set_ key with spl := false }

/-! ### Status and closing (R282, R283) -/

/-- The status words of Table 11-7. -/
def seamStatus (s : SeamSet) (w t slab : Nat) : Nat :=
  match w with
  | 0 => s.wb % 2 ^ 32 * 2 ^ 32 + s.rcnt % 2 ^ 32
  | 1 => s.late * 2 ^ 48 + s.dup * 2 ^ 32 + s.stray * 2 ^ 16 + s.substN
  | 2 =>
    128 + (if s.spl then 64 else 0) + (if s.pick (fun x => x.st == 3) = [] then 0 else 32) + (if s.ue then 16 else 0) +
      (if s.ovf then 8 else 0) + (if s.nv then 4 else 0)
  | _ =>
    if s.wb ≤ t ∧ t < s.wb + s.win ∧ slab < descNSlab s.desc then
      let x := s.slot (slotKey slab (s.ix t))
      2 ^ 15 + x.st * 2 ^ 12 + s.genOf x.token * 2 ^ 8 + x.arr
    else 0

/-- SEAMS. -/
def seamsWord (d h t : Nat) : Exec Unit :=
  orLate (do
    let x ← rdClean h
    let y ← rdClean t
    match ← useHandle x with
    | .opened _ s => wrS d ⟨dw (seamStatus s (bits y 57 56) (bits y 31 0) (bits y 55 48)), false⟩ 1
    | _ => wrS d ⟨0, false⟩ 1) (lateS d 1)

/-- The lowest token among slots. -/
def lowestToken (s : SeamSet) (ks : List Nat) : Nat × Nat :=
  ks.foldl (fun b k => if (s.slot k).token < b.1 then ((s.slot k).token, k) else b) (2 ^ 64, 0)

/-- SEAMC, closing form. -/
def seamcClose (d h : Nat) : Exec Unit :=
  orLate (do
    let x ← rdClean h
    match ← useHandle x with
    | .opened key s => do
      let m ← getM
      need (decide (m.myTask = s.owner_)) 0x05 x
      let bare := if descArrival s.desc then s.pick fun y => y.st == 1 && y.arr == 0 else []
      if bare ≠ [] ∧ descPol s.desc = 2 then
        let b := lowestToken s bare
        stop (.trapUpd 0x0A (dw b.1) fun m => m.setSet key (s.setSlot b.2 { s.slot b.2 with st := 3, timer := none }))
      else do
        let s := bare.foldl (fun s k => s.settle k true (descPol s.desc == 1) (2 * m.core.ctl.cyc + 1)) s
        let held := s.pick fun y => y.st == 3
        if held ≠ [] then stop (.trapUpd 0x0A (dw (lowestToken s held).1) fun m => m.setSet key s)
        else if s.pick (fun y => y.st == 1 || y.st == 2 || y.st == 4) ≠ [] then
          holdWith fun m => (m.setSet key s).modEng fun e => { e with closing := some key }
        else do
          modM fun m => (seamClose m key).modEng fun e => { e with closing := none }
          wrS d ⟨dw s.rcnt, false⟩ 1
    | _ => wrS d ⟨0, false⟩ 1) (lateS d 1)

/-- SEAMC, settle form: the HELD slots of a token. -/
def seamcSettle (t h : Nat) : Exec Unit :=
  orLate (do
    let x ← rdClean h
    let y ← rdClean t
    match ← useHandle x with
    | .opened key s => do
      let m ← getM
      need (decide (m.myTask = s.owner_)) 0x05 x
      let tok := bits y 31 0
      let ks := s.pick fun z => z.st == 3 && z.token == tok
      modM fun m => m.setSet key (ks.foldl (fun s k => s.settle k true (bit y 32) (2 * m.core.ctl.cyc + 1)) s)
    | _ => pure ()) lateTrap

/-! ### The words and steps -/

/-- SEAMO (R265). -/
def execSeamo (d : BitVec 6) (a : BitVec 6) (st : State) : Res := word (.seamo d a) (seamoWord (fld d) (fld a)) st
/-- SEAMG (R271). -/
def execSeamg (h : BitVec 6) (t : BitVec 6) (a : BitVec 6) (st : State) : Res :=
  word (.seamg h t a) (seamgWord (fld h) (fld t) (fld a)) st
/-- SEAMP (R272). -/
def execSeamp (h : BitVec 6) (t : BitVec 6) (a : BitVec 6) (st : State) : Res :=
  word (.seamp h t a) (seampWord (fld h) (fld t) (fld a)) st
/-- SEAMC_CLOSE (R283). -/
def execSeamcClose (d : BitVec 6) (h : BitVec 6) (st : State) : Res :=
  word (.seamcClose d h) (seamcClose (fld d) (fld h)) st
/-- SEAMC_SETTLE (R283). -/
def execSeamcSettle (t : BitVec 6) (h : BitVec 6) (st : State) : Res :=
  word (.seamcSettle t h) (seamcSettle (fld t) (fld h)) st
/-- SEAMS (R282). -/
def execSeams (d : BitVec 6) (h : BitVec 6) (t : BitVec 6) (st : State) : Res :=
  word (.seams d h t) (seamsWord (fld d) (fld h) (fld t)) st
/-- GATE_RECORD_ARRIVAL (R271). -/
def execGateRecordArrival (st : State) : Res := runEvent (fun x m => seamArrive m (x.a % 32) 1) st
/-- PUT_ARRIVAL (R272). -/
def execPutArrival (st : State) : Res := runEvent (fun x m => seamArrive m (x.a % 32) 2) st
/-- SEAM_RESEND (R273). -/
def execSeamResend (st : State) : Res := runEvent (fun x m => seamAgain m x.a) st
/-- SEAM_TIMEOUT (R278). -/
def execSeamTimeout (st : State) : Res := runEvent (fun x m =>
  match setAt m (x.a % 32) (x.b % 16) with
  | some k => if (m.set_ k).panelFor (x.c / 65536) = x.a % 32 then seamFire m k x.c else m
  | none => m) st
/-- SLOT_RELEASE (R276). -/
def execSlotRelease (st : State) : Res := runEvent (fun x m =>
  match setAt m (x.a % 32) (x.b % 16) with
  | some k => seamRelease m (x.a % 32) k x.c
  | none => m) st
/-- SEAM_REFILL (R285). -/
def execSeamRefill (st : State) : Res := runEvent (fun x m => seamBack m (x.a % 32) (x.b % 16)) st

end Sys2Proof.Machine
end

