-- ==== Sys2Proof/Machine/Life.lean ====
section
/-!
DEFINITION. Lifetimes of the row groups of A and W (09_lifetime_memory R218-R233; 17 R439): the tick and what follows
it, and the lifetime words.
-/
namespace Sys2Proof.Machine

/-! ### TEMPTAB (R220-R222) -/

/-- Table 9-3: limits of LC0 to LC2 and the interval of LC3, by band. -/
def floorOf (band cls : Nat) : Nat :=
  let row := match band with
    | 0 => [320, 1280, 4000, 256]
    | 1 => [240, 960, 3840, 192]
    | 2 => [160, 640, 2560, 128]
    | 3 => [80, 320, 1280, 64]
    | 4 => [40, 160, 640, 32]
    | _ => [0, 0, 0, 16]
  (row[cls]?).getD 0
/-- A field of TTn of a die; TT5.RI3 is a quarter of TT3's. -/
def ttField (m : Mach) (die band cls : Nat) : Nat :=
  let tt := fun (b : Nat) => m.ccCsr (4 * die) (0x880 + b)
  if band = 5 then (if cls = 3 then bits (tt 3) 59 48 / 4 else 0)
  else bits (tt band) (16 * cls + 11) (16 * cls)
/-- A register as written: each field clamped (R220); TT5 keeps nothing of its own (R221). -/
def ttClamp (n : Nat) (v : Dword) : Dword :=
  if n = 5 then 0
  else
    let f := fun (c : Nat) => max (floorOf n c) (min (bits v (16 * c + 11) (16 * c)) 4000)
    dw (f 0 + f 1 * 2 ^ 16 + f 2 * 2 ^ 32 + f 3 * 2 ^ 48)
/-- A register as read. -/
def ttRead (m : Mach) (die n : Nat) : Dword :=
  if n = 5 then dw (ttField m die 5 3 * 2 ^ 48) else m.ccCsr (4 * die) (0x880 + n)

/-! ### The tick (R219, R223) -/

/-- Whether a group is held: LC3, any class in band B5 or in reduced service. -/
def groupHeld (rs : Bool) (band : Nat) (g : Group) : Bool := rs || band == 5 || g.cls == 3
/-- The age at which something is due. -/
def groupLimit (m : Mach) (die band : Nat) (rs : Bool) (g : Group) : Nat :=
  if rs then floorOf band 3
  else if groupHeld rs band g then ttField m die band 3
  else ttField m die band g.cls

/-- A group one tick older. -/
def ageGroup (m : Mach) (die band : Nat) (rs : Bool) (g : Group) : Group :=
  if g.v then
    -- what an earlier tick queued has been refreshed by now (R224)
    let g := if g.q then { g with age := 0, q := false } else g
    let age := min (g.age + 1) 4095
    { g with age := age, due := decide (groupLimit m die band rs g ≤ age) }
  else g
def ageCore (m : Mach) (a : Nat) (c : Core) : Core :=
  if c.mem.ag = [] ∧ c.mem.wg = [] then c
  else
    let p := panelOf a
    let f := ageGroup m (p / 4) (m.panel p).band (m.die (p / 4)).reduced
    let clean := fun (c : Core) (w : Bool) (l : SMap Group) =>
      l.foldl (fun c e => if e.2.clr ∧ !e.2.v then clearGroup c w e.1 else c) c
    let c := clean (clean c false c.mem.ag) true c.mem.wg
    c.modMem fun x => { x with ag := x.ag.map fun e => (e.1, f e.2), wg := x.wg.map fun e => (e.1, f e.2) }

/-- The steps a tick makes due on an agent: expiries, and refreshes to queue. -/
def dueGroups (m : Mach) (a : Nat) (c : Core) : List Input :=
  let p := panelOf a
  let band := (m.panel p).band
  let rs := (m.die (p / 4)).reduced
  let of := fun (base : Nat) (l : SMap Group) => (l.filter fun e => e.2.due).map fun e =>
    (⟨if groupHeld rs band e.2 then .refreshQueued else .rowGroupExpiry, { a := a, b := base + e.1 }⟩ : Input)
  of 0 c.mem.ag ++ of 1024 c.mem.wg

/-- Row groups by number: A 0-1023, W from 1024. -/
def modGroup (m : Mach) (a grp : Nat) (f : Group → Group) : Mach :=
  m.modAgent a fun c => c.setGroup (decide (1024 ≤ grp)) (grp % 1024) (f (c.group (decide (1024 ≤ grp)) (grp % 1024)))
def groupAt (m : Mach) (a grp : Nat) : Group := (m.agent a).group (decide (1024 ≤ grp)) (grp % 1024)

def csrLSTAT : Nat := 0x019
def sat24 (n : Nat) : Nat := min n 0xFFFFFF

/-- ROW_GROUP_EXPIRY (R223, R229). -/
def groupExpiry (m : Mach) (a grp : Nat) : Mach :=
  let g := groupAt m a grp
  let p := panelOf a
  if grp < 2048 ∧ g.v ∧ g.due ∧ !groupHeld (m.die (p / 4)).reduced (m.panel p).band g then
    let ls := (m.agent a).csr true csrLSTAT
    if g.x then
      (modGroup m a grp fun g => { g with cls := 3, q := true, due := false }).modAgent a fun c =>
        c.setCsr true csrLSTAT (putBits ls 39 16 (sat24 (bits ls 39 16 + 1)))
    else
      (modGroup m a grp fun g => { g with v := false, clr := true, q := false, due := false }).modAgent a fun c =>
        c.setCsr true csrLSTAT
          (putBits (putBits (putBits ls 63 40 (sat24 (bits ls 63 40 + 1))) 11 10 (2 + grp / 1024)) 9 0 (grp % 1024))
  else m
/-- REFRESH_QUEUED. -/
def queueRefresh (m : Mach) (a grp : Nat) : Mach :=
  let g := groupAt m a grp
  if grp < 2048 ∧ g.v ∧ g.due then modGroup m a grp fun g => { g with q := true, due := false } else m
/-- ROW_GROUP_REFRESH (R224). -/
def doRefresh (m : Mach) (a grp : Nat) : Mach :=
  if grp < 2048 ∧ (groupAt m a grp).q then modGroup m a grp fun g => { g with age := 0, q := false } else m
/-- ROW_GROUP_CLEAR (R228). -/
def doClear (m : Mach) (a grp : Nat) : Mach :=
  if grp < 2048 then m.modAgent a fun c => clearGroup c (decide (1024 ≤ grp)) (grp % 1024) else m

/-! ### Lifetime words (R230, R439) -/

/-- The row groups of a range of A or W; a range outside its buffer traps. -/
def lifeRange (x : Dword) (n : Nat) : Exec (Bool × List Nat) := do
  need ((tagOfAddr x == tagA || tagOfAddr x == tagW) && inSpace x (max 1 n)) 0x0B x
  pure (tagOfAddr x == tagW, if n = 0 then [] else groupsOf (offOf x) n)
/-- Change the valid groups among some. -/
def onValid (w : Bool) (ks : List Nat) (f : Group → Group) : Exec Unit := modM fun m => m.modCore fun c =>
  ks.foldl (fun c k => if (c.group w k).v then c.setGroup w k (f (c.group w k)) else c) c

def lifeWord (a b cls : Nat) (x : Bool) : Exec Unit :=
  orLate (do
    let v ← rdClean a
    let n ← rdClean b
    let r ← lifeRange v n.toNat
    onValid r.1 r.2 fun g => { g with cls := cls, x := x }) lateTrap
def refrWord (a b : Nat) : Exec Unit :=
  orLate (do
    let v ← rdClean a
    let n ← rdClean b
    let r ← lifeRange v n.toNat
    onValid r.1 r.2 fun g => { g with q := true }) lateTrap
/-- The state of a group as Table 7-2's row-group table gives it (R175). -/
def groupWord (g : Group) : Nat :=
  (if g.v then 2 ^ 31 else 0) + (if g.x then 2 ^ 30 else 0) + g.cls % 4 * 2 ^ 28 + g.age % 4096
def ageqWord (d a : Nat) : Exec Unit :=
  orLate (do
    let v ← rdClean a
    let r ← lifeRange v 1
    let m ← getM
    wrS d ⟨dw (groupWord (m.core.group r.1 (offOf v / 4096))), false⟩ 2) (lateS d 2)

/-- LIFE (R439). -/
def execLife (a : BitVec 6) (b : BitVec 6) (c : BitVec 2) (x : BitVec 1) (st : State) : Res :=
  word (.life a b c x) (lifeWord (fld a) (fld b) (fld c) (x == 1)) st
/-- REFR (R439). -/
def execRefr (a : BitVec 6) (b : BitVec 6) (st : State) : Res := word (.refr a b) (refrWord (fld a) (fld b)) st
/-- AGEQ (R439). -/
def execAgeq (d : BitVec 6) (a : BitVec 6) (st : State) : Res := word (.ageq d a) (ageqWord (fld d) (fld a)) st
/-- ROW_GROUP_EXPIRY (R223). -/
def execRowGroupExpiry (st : State) : Res := runEvent (fun x m => groupExpiry m x.a x.b) st
/-- REFRESH_QUEUED (R223). -/
def execRefreshQueued (st : State) : Res := runEvent (fun x m => queueRefresh m x.a x.b) st
/-- ROW_GROUP_REFRESH (R224). -/
def execRowGroupRefresh (st : State) : Res := runEvent (fun x m => doRefresh m x.a x.b) st
/-- ROW_GROUP_CLEAR (R228). -/
def execRowGroupClear (st : State) : Res := runEvent (fun x m => doClear m x.a x.b) st

end Sys2Proof.Machine
end

