-- ==== Sys2Proof/Machine/Graphs.lean ====
section
/-!
DEFINITION. The graph walker (05_scheduling R139-R141; 03 R71): checking a descriptor, starting a run, running nodes.
-/
namespace Sys2Proof.Machine

/-! ### Descriptors (Tables 5-9 to 5-11) -/

/-- One node record. -/
def nodeOk (d : List Byte) (n k : Nat) : Bool :=
  let o := 64 + 64 * k
  let kind := byteAt d o
  let ns := byteAt d (o + 1)
  decide (1 ≤ kind) && decide (kind ≤ 5) && decide (ns ≤ 8) && decide (leAt d (o + 4) 2 ≤ 256) && zeroAt d (o + 6) 2 &&
    ((List.range 8).all fun i => if i < ns then decide (byteAt d (o + 8 + i) < n) else byteAt d (o + 8 + i) == 0) &&
    (match kind with
      | 1 => decide (byteAt d (o + 24) ≤ 16) && decide (byteAt d (o + 25) ≤ 7)
      | 3 => decide (byteAt d (o + 16) ≤ 1)
      | 4 => ns == 2
      | 5 => ns == 2 && leAt d (o + 4) 2 == 1
      | _ => true)
def graphOk (d : List Byte) : Bool :=
  let n := leAt d 4 2
  leAt d 0 2 == 0x4C30 && byteAt d 2 == 1 && byteAt d 3 == 0 && decide (1 ≤ n) && decide (n ≤ 256) && zeroAt d 6 58 &&
    (List.range n).all (nodeOk d n)

/-- Whether a device range lies in regions a test accepts. -/
def rangeIn (m : Mach) (part va n : Nat) (p : RegionE → Bool) : Bool :=
  match rangeRegions m part va n accRead with
  | .ok rs => rs.all fun r => p (m.region part r)
  | .error _ => false
def graphSource (vfn : Nat) (e : RegionE) : Bool := e.st == 3 || (e.st == 1 && e.vfn == vfn)

/-- GRAPH (R71, R139). The PRIO of its ARG is kept with the run and acts on nothing: a node's own PRIO is what its launch gets,
capped as R63 says (log 79). -/
def cmdGraph (m : Mach) (k : Nat) (b : List Byte) (c : Cmd) : Mach :=
  let vfn := k / 16
  let a := argOf b
  let q := m.queue k
  let v := m.vf vfn
  let n := nbits a 5 0
  if a ≥ 2 ^ 9 ∨ !zeroAt b 24 40 then endCmd m k 1 c 2 0 0 0
  else
    match residency m vfn q.slotm n with
    | .waits => m
    | .fail s => endCmd m k 1 c s 0 0 0
    | .ok =>
      let at_ := leAt b 8 8
      let cw := leAt b 16 8
      let size := 64 + 64 * leAt (devRead m v.part at_ 64) 4 2
      if !rangeIn m v.part at_ 64 (graphSource vfn) ∨ !rangeIn m v.part cw 2048 (fun e => e.st == 4 && e.vfn == vfn) then
        endCmd m k 1 c 5 0 0 0
      else
        if devStalled m v.part at_ 64 accRead then m
        else
        let head := devRead m v.part at_ 64
        if leAt head 4 2 = 0 ∨ 256 < leAt head 4 2 then endCmd m k 1 c 2 0 0 0
        else if !rangeIn m v.part at_ size (graphSource vfn) then endCmd m k 1 c 5 0 0 0
        else if devStalled m v.part at_ size accRead then m
        else
          let d := devRead m v.part at_ size
          if !graphOk d then endCmd m k 1 c 2 0 0 0
          else
            let i := (goOn m k 1 c).newId
            let r := takeInv i.2 v.part
            let gen := (m.slot vfn n).cur
            let m := latch r.2 vfn n (runToken i.1)
            let g : GRun := { q := k, cmd := c, vf := vfn, part := v.part, slot := n, gen := gen, inv := r.1,
                              prio := nbits a 8 6, desc := d, cw := cw }
            let g := (List.range g.nnode).foldl (fun g j =>
              if g.field j 4 2 = 0 then g.setNode j { st := 1, readyAt := m.sys.ns } else g) g
            graphSettle (m.setRun i.1 g) i.1

/-! ### Nodes (R140) -/

/-- The value of a condition word. -/
def condWord (m : Mach) (g : GRun) (i : Nat) : Nat := leAt (devRead m g.part (g.cw + 8 * i) 8) 0 8
/-- A launch node: its launch is the issuing queue's next. An entry point that the image lacks ends the graph with STATUS 2 (log 80). -/
def nodeLaunch (m : Mach) (rid k : Nat) : Mach :=
  let g := m.run rid
  let nb := g.field k 24 1
  let bt := devRead m g.part (g.field k 16 8) 128
  let bufs := (List.range nb).map fun i => leAt bt (8 * i) 8
  let entry := g.field k 26 2
  if (imageAt m g.part (m.slot g.vf g.slot).nti).entries.length ≤ entry then nodeDone m rid k 2 []
  else
    (acceptLaunch m g.vf (g.q % 16) g.slot (effPrio m g.vf (g.field k 25 1) (m.queue g.q).prioc) g.gen entry bufs
      ⟨1, rid, k, 0⟩).2
/-- A copy node. -/
def nodeCopy (m : Mach) (rid k : Nat) : Mach :=
  let g := m.run rid
  let i := m.newId
  startCopy (i.2.setCopy i.1 { q := g.q, dir := 3, haddr := g.field k 16 8, daddr := g.field k 24 8, len := g.field k 32 8,
                               node := some (rid, k) }) i.1
/-- A store of a graph's signal to a word; copy `id` keeps it while its mapping is served. -/
def graphStore (m : Mach) (id : Nat) : Mach :=
  let c := m.copy id
  match c.node with
  | some (rid, k) =>
    let g := m.run rid
    if c.daddr % 8 ≠ 0 then finishCopy m id 2 0 0
    else
      match sigWord m g.part g.vf c.daddr accWrite with
      | .ok pa =>
        let m := putWord m g.part pa c.daddr c.haddr
        (nodeDone (m.dropCopy id) rid k 0 (g.succs k))
      | .fault va w => copyFault (m.setCopy id { c with req := 2 }) id g.part g.vf g.inv va accWrite w
      | .waits => m
      | .bad => finishCopy m id 5 0 0
  | none => m
/-- A signal node. One that cannot be performed, for want of a valid semaphore or a word it may write, ends the graph with the
STATUS that SIGNAL would give, 2 or 5 (log 80). -/
def nodeSignal (m : Mach) (rid k : Nat) : Mach :=
  let g := m.run rid
  if g.field k 16 1 = 0 then
    match if g.field k 24 8 ≤ 4095 then semOf m g.part g.vf (g.field k 24 8) else none with
    | some (p, i) => nodeDone (m.setSem p i (semSignal (m.sem p i) (g.field k 32 4))) rid k 0 (g.succs k)
    | none => nodeDone m rid k 2 []
  else
    let i := m.newId
    graphStore (i.2.setCopy i.1 { q := g.q, dir := 4, haddr := g.field k 32 8, daddr := g.field k 24 8, node := some (rid, k) }) i.1
/-- Whether a node reads memory whose stack takes no requests: its condition word, its buffer table (R159). -/
def nodeStalled (m : Mach) (g : GRun) (k : Nat) : Bool :=
  match g.field k 0 1 with
  | 1 => devStalled m g.part (g.field k 16 8) 128 accRead
  | 2 => false
  | 3 => false
  | _ => devStalled m g.part (g.cw + 8 * g.field k 16 1) 8 accRead
/-- GRAPH_NODE_RUN: a ready node runs; a signal whose mapping has come is stored. A started graph goes on outside its VF's slice
(R129), and not while the VF is held for migration (log 77). A while node counts its entries over the whole run: the count does not
start again when the node is entered after its exit (log 78). -/
def nodeRun (m : Mach) (rid k : Nat) : Mach :=
  let g := m.run rid
  let n := g.node k
  if n.st = 2 then
    match m.sys.copies.find? fun e => e.2.dir == 4 && e.2.node == some (rid, k) && e.2.req == 0 with
    | some e => graphStore m e.1
    | none => m
  else if n.st ≠ 1 ∨ g.fail ≠ 0 ∨ 1 < (m.vf g.vf).mig ∨ nodeStalled m g k then m
  else
    let m := m.setRun rid (g.setNode k { n with st := 2 })
    let one := fun (m : Mach) (first : Bool) => nodeDone m rid k 0 [g.field k (if first then 8 else 9) 1]
    match g.field k 0 1 with
    | 1 => nodeLaunch m rid k
    | 2 => nodeCopy m rid k
    | 3 => nodeSignal m rid k
    | 4 => one m (condWord m g (g.field k 16 1) != 0)
    | _ =>
      let lim := g.field k 20 4
      if condWord m g (g.field k 16 1) ≠ 0 ∧ (lim = 0 ∨ n.times < lim) then
        one (m.setRun rid (g.setNode k { n with st := 2, times := n.times + 1 })) true
      else one m false
/-- GRAPH_DEADLINE_OVERRUN (R141): once for an activation. -/
def nodeOverrun (m : Mach) (rid k : Nat) : Mach :=
  let g := m.run rid
  let n := g.node k
  if (n.st = 1 ∨ n.st = 2) ∧ g.field k 2 2 ≠ 0 ∧ !n.overrun ∧ n.readyAt + 1000 * g.field k 2 2 < m.sys.ns then
    m.setRun rid { g.setNode k { n with overrun := true } with overruns := g.overruns + 1 }
  else m

/-- GRAPH (R71). -/
def execGraph (st : State) : Res := runEvent (fun x m => startCmd m x.a x.b 5 cmdGraph) st
/-- GRAPH_NODE_RUN (R140). -/
def execGraphNodeRun (st : State) : Res := runEvent (fun x m => nodeRun m x.a x.b) st
/-- GRAPH_DEADLINE_OVERRUN (R141). -/
def execGraphDeadlineOverrun (st : State) : Res := runEvent (fun x m => nodeOverrun m x.a x.b) st

end Sys2Proof.Machine
end

