-- ==== Sys2Proof/Machine/MatNum.lean ====
section
/-!
DEFINITION. The numerics profiles of the matrix engine (12_arithmetic R304-R308, Tables 12-7, 12-8): one element of a
step. Exact finite values are pairs mant × 2^exp of integers.
-/
namespace Sys2Proof.Machine

/-! ### Shapes (Tables 12-7, 17-4) -/

/-- Accumulator tag of an operand type. -/
def accType (t : Nat) : Nat := if t = 9 then 9 else if t = 0 then 2 else 8
/-- K elements per step. -/
def stepK (t : Nat) : Nat :=
  match t with
  | 9 => 8
  | 8 => 16
  | 6 => 64
  | 7 => 64
  | 10 => 256
  | _ => 128
/-- Columns. -/
def stepN (t : Nat) : Nat := if t = 9 then 32 else 64
/-- Bytes of the B operand in W. -/
def stepFoot (t : Nat) : Nat :=
  match t with
  | 9 => 2048
  | 8 => 4096
  | 10 => 8704
  | _ => 8192

/-! ### Exact sums -/

/-- The sum of mant × 2^exp pairs. -/
def sumExact (ps : List (Int × Int)) : Int × Int :=
  match ps with
  | [] => (0, 0)
  | p :: t =>
    let e := t.foldl (fun m q => min m q.2) p.2
    (ps.foldl (fun s q => s + q.1 * 2 ^ (q.2 - e).toNat) 0, e)

/-- A product with the sign of its zero: value, negative. -/
structure Prod1 where
  neg : Bool
  mant : Nat
  exp : Int
  deriving DecidableEq, Repr

def Prod1.pair (p : Prod1) : Int × Int := (flInt p.neg p.mant, p.exp)
/-- An exact sum as a value: −0 when every product is −0, and otherwise +0 for a sum of zero (R306). -/
def sumFl (ps : List Prod1) (s : Int × Int) : Fl :=
  if s.1 = 0 then .fin (ps.all fun p => p.neg && p.mant == 0) 0 0 else flOfInt s.1 s.2 false

/-- One product brought to a multiple of 2^q: toward zero, or to nearest even; whether it lost anything. -/
def alignOne (rne : Bool) (q : Int) (p : Prod1) : (Int × Int) × Bool :=
  let r := quantize (if rne then .ne else .tz) p.neg p.mant p.exp q false
  if q ≤ p.exp then (p.pair, false) else ((flInt p.neg r.1, q), r.2)

/-- Align(products, W, t) of R306: the sum and whether an amount was discarded. -/
def alignSum (w : Nat) (rne : Bool) (ps : List Prod1) : Fl × Bool :=
  let nz := ps.filter fun p => p.mant != 0
  match nz with
  | [] => (sumFl ps (0, 0), false)
  | p :: t =>
    let lg := fun (p : Prod1) => (Nat.log2 p.mant : Int) + p.exp
    let emax := t.foldl (fun m q => max m (lg q)) (lg p)
    let q := emax - w + 1
    let xs := nz.map (alignOne rne q)
    (sumFl ps (sumExact (xs.map Prod.fst)), xs.any Prod.snd)

/-- Acc(c, x): one rounding to the accumulator type (R306); bits and flags. -/
def accAdd (t : Nat) (c : Nat) (x : Fl) : Nat × Nat :=
  match x with
  | .nan _ => (canonNaN t, 0)
  | x =>
    let r := flAdd .ne (unpack t c) x
    let q := roundFl t ⟨.ne, false, false⟩ r.1
    (q.1, q.2 ||| r.2)

/-- Lists cut in blocks of `g`. -/
def blocksOf (fuel g : Nat) (ps : List Prod1) : List (List Prod1) :=
  match fuel with
  | 0 => []
  | n + 1 => if ps = [] then [] else ps.take g :: blocksOf n g (ps.drop g)

/-- Block sums added one after another. -/
def accBlocks (t w : Nat) (rne : Bool) (c : Nat) (bs : List (List Prod1)) : Nat × Nat :=
  bs.foldl (fun a b =>
    let s := alignSum w rne b
    let r := accAdd t a.1 s.1
    (r.1, a.2 ||| r.2 ||| if s.2 then flagNX else 0)) (c, 0)

/-! ### The pairwise tree of profile 4 -/

/-- A node: value bits and flags so far. -/
def treeNode (t : Nat) (a b : Nat × Nat) : Nat × Nat :=
  let r := flAdd .ne (unpack t a.1) (unpack t b.1)
  let q := roundFl t ⟨.ne, false, false⟩ r.1
  -- only infinities of opposite sign make NV: a NaN child is quiet
  (q.1, a.2 ||| b.2 ||| q.2 ||| r.2)
def treeLevel (t : Nat) (xs : List (Nat × Nat)) : List (Nat × Nat) :=
  match xs with
  | a :: b :: rest => treeNode t a b :: treeLevel t rest
  | l => l
def treeRoot (t : Nat) (fuel : Nat) (xs : List (Nat × Nat)) : Nat × Nat :=
  match fuel with
  | 0 => (xs.head?).getD (0, 0)
  | n + 1 => treeRoot t n (treeLevel t xs)

/-- The finite case of a step (Table 12-8). -/
def profileStep (t prof : Nat) (c : Nat) (ps : List Prod1) : Nat × Nat :=
  match prof with
  | 1 => accBlocks t 64 false c (blocksOf 256 16 ps)
  | 2 => ps.foldl (fun a p =>
      let r := accAdd t a.1 (.fin p.neg p.mant p.exp)
      (r.1, a.2 ||| r.2)) (c, 0)
  | 4 =>
    let leaf := fun (p : Prod1) => roundFl t ⟨.ne, false, false⟩ (.fin p.neg p.mant p.exp)
    let root := treeRoot t 8 (ps.map leaf)
    let r := accAdd t c (unpack t root.1)
    (r.1, root.2 ||| r.2)
  | 5 => accAdd t c (sumFl ps (sumExact (ps.map Prod1.pair)))
  | 6 => accBlocks t 48 false c (blocksOf 256 32 ps)
  | 7 => accBlocks t 64 true c (blocksOf 256 8 ps)
  -- profiles 3, and 0, which gives its results on the N740 (R307)
  | _ => accBlocks t 64 false c [ps]

/-! ### One element (R306) -/

/-- A value times 2^e. -/
def scaleFl (x : Fl) (e : Int) : Fl :=
  match x with
  | .fin n m k => .fin n m (k + e)
  | v => v

/-- The element operation: accumulator type and bits, operands with their scales applied. -/
def elemStep (t prof : Nat) (c : Nat) (ab : List (Fl × Fl)) : Nat × Nat :=
  let cv := unpack t c
  let ps := ab.map fun p => flMul p.1 p.2
  let vals := cv :: ps.map Prod.fst
  let isInf := fun (v : Fl) (n : Bool) => match v with
    | .inf k => k == n
    | _ => false
  let plus := vals.any fun v => isInf v false
  let minus := vals.any fun v => isInf v true
  if vals.any Fl.isNaN || (plus && minus) then
    (canonNaN t, if cv.isNaN || (ab.any fun p => p.1.isNaN || p.2.isNaN) then 0 else flagNV)
  else if plus then (infBits t false, 0)
  else if minus then (infBits t true, 0)
  else
    profileStep t prof c (ps.map fun p => match p.1 with
      | .fin n m e => ⟨n, m, e⟩
      | _ => ⟨false, 0, 0⟩)

/-- An INT8 element (R298): bits, and SAT. -/
def intStep (c : Nat) (ab : List (Int × Int)) : Nat × Bool :=
  satT 2 (ab.foldl (fun s p => s + p.1 * p.2) (sext 32 c))

end Sys2Proof.Machine
end

