-- ==== Sys2Proof/Machine/Matrix.lean ====
section
/-!
DEFINITION. Engine M (17_matrix_and_engine_instructions R410-R424; 08 R211): its words, the operations of its queue and
the fills of the gather unit.
-/
namespace Sys2Proof.Machine

def csrMCFG : Nat := 0x01A

/-! ### Configuration (R413-R415) -/

/-- mcfg.t: a pair outside Table 17-4 is ill-formed. -/
def mcfgTypes (a b : Nat) : Exec Unit := modM fun m =>
  m.setCsr csrMCFG (putBits (putBits (m.csr csrMCFG) 3 0 a) 7 4 b)
/-- mcfg.w. -/
def mcfgWptr (a : Nat) : Exec Unit :=
  orLate (do
    let x ← rdClean a
    need (tagOfAddr x == tagW && bits x 59 22 == 0 && bits x 7 0 == 0) 0x0B x
    modM fun m => m.setCsr csrMCFG (putBits (m.csr csrMCFG) 53 32 (bits x 21 0))) lateTrap
def mmaskWord (r c : Nat) : Exec Unit := modM fun m =>
  m.setCsr csrMCFG (putBits (putBits (m.csr csrMCFG) 13 8 r) 22 16 c)

/-! ### Fills (R416-R418) -/

/-- Bytes of a source row: an MX row has its scales behind its elements. -/
def fillBytes (atype : Nat) : Nat := if atype = 10 then 136 else 128
/-- When a fill of buffer `n` issued now ends: after the fills before it, and the steps that read the buffer (R418, Table 17-5). -/
def fillEnd (c : Core) (n : Nat) (fromS : Bool) : Nat :=
  let s := c.eng.fills.foldl (fun x f => max x f.fin) c.ctl.cyc
  let s := c.eng.mq.foldl (fun x o => if o.kind ≤ 1 ∧ o.buf = n then max x o.fin else x) s
  s + if fromS then 68 else 36
/-- Issue a fill of buffer `n` with rows at `base` plus each of `offs`. -/
def fillWord (n : Nat) (base : Dword) (offs : List Int) : Exec Unit := do
  let m ← getOld
  let atype := bits (m.csr csrMCFG) 3 0
  let t := tagOfAddr base
  let size : Int := if t = tagS then 2 ^ 19 else 2 ^ 22
  let at_ := fun (o : Int) => (offOf base : Int) + o
  let bad := fun (o : Int) => decide (at_ o < 0) || decide (size < at_ o + fillBytes atype)
  need ((t == tagS || t == tagA) && base.toNat % 32 == 0) 0x0B base
  match offs.find? bad with
  | some o => raise 0x0B (if 0 ≤ at_ o ∧ at_ o < size then dwInt ((t : Int) * 2 ^ 60 + size) else base + dwInt o)
  | none =>
    -- one in progress and two accepted beyond it
    if 3 ≤ m.core.eng.fills.length then hold 0
    else modM fun m => m.modEng fun e =>
      { e with seq := e.seq + 1,
               fills := e.fills ++ [⟨n, offs.map fun o => (t * 2 ^ 60 + at_ o).toNat, atype, e.seq, fillEnd m.core n (t == tagS)⟩] }
/-- MLDA (R416). -/
def mldaWord (n a b : Nat) : Exec Unit :=
  orLate (do
    let x ← rdClean a
    let y ← rdClean b
    need (y.toNat % 32 == 0) 0x0B x
    fillWord n x ((List.range 32).map fun (i : Nat) => (i : Int) * sInt y)) lateTrap
/-- MGATH (R417). -/
def mgathWord (n a b : Nat) : Exec Unit :=
  orLate (do
    let m ← getOld
    let x ← rdClean a
    let v ← rdV b
    needWord (!v.p) 0x04
    let q := if bits (m.csr csrMCFG) 3 0 = 10 then 256 else 128
    fillWord n x ((lanes (typeWidth (m.nameType b)) 32 v.v).map fun i => ((i * q : Nat) : Int))) lateTrap

/-! ### Operations of the queue (R420-R423) -/

/-- The cycle an operation issued now starts at (R423): not before the one before it, nor before an earlier one on its tile
has completed, a step after a step following at once; one step at a time in the array, one transfer at a time. -/
def opStart (c : Core) (step : Bool) (k : Nat) : Nat :=
  let l := c.eng.mq
  let chained := step && l.getLast?.any fun o => decide (o.kind ≤ 1) && o.tile == k
  l.foldl (fun x o =>
    let x := max x o.start
    let x := if (decide (o.kind ≤ 1)) == step then max x o.fin else x
    if o.tile = k ∧ !chained then max x (if o.kind ≤ 1 then o.fin + 2 else o.fin) else x) c.ctl.cyc
/-- Cycles of Table 17-5; none for a transfer with global memory. -/
def opTime (kind : Nat) (a : Dword) : Nat :=
  if kind ≤ 1 then 128 else if kind = 2 then 32 else if kind = 3 then 2 else if tagOfAddr a = tagS then 128 else 0
/-- An operation joins the queue; a fifth waits (R423). -/
def enqueue (o : MOp) : Exec Unit := do
  let m ← getOld
  if 4 ≤ m.core.eng.mq.length then hold 0
  else
    let s := opStart m.core (decide (o.kind ≤ 1)) o.tile
    let s := if o.kind ≤ 1 ∧ !o.late then
        m.core.eng.fills.foldl (fun x f => if f.buf = o.buf then max x f.fin else x) s
      else s
    modM fun m => m.modEng fun e =>
      { e with mq := e.mq ++ [{ o with seq := e.seq, start := s, fin := s + opTime o.kind o.addr }], seq := e.seq + 1 }

/-- MMA and MMAZ (R420, R421). The tag changes at issue (log 13). -/
def mmaWord (z : Bool) (k n : Nat) : Exec Unit := do
  let m ← getOld
  let b ← getB
  let prof := (b.bind fun b => b.prof).getD (bits (m.csr 0x003) 7 0)
  needWord (decide (prof ≤ 7)) 0x01
  let cfg := m.csr csrMCFG
  let t := bits cfg 3 0
  let wp := bits cfg 53 32
  need (decide (wp + stepFoot t ≤ 2 ^ 22)) 0x0B (dw (tagW * 2 ^ 60 + wp))
  let st ← isStamped
  let late := st && m.core.eng.fills.any fun f => f.buf == n
  enqueue ⟨if z then 1 else 0, k, n, cfg, prof, t, 0, 0, late, 0, 0, 0⟩
  modM fun m => (m.setTag k (accType t)).setCsr csrMCFG (putBits (m.csr csrMCFG) 53 32 (wp + stepFoot t))

/-- MDRAIN (R422, R203). -/
def mdrainWord (k n : Nat) : Exec Unit := do
  let m ← getM
  let q := m.hq n
  needWord (q.bound && q.prod == 9 && decide (q.items.length + q.resv + 32 ≤ hqDepth n)) 0x07
  enqueue ⟨2, k, n, 0, 0, 0, 0, 0, false, 0, 0, 0⟩
  modM fun m => m.setHq n { m.hq n with resv := (m.hq n).resv + 32 }
/-- MZERO. -/
def mzeroWord (k t : Nat) : Exec Unit := do
  enqueue ⟨3, k, 0, 0, 0, t, 0, 0, false, 0, 0, 0⟩
  modM fun m => m.setTag k t
/-- MSPILL and MFILL: tag 0x8 or 0x0, a multiple of 256, the range within the space. -/
def transferWord (kind k a t : Nat) : Exec Unit :=
  orLate (do
    let x ← rdClean a
    need ((tagOfAddr x == tagS || tagOfAddr x == 0) && x.toNat % 256 == 0 && inSpace x 8192) 0x0B x
    enqueue ⟨kind, k, 0, 0, 0, t, x, 0, false, 0, 0, 0⟩
    if kind = 5 then modM fun m => m.setTag k t else pure ()) lateTrap

/-- MWAIT and MSTAT (R424). -/
def mwaitWord (k : Nat) (all : Bool) : Exec Unit := do
  let m ← getOld
  let e := m.core.eng
  if all then (if e.mq = [] ∧ e.fills = [] then pure () else hold 0)
  else if e.mq.any fun o => o.tile == k then hold 0
  else pure ()
def mstatWord (d : Nat) : Exec Unit := do
  let m ← getOld
  let e := m.core.eng
  let pend := fun (n : Nat) => e.fills.any fun f => f.buf == n
  wrS d ⟨dw (e.mq.length + (if pend 0 then 8 else 0) + (if pend 1 then 16 else 0)), false⟩ 1

/-! ### What the operations do -/

def Core.latch (c : Core) (buf i : Nat) : LRow := SMap.get (fun _ => {}) c.eng.lat (32 * buf + i)
def Core.setLatch (c : Core) (buf i : Nat) (x : LRow) : Core :=
  c.modEng fun e => { e with lat := SMap.set (fun _ => {}) e.lat (32 * buf + i) x }

/-- Operand bits `i` of width `w` in a number. -/
def opBits (w n i : Nat) : Nat := (n >>> (w * i)) % 2 ^ w
/-- The value of an E2M1 element under its block scale (R302). -/
def scaled (x : Fl) (s : Nat) : Fl := if s = 0xFF then .nan false else scaleFl x ((s : Int) - 127)
/-- A latch row's elements. -/
def aValues (t : Nat) (r : LRow) : List Fl :=
  (List.range (stepK t)).map fun k =>
    let x := unpack t (opBits (typeWidth t) r.v.toNat k)
    if t = 10 then scaled x (bits r.scale (8 * (k / 32) + 7) (8 * (k / 32))) else x
/-- Column `j` of the B operand held in `b`. -/
def bValues (t tb : Nat) (b j : Nat) : List Fl :=
  (List.range (stepK t)).map fun k =>
    let x := unpack tb (opBits (typeWidth tb) b (k * stepN t + j))
    if t = 10 then scaled x (opBits 8 b (8192 + 64 * (k / 32) + j)) else x
/-- The same for INT8. -/
def aInts (r : LRow) : List Int := (List.range 128).map fun k => sext 8 (opBits 8 r.v.toNat k)
def bInts (b j : Nat) : List Int := (List.range 128).map fun k => sext 8 (opBits 8 b (k * 64 + j))

/-- New lane values of a row with columns below `clim` computed: bits, FFLAGS, SAT. -/
def stepRow (o : MOp) (b : Nat) (r : LRow) (row : Row) : Lanes :=
  let t := o.type
  let w := typeWidth (accType t)
  let clim := bits o.cfg 22 16
  let a := aValues t r
  let ai := aInts r
  gather ((lanes w (stepN t) row).zipIdx.map fun (c, j) =>
    if clim ≤ j then (c, 0, false)
    else
      let c := if o.kind = 1 then 0 else c
      if t = 0 then let x := intStep c (ai.zip (bInts b j)); (x.1, 0, x.2)
      else let x := elemStep (accType t) o.prof c (a.zip (bValues t (bits o.cfg 7 4) b j)); (x.1, x.2, false))

/-- The rows of a step can be used two cycles after it ends (Table 17-5). -/
def stepReady (m : Mach) (a : Nat) (o : MOp) (rows : List Nat) : Mach :=
  m.modAgent a fun c => c.modCtl fun k =>
    { k with rdy := rows.foldl (fun r i => SMap.set (fun _ => 0) r (rdyRow (32 * o.tile + i)) (o.fin + 2)) k.rdy }
/-- A latch row as a step finds it: an error is logged, and poisons it where it cannot be corrected (Table 9-9). -/
def latchRead (m : Mach) (a buf i : Nat) : LRow × Mach :=
  let l := (m.agent a).latch buf i
  match l.err with
  | none => (l, m)
  | some e => ({ l with p := l.p || e.ue },
      (logItem m a 6 l.err).modAgent a fun c => if e.ue then c else c.setLatch buf i { l with err := none })
/-- A step (R420, R421, R308): a row is poisoned by the latch row it reads (R420; log 88). -/
def doStep (m : Mach) (a : Nat) (o : MOp) : Mach :=
  let t := o.type
  let w := typeWidth (accType t)
  let clim := bits o.cfg 22 16
  let full := o.kind == 1 && decide (stepN t ≤ clim)
  let rows := List.range (min 32 (mcfgRlim o.cfg))
  if o.late then
    rows.foldl (fun m i =>
      let x := crowRead m a (32 * o.tile + i)
      let ls := (lanes w (stepN t) x.1.v).zipIdx.map fun (c, j) => if clim ≤ j then c else 0
      crowWrite x.2 a (32 * o.tile + i) ⟨rowOf w ls, true⟩) m
  else
    let f := readBuf m a true (bits o.cfg 53 32) (stepFoot t)
    let b := leAt f.1.bytes 0 (stepFoot t)
    let pB := f.1.inval.isSome
    rows.foldl (fun m i =>
      let x := crowRead m a (32 * o.tile + i)
      let l := latchRead x.2 a o.buf i
      let p := (x.1.p && !full) || l.1.p || pB
      let r := stepRow o b l.1 x.1.v
      let m := crowWrite l.2 a (32 * o.tile + i) ⟨rowOf w r.v, p⟩
      if p then m
      else m.modAgent a fun c =>
        let c := if r.ff = 0 then c else c.setCsr true 0x000 (c.csr true 0x000 ||| dw (r.ff % 32))
        if r.sat then c.setCsr true 0x001 (c.csr true 0x001 ||| 1) else c) f.2

/-- A drain pushes its rows up to row `n`, each into a place reserved for it (R422, R203). -/
def doDrain (m : Mach) (a : Nat) (o : MOp) (n : Nat) : Mach :=
  let m := ((List.range n).drop o.row).foldl (fun m r =>
    let x := crowRead m a (32 * o.tile + r)
    pushHq x.2 a o.buf x.1 0) m
  m.modAgent a fun c => let q := c.hq o.buf; c.setHq o.buf { q with resv := q.resv - (n - o.row) }
def doZero (m : Mach) (a : Nat) (o : MOp) : Mach :=
  (List.range 32).foldl (fun m r => crowWrite m a (32 * o.tile + r) {}) m

/-- One row of a spill, or of a fill. -/
def spillRow (m : Mach) (a : Nat) (o : MOp) (r : Nat) : Got Unit :=
  let ad := o.addr + dw (256 * r)
  let x := crowRead m a (32 * o.tile + r)
  if x.1.p then .stop (engineTrap x.2 a 0x04 ad 6)
  else if tagOfAddr ad = tagS then engWriteS x.2 a 1 6 (offOf ad) (rowBytes x.1.v)
  else engStore x.2 a engMatrix (offOf ad) (rowBytes x.1.v) (some .write)
def fillRow (m : Mach) (a : Nat) (o : MOp) (r : Nat) : Got Unit :=
  let ad := o.addr + dw (256 * r)
  let put := fun (d : List Byte × Bool) (m : Mach) => crowWrite m a (32 * o.tile + r) ⟨rowOfBytes d.1, d.2⟩
  if tagOfAddr ad = tagS then
    match engReadS m a 1 6 (offOf ad) 256 with
    | .ok d m => .ok () (put d m)
    | .stop m => .stop m
  else
    match engLoad m a engMatrix (offOf ad) 256 (some .read) with
    | .ok d m => .ok () (put d m)
    | .stop m => .stop m
/-- Rows from `o.row` on; where one stops, the operation keeps its place. -/
def moveRows (fuel : Nat) (m : Mach) (a : Nat) (o : MOp) : Mach × Option MOp :=
  match fuel with
  | 0 => (m, none)
  | n + 1 =>
    if 32 ≤ o.row then (m, none)
    else
      match if o.kind = 4 then spillRow m a o o.row else fillRow m a o o.row with
      | .ok _ m => moveRows n m a { o with row := o.row + 1 }
      | .stop m => (m, some o)

/-- An operation shares a tile, the array or the transfer path with another, and does not overlap it (R423). -/
def MOp.excludes (o x : MOp) : Bool := o.tile == x.tile || (decide (o.kind ≤ 1) == decide (x.kind ≤ 1))
/-- Whether a transfer has no fixed latency (Table 17-5). -/
def MOp.isGlobal (o : MOp) : Bool := decide (4 ≤ o.kind) && tagOfAddr o.addr != tagS
/-- The operations that follow one with global memory, which has completed at cycle `t`: those it held back start no earlier. -/
def startAfter (o : MOp) (t : Nat) (l : List MOp) : List MOp :=
  if o.isGlobal then
    l.map fun x => if o.excludes x ∧ x.start < t then { x with start := t, fin := t + opTime x.kind x.addr } else x
  else l

/-- Operation `i` of the queue completes: a step once its latch buffer is filled, none before an earlier one that it may not overlap. -/
def completeAt (m : Mach) (a i : Nat) : Mach :=
  let e := (m.agent a).eng
  match e.mq[i]? with
  | none => m
  | some o =>
    let pop := fun (m : Mach) => m.modAgent a fun c => c.modEng fun e =>
      { e with mq := startAfter o c.ctl.cyc (e.mq.eraseIdx i) }
    if !m.runs a || e.mhalt || (e.mq.take i).any o.excludes then m
    else
      match o.kind with
      | 2 => pop (doDrain m a o 32)
      | 3 => pop (doZero m a o)
      | 4 => move pop m a o i
      | 5 => move pop m a o i
      | _ =>
        if !o.late && e.fills.any fun f => f.buf == o.buf && decide (f.seq < o.seq) then m
        else pop (stepReady (doStep m a o) a o (List.range (min 32 (mcfgRlim o.cfg))))
where
  /-- A spill or fill, to its end or to the row that stops it. -/
  move (pop : Mach → Mach) (m : Mach) (a : Nat) (o : MOp) (i : Nat) : Mach :=
    match moveRows 33 m a o with
    | (m, none) => pop m
    | (m, some o) => m.modAgent a fun c => c.modEng fun e =>
        { e with mq := e.mq.set i o, mhalt := c.trapped 6 }
/-- The oldest operation completes (MATRIX_OP_COMPLETE). -/
def completeOp (m : Mach) (a : Nat) : Mach := completeAt m a 0
/-- Drain `i` of the queue has pushed its rows up to row `n`: row r is pushed in cycle r + 1 (Table 17-5). -/
def drainTo (m : Mach) (a i n : Nat) : Mach :=
  match (m.agent a).eng.mq[i]? with
  | none => m
  | some o => (doDrain m a o n).modAgent a fun c => c.modEng fun e => { e with mq := e.mq.set i { o with row := n } }
/-- The first operation that has something to do by cycle `t`: complete, or push the next rows of a drain. Those with global memory have no
fixed latency. -/
def opDue (c : Core) (t : Nat) : Option Nat :=
  (List.range c.eng.mq.length).find? fun i =>
    match c.eng.mq[i]? with
    | none => false
    | some o => !((c.eng.mq.take i).any o.excludes) && !o.isGlobal &&
        decide ((if o.kind = 2 then o.start + o.row + 1 else if o.kind ≤ 1 then o.fin + 1 else o.fin) ≤ t)
/-- What operation `i` has to do by the present cycle. -/
def opStep (m : Mach) (a i : Nat) : Mach :=
  let c := m.agent a
  match c.eng.mq[i]? with
  | some o => if o.kind = 2 ∧ c.ctl.cyc < o.start + 32 then drainTo m a i (c.ctl.cyc - o.start) else completeAt m a i
  | none => m

/-! ### Fills performed (R418, LATCH_FILL) -/

/-- One row of a fill: none when a race stops the gather unit, whose reads count as the task's (log 13). -/
def latchRow (m : Mach) (a : Nat) (f : Fill) (i ad : Nat) : Got Unit :=
  let put := fun (m : Mach) (bs : List Byte) (p : Bool) =>
    let e := injInto m (panelOf a) 6 (localSite a) (32 * f.buf + i) 17
    let v := BitVec.ofNat 1088 (leAt bs 0 128 + (if f.atype = 10 then leAt bs 128 8 else 0x7F7F7F7F7F7F7F7F) * 2 ^ 1024) ^^^
      BitVec.ofNat 1088 e.2.1
    e.2.2.modAgent a fun c => c.setLatch f.buf i ⟨v.setWidth 1024, v.extractLsb' 1024 64, p, e.1⟩
  let off := ad % 2 ^ 60
  if ad / 2 ^ 60 = tagS then
    match engReadS m a 1 8 off (fillBytes f.atype) with
    | .ok d m => .ok () (put m d.1 d.2)
    | .stop m => .stop m
  else
    let r := readBuf m a false off (fillBytes f.atype)
    .ok () (put r.2 r.1.bytes r.1.inval.isSome)

def latchRows (m : Mach) (a : Nat) (f : Fill) (l : List (Nat × Nat)) : Mach × Bool :=
  match l with
  | [] => (m, true)
  | (ad, i) :: t =>
    match latchRow m a f i ad with
    | .ok _ m => latchRows m a f t
    | .stop m => (m, false)

/-- The gather unit completes its oldest fill, unless a step issued before it still reads the buffer. -/
def completeFill (m : Mach) (a : Nat) : Mach :=
  let e := (m.agent a).eng
  match e.fills with
  | [] => m
  | f :: rest =>
    if !m.runs a || e.ghalt || e.mq.any fun o => (o.kind == 0 || o.kind == 1) && o.buf == f.buf && decide (o.seq < f.seq) then m
    else
      match latchRows m a f f.addrs.zipIdx with
      | (m, true) => m.modAgent a fun c => c.modEng fun e => { e with fills := rest }
      | (m, false) => m.modAgent a fun c => c.modEng fun e => { e with ghalt := true }

/-! ### The words -/

/-- MCFG_T (R414). -/
def execMcfgT (a : BitVec 4) (b : BitVec 4) (st : State) : Res := word (.mcfgT a b) (mcfgTypes (fld a) (fld b)) st
/-- MCFG_W (R414). -/
def execMcfgW (a : BitVec 6) (st : State) : Res := word (.mcfgW a) (mcfgWptr (fld a)) st
/-- MLDA (R416). -/
def execMlda (n : BitVec 1) (a : BitVec 6) (b : BitVec 6) (st : State) : Res :=
  word (.mlda n a b) (mldaWord (fld n) (fld a) (fld b)) st
/-- MGATH (R417). -/
def execMgath (n : BitVec 1) (a : BitVec 6) (b : BitVec 6) (st : State) : Res :=
  word (.mgath n a b) (mgathWord (fld n) (fld a) (fld b)) st
/-- MMA (R420). -/
def execMma (k : BitVec 5) (n : BitVec 1) (st : State) : Res := word (.mma k n) (mmaWord false (fld k) (fld n)) st
/-- MMAZ (R420). -/
def execMmaz (k : BitVec 5) (n : BitVec 1) (st : State) : Res := word (.mmaz k n) (mmaWord true (fld k) (fld n)) st
/-- MMASK (R415). -/
def execMmask (r : BitVec 6) (c : BitVec 7) (st : State) : Res := word (.mmask r c) (mmaskWord (fld r) (fld c)) st
/-- MDRAIN (R422). -/
def execMdrain (k : BitVec 5) (n : BitVec 4) (st : State) : Res := word (.mdrain k n) (mdrainWord (fld k) (fld n)) st
/-- MZERO (R422). -/
def execMzero (k : BitVec 5) (t : BitVec 4) (st : State) : Res := word (.mzero k t) (mzeroWord (fld k) (fld t)) st
/-- MSPILL (R422). -/
def execMspill (k : BitVec 5) (a : BitVec 6) (st : State) : Res := word (.mspill k a) (transferWord 4 (fld k) (fld a) 0) st
/-- MFILL (R422). -/
def execMfill (k : BitVec 5) (a : BitVec 6) (t : BitVec 4) (st : State) : Res :=
  word (.mfill k a t) (transferWord 5 (fld k) (fld a) (fld t)) st
/-- MWAIT (R424). -/
def execMwait (k : BitVec 5) (x : BitVec 1) (st : State) : Res := word (.mwait k x) (mwaitWord (fld k) (x == 1)) st
/-- MSTAT (R424). -/
def execMstat (d : BitVec 6) (st : State) : Res := word (.mstat d) (mstatWord (fld d)) st
/-- MATRIX_OP_COMPLETE (R423). -/
def execMatrixOpComplete (st : State) : Res := runEvent (fun x m => completeOp m x.a) st
/-- LATCH_FILL (R418). -/
def execLatchFill (st : State) : Res := runEvent (fun x m => completeFill m x.a) st

end Sys2Proof.Machine
end

