-- ==== Sys2Proof/Machine/SysRegs.lean ====
section
/-!
DEFINITION. Control registers (13_instruction_encoding R325, R326; 14 R356, R357): what each reads as, what a write
leaves, which values a write refuses. Tables 8-6, 9-2, 9-6, 9-11, 12-5, 13-7, 13-8, 17-3 on a tile and 2-6, 4-4, 4-8,
4-9, 5-5, 6-2 to 6-6, 10-3 on a command core.
-/
namespace Sys2Proof.Machine

/-! ### Registers of a tile -/

/-- TILEID of a site (Table 8-6). -/
def tileId (a : Nat) : Dword := dw (dieOf a * 2 ^ 20 + yOf a * 2 ^ 16 + xOf a * 2 ^ 12 + panelOfSite a * 2 ^ 7)
/-- GLVL (Table 6-6): the variant in use and the die's granted level. -/
def glvl (m : Mach) (a : Nat) : Dword := ((m.agent a).csr true 0x043 &&& 0xC) ||| dw (m.die (dieOf a)).lvl
def tileRead (m : Mach) (n : Nat) : Dword :=
  if n = 0x017 then dw (sfcOf m)
  else if n = 0x040 then dw (fmaskOf m m.me)
  else if n = 0x041 then dw (trevOf (dieOf m.me))
  else if n = 0x042 then tileId m.me
  else if n = 0x043 then glvl m m.me
  else m.csr n

/-- The writable bits of a tile's registers. -/
def tileMask (n : Nat) : Dword :=
  if n = 0x000 ∨ n = 0x010 ∨ n = 0x011 ∨ n = 0x013 then 0x1F
  else if n = 0x001 then 1
  else if n = 0x002 then 0xF
  else if n = 0x003 then 0xFF
  else if 0x004 ≤ n ∧ n ≤ 0x006 then 0xFFFFFFFF
  else if n = 0x012 ∨ n = 0x016 then 3
  else if n = 0x018 then 7
  else if n = 0x01A then 0x003FFFFF007F3FFF
  else if n = 0x020 ∨ n = 0x022 then 0xFFFC
  else if n = 0x021 then 0x7FF
  else if n = 0x024 then 0x7FF6
  else BitVec.allOnes 64
/-- Pairs of operand types of a step (Table 17-4). -/
def mmaPair (a b : Nat) : Bool :=
  (a == b && (a == 9 || a == 8 || a == 6 || a == 7 || a == 0 || a == 10)) || ((a == 4 || a == 5) && (b == 4 || b == 5))
/-- What a write of a tile's register is refused with: a reserved type tag (R199), a profile above 7 (R305), MODE.RC
without the feature (R326), a malformed MCFG (R413). -/
def tileRefuses (m : Mach) (n : Nat) (v : Dword) : Option Nat :=
  if n = 0x003 ∧ 7 < bits v 7 0 then some 0x01
  else if (n = 0x014 ∨ n = 0x015) ∧ (List.range 16).any fun k =>
      let t := bits v (4 * k + 3) (4 * k)
      t == 10 || t == 14 || t == 15 then some 0x01
  else if n = 0x016 ∧ bit v 1 ∧ !nbit (fmaskOf m m.me) 5 then some 0x03
  else if n = 0x01A ∧ (!mmaPair (bits v 3 0) (bits v 7 4) ∨ 32 < bits v 13 8 ∨ 64 < bits v 22 16 ∨ bits v 39 32 ≠ 0) then
    some 0x01
  else none
/-- Store a value; `w1c` says that a set EV bit clears EV (R356). -/
def tileWrite (m : Mach) (n : Nat) (v : Dword) (w1c : Bool) : Mach :=
  if n = 0x019 then
    let old := m.csr 0x019
    let keep := old &&& (if w1c && bit v 11 then 0x7FF else 0xFFF)
    m.setCsr n ((v &&& 0xFFFFFFFFFFFF0000) ||| keep)
  else if n = 0x024 then m.setCsr n ((v &&& 0x7FF6) ||| 8)
  else m.setCsr n (v &&& tileMask n)

/-! ### Registers of a command core -/

/-- PWGNT (Table 6-3). -/
def pwgnt (m : Mach) : Dword :=
  dw ((List.range 8).foldl (fun n d =>
    let x := m.die d
    n + ((if x.reduced then 0x40 else 0) + x.pcap * 16 + x.tcap * 4 + x.lvl) * 2 ^ (8 * d)) 0)
/-- A panel's temperature (R31) and PTEMP (Table 6-5). -/
def Panel.temp (p : Panel) : Int := p.sensors.foldl max (p.sensors.headD 0)
def ptemp (m : Mach) (p : Nat) : Dword := dw ((m.panel p).band * 2 ^ 16 + ((m.panel p).temp % 65536).toNat)
/-- HDST (Table 6-2). -/
def hdst (m : Mach) : Dword := dw ((List.range 8).foldl (fun n k => n + (m.stack k).dr * 4 ^ k) 0)
/-- MINSVN; SVN of a monitor image (Table 2-1) and of the running one, which at reset is the image programmed at manufacture (R34). -/
def minSvn (m : Mach) : Nat := m.sys.minsvn.getD ((Config.fused 0).toNat % 2 ^ 32)
def imgSvn (b : List Byte) : Nat := leAt b 8 4
def runSvn (m : Mach) : Nat := m.sys.svn.getD (imgSvn Config.factoryImage)
/-- WDCNT (R110). -/
def wdcnt (m : Mach) (p : Nat) : Nat := ((m.panel p).wdAt - m.sys.ns + 999) / 1000
/-- VQA to VQD of the VF that VFSEL selects (R92, Table 4-4). -/
def vfselRead (m : Mach) (p k : Nat) : Dword :=
  let n := bits (m.ccCsr p 0x803) 9 0
  let v := m.vf n
  if n = 0 ∨ 512 < n then 0
  else if k = 0 then v.vqa ||| dw ((n - 1) * 2 ^ 41)
  else if k = 1 then v.vqb
  else if k = 2 then v.vqc
  else v.vqd
def vfselWrite (m : Mach) (p k : Nat) (x : Dword) : Mach :=
  let n := bits (m.ccCsr p 0x803) 9 0
  let v := m.vf n
  if n = 0 ∨ 512 < n then m
  else m.setVf n
    (if k = 0 then { v with vqa := x &&& 0xFFFC000000000000 }
     else if k = 1 then { v with vqb := x &&& 0xFFFFFFFFFFFF0000 }
     else if k = 2 then { v with vqc := x &&& 0xFF000000FFFFFFFF }
     else { v with vqd := x &&& 0xFFFFFFFFFFFC0000 })

/-- A register of the command core of panel `p`, as it reads. -/
def ccRead (m : Mach) (p n : Nat) : Dword :=
  let part := (m.panel p).part
  let lead := (m.leads p).isSome
  let log := (m.panel p).log
  if n = 0x024 ∨ n = 0x816 ∨ n = 0x876 ∨ n = 0x895 then 0
  else if n = 0x801 then dw (p + part.getD 0 * 256 + if lead then 2 ^ 16 else 0)
  else if n = 0x802 then m.psmap p
  else if 0x804 ≤ n ∧ n ≤ 0x807 then vfselRead m p (n - 0x804)
  else if n = 0x815 then dw (wdcnt m p)
  else if 0x840 ≤ n ∧ n ≤ 0x851 then if lead then m.ccCsr p n else 0
  else if n = 0x860 then pwgnt m
  else if n = 0x861 then m.sys.pwcap
  else if n = 0x862 then ptemp m p
  else if n = 0x863 then hdst m
  else if n = 0x870 then log.cnt
  else if 0x872 ≤ n ∧ n ≤ 0x875 then log.data (bits (m.ccCsr p 0x871) 5 0) (n - 0x872)
  else if 0x880 ≤ n ∧ n ≤ 0x885 then ttRead m (p / 4) (n - 0x880)
  else if n = 0x890 then (part.map fun k => (m.partn k).ptroot).getD 0
  else if n = 0x891 then dw ((part.map m.maBase).getD 0)
  else if n = 0x896 then dw (minSvn m)
  else m.ccCsr p n

/-- Reading ELD3 marks the entry it shows read (R235). -/
def eld3Mark (m : Mach) (p : Nat) : Mach :=
  m.modPanel p fun x => { x with log := x.log.markRead (bits (m.ccCsr p 0x871) 5 0) }
/-- ELCLR, WDACK, EINJC, SVNUP, TT0 to TT5 as written. -/
def elclrWrite (m : Mach) (p : Nat) (v : Dword) : Mach :=
  if bit v 0 then m.modPanel p fun x => { x with log := ElLog.clear } else m
def wdAck (m : Mach) (p : Nat) : Mach := m.modPanel p fun x => { x with wd := false }
def einjcSet (m : Mach) (p : Nat) (v : Dword) : Mach :=
  if 10 < bits v 61 58 ∨ (bits v 61 58 ≤ 6 ∧ 35 < bits v 55 50) then
    m.setCcCsr p csrEINJC (putBits (m.ccCsr p csrEINJC) 63 63 0)
  else m.setCcCsr p csrEINJC v
def svnupSet (m : Mach) (v : Dword) : Mach :=
  let x := v.toNat % 2 ^ 32
  if minSvn m < x ∧ x ≤ runSvn m then m.onSys fun s => { s with minsvn := some x } else m
def ttSet (m : Mach) (p n : Nat) (v : Dword) : Mach := m.setCcCsr (p / 4 * 4) (0x880 + n) (ttClamp n v)

/-- Whether a protection window of a core is locked (R107). -/
def pmpLocked (m : Mach) (p k : Nat) : Bool := bit (m.ccCsr p (0x820 + k)) 3
/-- A write of a register of the command core of panel `p`. -/
def ccWrite (m : Mach) (p n : Nat) (v : Dword) : Mach :=
  let put := fun (mask : Dword) => m.setCcCsr p n (v &&& mask)
  if n = 0x020 ∨ n = 0x022 ∨ n = 0x810 ∨ n = 0x811 then put 0x3FFFC
  else if n = 0x021 ∨ n = 0x812 then put 0x7FF
  else if n = 0x024 then m
  else if n = 0x803 then put 0x3FF
  else if 0x804 ≤ n ∧ n ≤ 0x807 then vfselWrite m p (n - 0x804) v
  else if n = 0x814 then m.setCcCsr p n (dw (max 10 (bits v 15 0)))
  else if n = 0x816 then wdAck m p
  else if 0x820 ≤ n ∧ n ≤ 0x82F then if pmpLocked m p (n - 0x820) then m else put 0xFFFFFFFFFFFFFF1F
  else if 0x830 ≤ n ∧ n ≤ 0x83F then if pmpLocked m p (n - 0x830) then m else put 0xFFFFFFFFFFFFF000
  else if 0x840 ≤ n ∧ n ≤ 0x84F then sltSet m p n v
  else if n = 0x850 then slctlSet m p v
  else if n = 0x851 then if (m.leads p).isSome then put 0xFFFFFFFFFFFFF000 else m
  else if n = 0x861 then m.onSys fun s => { s with pwcap := v &&& 0x0303030303030303 }
  else if n = 0x871 then put 0x3F
  else if n = 0x876 then elclrWrite m p v
  else if n = 0x878 then einjcSet m p v
  else if 0x880 ≤ n ∧ n ≤ 0x885 then ttSet m p (n - 0x880) v
  else if n = 0x890 then ptrootSet m p v
  else if n = 0x892 then if 0x60 ≤ bits v 17 11 then m else put 0x3F800
  else if n = 0x894 then fltWrite (put 0xFFFFFFFF) p 64
  else if n = 0x895 then fltrWrite m p v
  else if n = 0x896 then svnupSet m v
  else put (BitVec.allOnes 64)

/-! ### The CSR words (R356, R357) -/

def csrRead (m : Mach) (n : Nat) : Dword := if m.isTile then tileRead m n else ccRead m (m.me - 1152) n

/-- CSRR: the register as the bundle found it. -/
def csrrWord (d n : Nat) : Exec Unit := do
  let m ← getOld
  if !m.isTile ∧ n = 0x875 then modM fun m => eld3Mark m (m.me - 1152)
  else pure ()
  wrS d ⟨csrRead m n, false⟩ 1
/-- A CSR write: `f` makes the value from the old one and A; 0 is CSRW. -/
def csrSetWord (n a : Nat) (plain : Bool) (f : Dword → Dword → Dword) : Exec Unit :=
  orLate (do
    let old ← getOld
    let x ← rdClean a
    let v := f (csrRead old n) x
    if old.isTile then
      match tileRefuses old n v with
      | some 0x03 => raise 0x03 5
      | some c => raiseWord c
      | none => do
        if n = 0x006 then modB fun b => { b with ctrW := true } else pure ()
        modM fun m => tileWrite m n v plain
    else modM fun m => ccWrite m (m.me - 1152) n v) lateTrap

/-- CSRR (R356). -/
def execCsrr (d : BitVec 6) (c : BitVec 12) (st : State) : Res := word (.csrr d c) (csrrWord (fld d) (fld c)) st
/-- CSRW (R356). -/
def execCsrw (a : BitVec 6) (c : BitVec 12) (st : State) : Res :=
  word (.csrw a c) (csrSetWord (fld c) (fld a) true fun _ x => x) st
/-- CSRS (R356). -/
def execCsrs (a : BitVec 6) (c : BitVec 12) (st : State) : Res :=
  word (.csrs a c) (csrSetWord (fld c) (fld a) false fun o x => o ||| x) st
/-- CSRC (R356). -/
def execCsrc (a : BitVec 6) (c : BitVec 12) (st : State) : Res :=
  word (.csrc a c) (csrSetWord (fld c) (fld a) false fun o x => o &&& ~~~x) st

/-- ELD3_READ (R235). -/
def execEld3Read (st : State) : Res := runEvent (fun x m => eld3Mark m x.a) st
/-- ELCLR (R235). -/
def execElclr (st : State) : Res := runEvent (fun x m => elclrWrite m x.a x.v) st
/-- EINJC_WRITE (R238). -/
def execEinjcWrite (st : State) : Res := runEvent (fun x m => einjcSet m x.a x.v) st
/-- WDACK (R110). -/
def execWdack (st : State) : Res := runEvent (fun x m => wdAck m x.a) st
/-- TEMPTAB_WRITE (R220). -/
def execTemptabWrite (st : State) : Res := runEvent (fun x m => if x.b < 6 then ttSet m x.a x.b x.v else m) st
/-- SVNUP_WRITE (R34). -/
def execSvnupWrite (st : State) : Res := runEvent (fun x m => svnupSet m x.v) st

end Sys2Proof.Machine
end

