-- ==== Sys2Proof/Machine/Power.lean ====
section
/-!
DEFINITION. The power manager (06 R148-R153), retention bands (06 R157) and HBM derating (06 R158-R161): what a sample of
the sensors does, the restart of a die's clock, and what the next lifetime tick takes up. Temperatures are in quarters of
a degree.
-/
namespace Sys2Proof.Machine

/-- The temperature of a die: the hottest of its four panels (R152). -/
def dieTemp (m : Mach) (d : Nat) : Int :=
  ((List.range 4).map fun k => (m.panel (4 * d + k)).temp).foldl max (m.panel (4 * d)).temp

/-! ### Bands (Tables 6-8, 6-9) -/

/-- The highest state entered at a temperature: `enter` gives the thresholds of states 1, 2, …. -/
def stateAt (enter : List Int) (t : Int) : Nat := (enter.filter fun e => decide (e ≤ t)).length
def bandEnter : List Int := [181, 261, 301, 341, 381]
def derateEnter : List Int := [341, 381, 421]
/-- 'Left at or below' is 2.0 °C under the threshold. -/
def leaveAt (enter : List Int) : List Int := enter.map (· - 8)
/-- A cooler state at a sample: taken at or below the present state's lower threshold, not before 1 ms in it. -/
def coolTo (enter : List Int) (cur at_ ns : Nat) (t : Int) : Nat :=
  match cur with
  | 0 => 0
  | k + 1 =>
    if t ≤ ((leaveAt enter)[k]?).getD 0 ∧ at_ + 1000000 ≤ ns then (((leaveAt enter).take k).filter fun e => decide (e < t)).length
    else cur
/-- Event 0x0030 to each partition with channels on a stack (R160). -/
def stackEvents (m : Mach) (k : Nat) : Mach :=
  m.sys.parts.foldl (fun m e =>
    let c := 8 * ((panelsOf e.2.mask).filter fun p => p / 4 == k).length
    if e.2.used ∧ c ≠ 0 then
      postEvent m 0x30 e.1 0 0xFF ([BitVec.ofNat 8 k, 0, 0, 0] ++ leBytes (65536 * derateQ (m.stack k).dr * c / (4 * 32)) 4)
    else m) m
def setStack (m : Mach) (k : Nat) (x : Stack) : Mach :=
  m.onSys fun s => { s with hbmStacks := SMap.set (fun _ => {}) s.hbmStacks k x }
/-- A stack takes a derate state; each partition on it is told. -/
def stackTo (m : Mach) (k dr : Nat) : Mach :=
  let x := m.stack k
  if dr = x.dr then m else stackEvents (setStack m k { x with dr := dr, at_ := m.sys.ns }) k
def panelTo (m : Mach) (p band : Nat) : Mach :=
  if band = (m.panel p).band then m else m.modPanel p fun x => { x with band := band, bandAt := m.sys.ns }
/-- Cooler states, at a sample. -/
def coolAll (m : Mach) : Mach :=
  let m := (List.range 32).foldl (fun m p =>
    let x := m.panel p
    panelTo m p (coolTo bandEnter x.band x.bandAt m.sys.ns x.temp)) m
  (List.range 8).foldl (fun m k =>
    let x := m.stack k
    stackTo m k (coolTo derateEnter x.dr x.at_ m.sys.ns x.temp)) m
/-- Hotter states, at the first lifetime tick after the sample. -/
def heatAll (m : Mach) : Mach :=
  let m := (List.range 32).foldl (fun m p =>
    let x := m.panel p
    panelTo m p (max x.band (stateAt bandEnter x.temp))) m
  (List.range 8).foldl (fun m k =>
    let x := m.stack k
    stackTo m k (max x.dr (stateAt derateEnter x.temp))) m

/-! ### Caps and grants (R148-R153) -/

/-- TCAP (Table 6-7). -/
def capEnter : List Int := [361, 393, 421]
def tcapAt (cur : Nat) (t : Int) : Nat :=
  (List.range 3).foldl (fun c k =>
    if ((capEnter[k]?).getD 0) ≤ t ∨ (k < cur ∧ ((leaveAt capEnter)[k]?).getD 0 < t) then k + 1 else c) 0
def eachDie (m : Mach) (f : Nat → Die → Die) : Mach := (List.range 8).foldl (fun m d => m.setDie d (f d (m.die d))) m
/-- Above 2,300 W: every die faster than G3 one level slower than its grant, whatever a mean rule has just made of its cap (log 81). -/
def rule2300 (m : Mach) (watts : Nat) : Mach :=
  if 2300 < watts then eachDie m fun _ d => if d.grant < 3 then { d with pcap := d.grant + 1 } else d else m
/-- The first die for which no other is better. -/
def pickDie (ds : List Nat) (better : Nat → Nat → Bool) : Option Nat :=
  ds.foldl (fun b d => match b with
    | none => some d
    | some x => if better d x then some d else some x) none
/-- The mean rules, over 1,000 samples. -/
def meanRules (m : Mach) : Mach :=
  if m.sys.meanHold ≠ 0 then m.onSys fun s => { s with meanHold := s.meanHold - 1 }
  else if m.sys.watts.length < 1000 then m
  else
    let sum := m.sys.watts.foldl (· + ·) 0
    let act := fun (d : Option Nat) (f : Nat → Nat) => match d with
      | some d => (m.setDie d { m.die d with pcap := f (m.die d).pcap }).onSys fun s => { s with meanHold := 99 }
      | none => m
    if 1900000 < sum then
      act (pickDie ((List.range 8).filter fun d => (m.die d).grant < 3) fun a b => decide (dieTemp m b < dieTemp m a)) fun c => min 3 (c + 1)
    else if sum ≤ 1800000 then
      act (pickDie ((List.range 8).filter fun d => (m.die d).pcap != 0) fun a b => decide (dieTemp m a < dieTemp m b)) fun c => c - 1
    else m
/-- The grant of a die at a sample: the slowest of the four limits, kept for 1 ms but for the exceptions of R150. -/
def grantDie (m : Mach) (hot : Bool) (k : Nat) : Mach :=
  let d := m.die k
  let rs := if d.reduced then 3 else 0
  let want := max (max rs (bits m.sys.pwcap (8 * k + 1) (8 * k))) (max d.tcap d.pcap)
  let now := max rs (max (if d.tcap = 3 then 3 else 0) (if hot then d.pcap else 0))
  let held := match d.since with
    | some t => decide (m.sys.ns < t + 1000000)
    | none => false
  let new := if !held then want else if d.grant < now then now else d.grant
  if new = d.grant then m
  else m.setDie k { d with pend := some new, since := some m.sys.ns, c0 := m.dieClock k, c0At := m.sys.ns }

/-- SENSOR_SAMPLE: `ts` are the readings of the panels' sensors, one or four for each panel; `ss` those of the eight stacks, then of
the two I/O dies (R31). -/
def sensorSample (m : Mach) (ts ss : List Int) (watts : Nat) : Mach :=
  let m := (List.range 32).foldl (fun m p => m.modPanel p fun x =>
    { x with sensors := if ts.length ≤ 32 then [(ts[p]?).getD x.temp] else
        (List.range 4).map fun k => (ts[4 * p + k]?).getD ((x.sensors[k]?).getD x.temp) }) m
  let m := (List.range 8).foldl (fun m k => setStack m k { m.stack k with temp := (ss[k]?).getD (m.stack k).temp }) m
  let m := m.onSys fun s => { s with
    ioTemp := (List.range 2).map fun k => (ss[8 + k]?).getD ((s.ioTemp[k]?).getD 0),
    watts := (s.watts ++ [watts]).drop (s.watts.length + 1 - 1000) }
  if (List.range 8).any fun d => decide (460 < dieTemp m d) then
    (m.onSys fun s => { s with boot := { s.boot with trip := true } }).send ⟨6, 0, 0, []⟩
  else
    let m := coolAll m
    let m := eachDie m fun k d => { d with tcap := tcapAt d.tcap (dieTemp m k) }
    let m := rule2300 (meanRules m) watts
    (List.range 8).foldl (fun m k => grantDie m (decide (2300 < watts)) k) m
/-- CLOCK_RESTART: GLVL and PWGNT take the new level. -/
def clockRestart (m : Mach) (k : Nat) : Mach :=
  let d := m.die k
  match d.pend with
  | some l => m.setDie k { d with lvl := l, pend := none, c0At := m.sys.ns }
  | none => m

/-- SENSOR_SAMPLE (R31). -/
def execSensorSample (st : State) : Res := runEvent (fun x m => sensorSample m x.ints x.ints2 x.a) st
/-- CLOCK_RESTART (R149). -/
def execClockRestart (st : State) : Res := runEvent (fun x m => clockRestart m x.a) st

end Sys2Proof.Machine
end

