-- ==== Sys2Proof/Machine/Boot.lean ====
section
/-!
DEFINITION. Bring-up and trust (02 R33-R45): the checks of a monitor image, cold and warm start, the start-up steps of a
die and its calibration, identity and attestation; links that train in part (01 R17, R22). What ML-DSA-44
computes are opaque functions (log 7).
-/
namespace Sys2Proof.Machine

def Mach.boot (m : Mach) : Boot := m.sys.boot
def Mach.setBoot (m : Mach) (b : Boot) : Mach := m.onSys fun s => { s with boot := b }

/-- Exactly `n` bytes. -/
def fixLen (n : Nat) (bs : List Byte) : List Byte := (bs ++ List.replicate (n - bs.length) 0).take n
/-- A fused string: `n` words from an index. -/
def fusedBytes (i n : Nat) : List Byte := (List.range n).flatMap fun k => leBytes (Config.fused (i + k)).toNat 8
/-- KEYHASH, and the seed of the identity key (R33, R43). -/
def keyHash : List Byte := fusedBytes 2 4
def idSeed : List Byte := fusedBytes 8 4

/-! ### The monitor image (R33) -/

def imgLen (b : List Byte) : Nat := leAt b 12 4
/-- SHA3-256 of bytes 0-1327 followed by the body. -/
def imgDigest (b : List Byte) : List Byte := sha3 (b.take 1328 ++ (b.drop 4096).take (imgLen b))
/-- FAIL of BSTAT (Table 2-2) for an image; 0 when every check holds. -/
def imgCheck (m : Mach) (b : List Byte) : Nat :=
  if leAt b 0 4 ≠ 0x4E4D5342 ∨ leAt b 4 2 ≠ 1 then 1
  else if imgLen b % 64 ≠ 0 ∨ 2 ^ 20 < imgLen b ∨ !((List.range 348).all fun i => byteAt b (3748 + i) == 0) then 2
  else if fixLen 32 (sha3 ((b.drop 16).take 1312)) ≠ keyHash then 3
  else if imgSvn b < minSvn m then 4
  else if !Config.mldsaVerify ((b.drop 16).take 1312) (imgDigest b) ((b.drop 1328).take 2420) then 5
  else 0
/-- The image in the boot flash. -/
def Boot.image (b : Boot) : List Byte := b.flash.getD Config.factoryImage
/-- The boot ROM checks the flash: PHASE 2 with the image's SVN, or PHASE 1 and FAIL. Whether the flash can be read is a
free value. -/
def bootFlash (m : Mach) (phase : Nat) : Mach :=
  let bad := Config.freeValue m.free == 1
  let m := { m with free := m.free + 1 }
  let b := m.boot
  let f := if bad then 6 else imgCheck m b.image
  if f = 0 then (m.setBoot { b with phase := phase, fail := 0 }).onSys fun s => { s with svn := some (imgSvn b.image) }
  else (m.setBoot { b with phase := 1, fail := f }).onSys fun s => { s with vfCount := 0 }

/-! ### Starting (R36, R39, R45) -/

/-- A cold start: every piece of state as Table 2-5 gives it; what is fused, the boot flash and the host's memory stay. -/
def coldStart (m : Mach) : Mach :=
  let s := m.sys
  let panels : SMap Panel := (s.panels.map fun e => (e.1, { psmap := e.2.psmap })).filter fun e => e.2 != {}
  let sys : Sys :=
    { minsvn := s.minsvn, host := s.host, out := s.out, boot := { flash := s.boot.flash, phase := 0, ports := s.boot.ports }, panels := panels }
  let m : Mach := { sys := { sys with dies := (List.range 8).map fun d => (d, { wait := true }) }, free := m.free }
  bootFlash m 2

/-- Whether a partition stays through a warm start. -/
def preserved (m : Mach) (part : Nat) : Bool := (m.partn part).used && (m.partn part).presv
/-- Whether the calibrated point of a die still serves: within 5 °C of its hottest panel. -/
def calServes (m : Mach) (d : Nat) : Bool :=
  let x := m.die d
  x.cal && decide (dieTemp m d ≤ x.calAt + 20) && decide (x.calAt - 20 ≤ dieTemp m d)
/-- TEMPTAB registers of the dies whose calibration serves. -/
def keptTables (m : Mach) : SMap Core :=
  ((List.range 8).filter (calServes m)).filterMap fun d =>
    let l := (m.agent (ccOf (4 * d))).rf.csr.filter fun e => decide (0x880 ≤ e.1) && decide (e.1 ≤ 0x884)
    if l = [] ∨ d = 0 then none else some (ccOf (4 * d), { rf := { csr := l } })
/-- Panels at a warm start: semaphores, without task waiters, of preserved partitions; error logs
stay; PTEMP takes its reset values until the next sample (Table 2-5, R45). -/
def warmPanel (m : Mach) (x : Panel) : Panel :=
  let keep := match x.part with
    | some p => preserved m p
    | none => false
  { part := if keep then x.part else none, psmap := x.psmap, log := x.log, bandAt := m.sys.ns,
    wdAt := m.sys.ns + 1000000,
    sems := if keep then x.sems.map fun e => (e.1, { e.2 with waiters := e.2.waiters.filter fun w => decide (2048 ≤ w.who) }) else [] }
/-- A warm start: partitions marked preserve keep what Table 2-5 says. -/
def warmStart (m : Mach) : Mach :=
  let s := m.sys
  let keepV := fun (v : Nat) => (m.vf v).live && preserved m (m.vf v).part
  let keepQ := fun (k : Nat) (q : Queue) => if k / 16 = 0 then preserved m q.part else keepV (k / 16)
  let cc0 := if calServes m 0 then temptabOf (m.agent 1152) else []
  let hbm := s.parts.foldl (fun h e => if preserved m e.1 then h else h.zero (monArea e.2.lead) (2 ^ 28)) s.hbm
  let sys : Sys :=
    { ns := s.ns, ticks := s.ticks, minsvn := s.minsvn, hbmStacks := s.hbmStacks, hbm := hbm, hbmErr := s.hbmErr,
      hbmUe := s.hbmUe, hbmMark := s.hbmMark, host := s.host, out := s.out, seq := s.seq, mrecs := s.mrecs,
      vfCount := s.vfCount,
      keys := s.keys.filter (fun e => keepV (e.1 + 1)), encKeys := s.encKeys.filter (fun e => keepV (e.1 + 1)),
      panels := s.panels.map (fun e => (e.1, warmPanel m e.2)),
      dies := (List.range 8).map (fun d => (d, { wait := true, cal := calServes m d, calAt := (m.die d).calAt, fail := (m.die d).fail, c0 := m.dieClock d, c0At := s.ns })),
      parts := (s.parts.filter (fun e => preserved m e.1)).map (fun e => (e.1, { e.2 with slice := none, reloc := [], ptrs := [], ptroot := 0 })),
      vfs := (s.vfs.filter (fun e => keepV e.1)).map (fun e =>
        (e.1, { e.2 with saves := [], spill := e.2.spill.filter (fun x => e.2.crashed.contains x.1), hbidx := 0, hbbase := 0, hblen := 0, hbctl := 0, mig := if e.2.mig = 2 then 1 else e.2.mig })),
      queues := (s.queues.filter (fun e => e.2.st != 0 && keepQ e.1 e.2)).map (fun e => (e.1, { e.2 with st := 2 })),
      copies := (s.copies.filter (fun e => e.2.dir != 2 && keepQ e.2.q (m.queue e.2.q))).map
        (fun e => (e.1, if e.2.req == 3 then { e.2 with req := 1 } else e.2)),
      runs := s.runs.filter (fun e => keepV e.2.vf),
      launches := s.launches.filter (fun e => keepV e.2.vf && decide (e.2.st < 2)),
      wqs := s.wqs.filter (fun e => preserved m (wqPart e.1)),
      boot := { flash := s.boot.flash, phase := 3, warm := true, last := true, res := 1, ports := s.boot.ports } }
  let m : Mach :=
    { core := { rf := { csr := cc0 } },
      rest := keptTables m, sys := sys, free := m.free }
  -- images are discarded: overflow slots that held one give their regions back (R167)
  let m := (s.vfs.filter fun e => keepV e.1).foldl (fun m e => (e.2.spill.filter fun x => !e.2.crashed.contains x.1).foldl
    (fun m x => x.2.foldl (fun m r => m.setRegion e.2.part r RegionE.unalloc) m) m) m
  let m := (m.sys.copies.filter fun e => e.2.req == 2).foldl (fun m e => startCopy (m.setCopy e.1 { e.2 with req := 0 }) e.1) m
  bootFlash m 3

/-- WSREQ: a request is noted when none is outstanding, in whatever PHASE. -/
def wsreq (m : Mach) : Mach :=
  if m.boot.res ≠ 3 then m.setBoot { m.boot with res := 3 } else m
/-- The monitor's answer: refused while a partition marked preserve has an admitted launch. -/
def warmDecision (m : Mach) : Mach :=
  if m.boot.res ≠ 3 then m
  else if m.sys.launches.any fun e => e.2.st == 2 && preserved m e.2.part then m.setBoot { m.boot with res := 2 }
  else warmStart m

/-- BSTAT.GO: the image in the recovery window is checked; a good one is written to the flash and booted. -/
def bstatGo (m : Mach) : Mach :=
  let b := m.boot
  if b.phase ≠ 1 then m
  else
    let w := b.window.readList 0 (2 ^ 20)
    match imgCheck m w with
    | 0 =>
      (m.setBoot { b with phase := if b.last then 3 else 2, fail := 0, flash := some (w.take (4096 + imgLen w)), window := [] }).onSys
        fun s => { s with svn := some (imgSvn w) }
    | f => m.setBoot { b with fail := f }

/-- What BSTAT and WSREQ read (Tables 2-2, 2-7). -/
def bstat (m : Mach) : Dword :=
  let of := fun (f : Die → Bool) => (List.range 8).foldl (fun n d => n + if f (m.die d) then 2 ^ d else 0) 0
  dw (minSvn m * 2 ^ 32 + of (fun d => d.cal) * 2 ^ 16 + of (fun d => d.rdy) * 2 ^ 8 + m.boot.fail * 16 + m.boot.phase * 4 +
    (if m.boot.warm then 1 else 0))
def wsreqRead (m : Mach) : Dword := dw m.boot.res

/-! ### A die comes up (R37, R40-R42) -/

/-- DIE_READY: a die has done its start-up steps; a warm start is over when the last die has. -/
def dieReady (m : Mach) (d : Nat) (pass : Bool) : Mach :=
  if 8 ≤ d then m
  else
    let m := m.setDie d { m.die d with wait := false, rdy := pass }
    if m.boot.phase = 3 ∧ (List.range 8).all fun k => !(m.die k).wait then m.setBoot { m.boot with phase := 2 } else m
/-- Ages of the valid groups of an agent's arrays start again. -/
def youngCore (c : Core) : Core :=
  let f := fun (g : Group) => if g.v then { g with age := 0, q := false, due := false } else g
  c.modMem fun x => { x with ag := x.ag.map fun e => (e.1, f e.2), wg := x.wg.map fun e => (e.1, f e.2) }
/-- CALIBRATION_COMPLETE: TEMPTAB written (never under the floor, never over 2 ms), FMASK restored, DIECAL set, ages reset,
event 0x0011. -/
def calibrated (m : Mach) (d : Nat) (lims : List Dword) : Mach :=
  if 8 ≤ d ∨ !(m.die d).rdy ∨ (m.die d).cal then m
  else
    let m := (List.range 5).foldl (fun m n => m.setCcCsr (4 * d) (0x880 + n) (ttClamp n ((lims[n]?).getD 0))) m
    let m := m.setDie d { m.die d with cal := true, calAt := dieTemp m d }
    let on := fun (a : Nat) => isTileAgent a && dieOf a == d
    let m := { m with core := if on m.me then youngCore m.core else m.core,
                      rest := m.rest.map fun e => if on e.1 then (e.1, youngCore e.2) else e }
    postEvent m 0x11 0xFF 0 0xFF [BitVec.ofNat 8 d]

/-! ### Links -/

/-- The fourteen die-to-die links (R17); IO0 is 8 and IO1 is 9. -/
def ucieLinks : List (Nat × Nat) :=
  [(0, 1), (1, 2), (2, 3), (4, 5), (5, 6), (6, 7), (0, 4), (1, 5), (2, 6), (3, 7), (8, 0), (8, 4), (9, 3), (9, 7)]
/-- A link that cannot be repaired at training: both dies in reduced service, at G3 from the next sample on (R148). -/
def linkFailed (m : Mach) (a b : Nat) : Mach :=
  if ucieLinks.contains (a, b) ∨ ucieLinks.contains (b, a) then
    [a, b].foldl (fun m d => if d < 8 then m.setDie d { m.die d with fail := true } else m) m
  else m
/-- The lanes a UALink port runs at, which the monitor is told (R22). -/
def Mach.portWidth (m : Mach) (port : Nat) : Nat := SMap.get (fun _ => 4) m.boot.ports port
/-- A UALink port with a failed lane trains at ×2, at every later start too, and reports it to the monitor: an entry of kind 7. -/
def laneFailed (m : Mach) (port : Nat) : Mach :=
  if port < 4 then
    (m.setBoot { m.boot with ports := SMap.set (fun _ => 4) m.boot.ports port 2 }).send ⟨7, port, 2, []⟩
  else m

/-! ### Identity and attestation (R43, R44) -/

def idPub : List Byte := fixLen 1312 (Config.derive idSeed [0])
/-- What CFGDIG digests: partitions by panel mask, VFs by their registers, the key slots in use. -/
def assignment (m : Mach) : List Nat :=
  (m.sys.parts.flatMap fun e => [e.1, e.2.mask]) ++
    (m.sys.vfs.flatMap fun e => [e.1, e.2.vqa.toNat, e.2.vqb.toNat, e.2.vqc.toNat, e.2.vqd.toNat]) ++ m.sys.keys.map Prod.fst
/-- The attestation report (Table 2-4). The nonce of a malformed request has no stated echo: free values. -/
def attestReport (m : Mach) (nonce : List Byte) : List Byte :=
  let ok := nonce.length == 32
  let of := fun (f : Die → Bool) => (List.range 8).foldl (fun n d => n + if f (m.die d) then 2 ^ d else 0) 0
  let flags := (if (List.range 8).any fun d => (m.die d).reduced then 1 else 0) + (if m.boot.last then 2 else 0) + (if ok then 0 else 128)
  let body := leBytes 0x4C10 2 ++ [1, BitVec.ofNat 8 flags] ++ leBytes (runSvn m) 4 ++
    (if ok then nonce else (List.range 32).map fun i => (Config.freeValue (m.free + i)).setWidth 8) ++
    fixLen 32 (imgDigest m.boot.image) ++ fixLen 32 (sha3 (Config.assignment (assignment m))) ++
    leBytes (of fun d => d.rdy) 1 ++ leBytes (of fun d => d.cal) 1 ++
    ((List.range 8).map fun d => (Config.fused (48 + d)).setWidth 8) ++ leBytes 0 14 ++ idPub
  body ++ (if ok then fixLen 2420 (Config.mldsaSign idSeed (sha3 body)) else List.replicate 2420 0)
def attest (m : Mach) (nonce : List Byte) : Mach :=
  let r := m.send ⟨2, 1, 0, attestReport m nonce⟩
  if nonce.length = 32 then r else { r with free := r.free + 32 }
def certificate (m : Mach) : Mach := m.send ⟨2, 2, 0, Config.certificate⟩

/-- COLD_START (R36). -/
def execColdStart (st : State) : Res := .next { st with m := coldStart st.m, bundle := none, turns := [] }
/-- BSTAT_GO (R35). -/
def execBstatGo (st : State) : Res := runEvent (fun _ m => bstatGo m) st
/-- WSREQ_GO (R39). -/
def execWsreqGo (st : State) : Res := runEvent (fun _ m => wsreq m) st
/-- WARM_START_DECISION (R39). -/
def execWarmStartDecision (st : State) : Res := .next { st with m := warmDecision st.m, bundle := none }
/-- DIE_READY (R37). -/
def execDieReady (st : State) : Res := runEvent (fun x m => dieReady m x.a (x.b != 0)) st
/-- CALIBRATION_COMPLETE (R42). -/
def execCalibrationComplete (st : State) : Res := runEvent (fun x m => calibrated m x.a x.dwords) st
/-- ATTESTATION_REQUEST (R44). -/
def execAttestationRequest (st : State) : Res := runEvent (fun x m => attest m x.bytes) st
/-- CERTIFICATE_REQUEST (R44). -/
def execCertificateRequest (st : State) : Res := runEvent (fun _ m => certificate m) st
/-- UCIE_LINK_FAILURE (R17). -/
def execUcieLinkFailure (st : State) : Res := runEvent (fun x m => linkFailed m x.a x.b) st
/-- UALINK_LANE_FAILURE (R22). -/
def execUalinkLaneFailure (st : State) : Res := runEvent (fun x m => laneFailed m x.a) st

end Sys2Proof.Machine
end

