-- ==== Sys2Proof/Machine/MemWords.lean ====
section
/-!
DEFINITION. Engine L (15_memory_instructions): loads and stores, rows, atomic operations, region ownership,
semaphores and prefetch, on tiles and on command cores.
-/
namespace Sys2Proof.Machine

/-! ### Where an access goes, after the checks of Table 15-3 -/

inductive Reach where
  /-- S of the tile. -/
  | sOff (off : Nat)
  /-- A of the tile. -/
  | aOff (off : Nat)
  /-- the memory of the command core -/
  | core (off : Nat)
  /-- HBM, in physical pieces -/
  | phys (ps : List (Nat × Nat))
  /-- global memory of a tile's word, not yet: a mapping is missing, its stack takes no requests, or an earlier access waits so -/
  | later
  deriving DecidableEq, Repr

/-- A check of Table 15-3: a speculative load that fails gives none, another word traps with TVAL EA. -/
def checkEA (ok spec : Bool) (code : Nat) (ea : Dword) (k : Exec (Option Reach)) : Exec (Option Reach) :=
  if ok then k else if spec then pure none else raise code ea

/-- The race check of S for a word (R215): precise, TVAL the granule. -/
def checkRace (spec : Bool) (off n : Nat) (k : Exec (Option Reach)) : Exec (Option Reach) := do
  let m ← getM
  let old ← getOld
  match raceAtIf old.core.raceOn m.core 1 off n with
  | none => k
  | some g => if spec then pure none else raise 0x09 (granuleAddr g)

/-- Global memory, by translation and rights (R246). Where the walk fails the word issues, its access stays to be carried out and the
gang freezes once the bundle has issued (R178, R179); a stack in DR3 keeps the access waiting, without error (R159). A speculative
load that fails fills no TLB entry (R360). -/
def reachGlobal (ea : Dword) (n acc : Nat) (use : Use) (spec : Bool) : Exec (Option Reach) := do
  let m ← getM
  let old ← getOld
  match translateWord old m (offOf ea) n acc with
  | (.error (v, w), _) =>
    if spec then pure none
    else do
      modB fun b => { b with fault := some (v, acc, w) }
      pure (some .later)
  | (.ok ps, m') => do
    let ok ← granted use ps
    checkEA ok spec 0x05 ea (do
      modM fun _ => m'
      pure (some (if m.stalled ps || m.core.hasTodo then .later else .phys ps)))

/-- Steps 1 to 6 of Table 15-3 on a tile, for `n` bytes at EA with the given alignment; rows may also lie in A. -/
def reachTile (ea : SReg) (n align acc : Nat) (use : Use) (spec row : Bool) : Exec (Option Reach) :=
  let t := tagOfAddr ea.v
  checkEA (!ea.p) spec 0x04 ea.v
    (checkEA ((t == tagS || (row && t == tagA) || t == 0) && inSpace ea.v n) spec 0x0B ea.v
      (checkEA (ea.v.toNat % align == 0) spec 0x0B ea.v
        (if t = tagS then checkRace spec (offOf ea.v) n (pure (some (.sOff (offOf ea.v))))
         else if t = tagA then pure (some (.aOff (offOf ea.v)))
         else reachGlobal ea.v n acc use spec)))

/-- The window onto the monitor area (R243). -/
def inWindow (ea : Dword) : Bool := tagOfAddr ea == 0 && bits ea 59 49 == 0x7FF && bits ea 48 28 == 0

/-- The same on a command core (R105, R107, R243, R376). -/
def reachCC (ea : SReg) (n align acc : Nat) (spec : Bool) : Exec (Option Reach) := do
  let m ← getM
  let t := tagOfAddr ea.v
  let lvl := m.level
  let win := inWindow ea.v && decide (0 < lvl)
  let off := offOf ea.v
  checkEA (!ea.p) spec 0x04 ea.v
    (checkEA ((t == 8 && decide (off + n ≤ 0x40000)) || (t == 0 && (win || decide (off + n ≤ 2 ^ 49)))) spec 0x0B ea.v
      (checkEA (ea.v.toNat % align == 0) spec 0x0B ea.v
        (checkEA (lvl != 0 || pmpAllows m t off n (if acc = accRead then 0 else 1)) spec 0x0E ea.v
          (if t = 8 then checkEA (lvl != 1 || decide (off + n ≤ 0x30000)) spec 0x0E ea.v (pure (some (.core off)))
           else if win then
             match m.partOf m.me with
             | some p =>
               let ps := [(m.maBase p + bits ea.v 27 0, n)]
               if m.stalled ps then hold 0 else pure (some (.phys ps))
             | none => checkEA false spec 0x0B ea.v (pure none)
           else do
             match ← xlate off n acc spec ea.v with
             | none => pure none
             | some ps => pure (some (.phys ps))))))

def reach (ea : SReg) (n align acc : Nat) (use : Use) (spec row : Bool) : Exec (Option Reach) := do
  let m ← getM
  if m.isTile then reachTile ea n align acc use spec row else reachCC ea n align acc spec

/-! ### Results that come later (R193, R363) -/

/-- Whether a port of a context has no room for a further result: items in its queue and results on their way to it (R202). -/
def portFull (c : Core) (scalar : Bool) (port n : Nat) : Bool :=
  let k := if scalar then 3 else 2
  decide (hqDepth n ≤ (c.hq n).items.length + (c.ctl.resp.filter fun r => r.kind == k && r.dst == port).length)
/-- A port that a result will be pushed through: bound for pushing, and with room (R202, R336). -/
def portReady (scalar : Bool) (port : Nat) : Exec Unit := do
  let m ← getM
  match m.core.portQueue scalar port with
  | none => raiseWord 0x07
  | some n =>
    if (m.hq n).prod ≠ 8 then raiseWord 0x07
    else if portFull m.core scalar port n then noRoom n
    else pure ()

/-- Where the result of a global access goes, as `Resp` names it: scalar `d`, a scalar port, or nowhere for s0. -/
def destS (d : Nat) : Exec (Nat × Nat) := do
  if 60 ≤ d then do
    portReady true (d - 60)
    pure (3, d - 60)
  else if d = 0 then pure (4, 0)
  else do
    settle 0 d (rdyS d)
    pure (0, d)
/-- The same for a vector name. -/
def destV (i : Nat) : Exec (Nat × Nat) := do
  let m ← getOld
  if 60 ≤ i then do
    portReady false (i - 60)
    pure (2, i - 60)
  else if m.core.eng.mq.any fun o => o.touches (m.rowOf i) then hold 0
  else do
    settle 1 (m.rowOf i) (rdyRow (m.rowOf i))
    pure (1, m.rowOf i)
/-- A result, or an access still to be carried out, on its way to a destination. -/
def onWay (dst : Nat × Nat) (x : RowP) (todo : Option Todo) : Exec Unit :=
  if dst.1 = 4 ∧ todo = none then pure ()
  else modM fun m => m.modCtl fun c => { c with resp := c.resp ++ [⟨dst.1, dst.2, x, todo⟩] }

/-- Send the result of a global access on its way to scalar `d` of a tile; a command core has it at once. -/
def laterS (d : Nat) (x : SReg) : Exec Unit := do
  let m ← getOld
  if !m.isTile then wrS d x 1
  else do
    let dst ← destS d
    onWay dst ⟨x.v.setWidth 2048, x.p⟩ none
/-- The same for a row name. -/
def laterV (i : Nat) (x : RowP) : Exec Unit := do
  let dst ← destV i
  onWay dst x none

/-! ### Scalar loads and stores (R362) -/

/-- Latency of a scalar load from S (Table 8-5). -/
def latS : Nat := 4

def loadWord (d a : Nat) (spec : Bool) (off size : Nat) (signed : Bool) : Exec Unit :=
  orLate (do
    let b ← rdS a
    let ea ← effAddr b 5 off size
    let t : Todo := { op := 0, ea := ea.v, n := size, fn := if signed then 1 else 0, spec := spec }
    match ← reach ea size size accRead .read spec false with
    | none => wrS d ⟨0, true⟩ latS
    | some (.sOff o) => do
      let m ← getM
      let r := readS m m.me o size
      if r.1.ue && !spec then stop (.trapUpd 0x04 ea.v fun m => (readS m m.me o size).2)
      else do
        modM fun _ => r.2
        wrS d ⟨loadedValue size signed r.1.bytes, r.1.ue⟩ latS
    | some (.aOff _) => wrS d ⟨0, true⟩ latS
    | some (.core o) => do
      let m ← getM
      if errIn m.core 9 o size ≥ 2 then stop (.restart o size)
      else do
        modM fun m => noteRead m m.me 9 o size
        wrS d ⟨loadedValue size signed (m.core.mem.sm.readList o size), false⟩ 1
    | some (.phys ps) => do
      let r ← act t ps
      laterS d ⟨r.v.setWidth 64, r.p⟩
    | some .later => do
      let dst ← destS d
      onWay dst {} (some t)) (lateS d latS)

/-- Store bytes at EA, where the access reaches; a word of the task is writer class 1 of S. The class a row group takes and whether
races are recorded are as the bundle found them (R318). -/
def putBytes (ea : Dword) (w : Reach) (bs : List Byte) : Exec Unit := do
  let old ← getOld
  let t : Todo := { op := 1, ea := ea, n := bs.length, data := bs }
  let l := old.csr 0x018
  match w with
  | .sOff o => modM fun m => writeSIf old.core.raceOn m m.me 1 o bs
  | .aOff o => modM fun m => writeBuf m m.me false o bs (bits l 1 0) (bit l 2)
  | .core o => modM fun m =>
      noteWrite (m.modMem fun x => { x with sm := x.sm.writeList o bs }) m.me 9 o bs.length
  | .phys ps => do
      let _ ← act t ps
      pure ()
  | .later => onWay (4, 0) {} (some t)

def storeWord (sr a off size : Nat) : Exec Unit :=
  orLate (do
    let b ← rdS a
    let x ← rdS sr
    let ea ← effAddr b 6 off size
    match ← reach ⟨ea.v, ea.p || x.p⟩ size size accWrite .write false false with
    | none => pure ()
    | some w => putBytes ea.v w (leBytes x.v.toNat size)) lateTrap

/-! ### Rows (R364) -/

/-- Latencies of LDV (Table 8-5). -/
def latRowS : Nat := 6
def latRowA : Nat := 4

/-- The lowest byte of a range of A or W that lies in an invalid group (R231). -/
def invalidAt (c : Core) (w : Bool) (off n : Nat) : Option Nat :=
  ((groupsOf off n).find? fun k => !(c.group w k).v).map fun k => max off (4096 * k)

/-- LDV. Validity is checked before anything is read (R359 step 7, R360); an uncorrectable error then makes its row group invalid and
the read goes on as from such a group (Table 9-9, R238). -/
def loadRow (d a : Nat) (spec : Bool) (off : Nat) : Exec Unit :=
  orLate (do
    let b ← rdS a
    let ea ← effAddr b 5 off 256
    let t : Todo := { op := 0, ea := ea.v, n := 256, spec := spec }
    match ← reach ea 256 32 accRead .read spec true with
    | none => wrV d ⟨0, true⟩ latRowA
    | some (.sOff o) => do
      let m ← getM
      let r := readS m m.me o 256
      modM fun _ => r.2
      wrV d ⟨rowOfBytes r.1.bytes, r.1.ue⟩ latRowS
    | some (.aOff o) => do
      let m ← getM
      let no := fun (x : Nat) (upd : Mach → Mach) =>
        if spec then do
          modM upd
          wrV d ⟨0, true⟩ latRowA
        else stop (.trapUpd 0x06 (dw (tagA * 2 ^ 60 + x)) upd)
      match invalidAt m.core false o 256 with
      | some x => no x id
      | none =>
        let r := readBuf m m.me false o 256
        match r.1.inval with
        | some x => no x fun m => (readBuf m m.me false o 256).2
        | none => do
          modM fun _ => r.2
          wrV d ⟨rowOfBytes r.1.bytes, false⟩ latRowA
    | some (.core _) => pure ()
    | some (.phys ps) => do
      let r ← act t ps
      laterV d r
    | some .later => do
      let dst ← destV d
      onWay dst {} (some t)) (lateV d latRowA)

/-- A write into a row group whose clear is pending waits for it (R228). -/
def needClear (off n : Nat) : Exec Unit := do
  let m ← getM
  if (groupsOf off n).any fun k => (m.core.group false k).clr then hold 0 else pure ()

def storeRow (v a off : Nat) : Exec Unit :=
  orLate (do
    let b ← rdS a
    let x ← rdV v
    let ea ← effAddr b 6 off 256
    match ← reach ⟨ea.v, ea.p || x.p⟩ 256 32 accWrite .write false true with
    | none => pure ()
    | some (.aOff o) => do
      needClear o 256
      putBytes ea.v (.aOff o) (rowBytes x.v)
    | some w => putBytes ea.v w (rowBytes x.v)) lateTrap

/-! ### Atomic operations (R365-R367) -/

/-- Whether a copy command has an access to global memory or to another package's. -/
def CCmd.global (x : CCmd) : Bool :=
  (!bit x.ctl 37 && decide (tagOfAddr x.src ≤ 1)) || (x.op == 0 && !bit x.ctl 36 && tagOfAddr x.dst == 0)
/-- Whether the task's earlier accesses of global memory are performed (R255, R262): no copy that makes one is left, no spill or fill
there, and no access of its words. -/
def Core.globalQuiet (c : Core) : Bool :=
  (c.eng.ch.all fun e => !(e.2.cmds.any CCmd.global)) &&
    !(c.eng.mq.any fun o => (o.kind == 4 || o.kind == 5) && tagOfAddr o.addr == 0) && !c.hasTodo

/-- A release holds issue until every earlier access is performed (R367). -/
def needQuiet : Exec Unit := do
  let m ← getM
  if m.core.globalQuiet then pure () else hold 0

/-- The steps shared by AMO and CAS; `t` says what is stored for the old value. -/
def atomicWord (d : Nat) (ea : SReg) (ord : Nat) (t : Todo) : Exec Unit := do
  let m ← getM
  let where_ ←
    if m.isTile then
      checkEA (!ea.p) false 0x04 ea.v
        (checkEA (tagOfAddr ea.v == 0 && inSpace ea.v 8) false 0x0B ea.v
          (checkEA (ea.v.toNat % 8 == 0) false 0x0B ea.v (reachGlobal ea.v 8 accAtomic .atomic false)))
    else reachCC ea 8 8 accAtomic false
  if Nat.testBit ord 1 then needQuiet else pure ()
  let waitOld : Exec Unit := modM fun m => m.modCtl fun c => { c with wait := .resp }
  match where_ with
  | some (.core o) => do
    let m ← getM
    if errIn m.core 9 o 8 ≥ 2 then stop (.restart o 8)
    else do
      modM fun m => noteRead m m.me 9 o 8
      let old := dw (m.core.mem.sm.readNat o 8)
      match t.next old with
      | some v => putBytes ea.v (.core o) (leBytes v.toNat 8)
      | none => pure ()
      wrS d ⟨old, false⟩ 1
  | some (.phys ps) => do
    let r ← act t ps
    laterS d ⟨r.v.setWidth 64, r.p⟩
    if Nat.testBit ord 0 ∧ m.isTile ∧ d ≠ 0 then waitOld else pure ()
  | some .later => do
    let dst ← destS d
    onWay dst {} (some t)
    if Nat.testBit ord 0 then waitOld else pure ()
  | _ => pure ()

def amoWord (d a f ord : Nat) : Exec Unit :=
  orLate (do
    let b ← rdS a
    let x ← rdS d
    atomicWord d ⟨b.v, b.p || x.p⟩ ord { op := 2, ea := b.v, n := 8, fn := f, x := x.v }) (lateS d 1)

def casWord (d a ord : Nat) : Exec Unit :=
  orLate (do
    let b ← rdS a
    let e ← rdS d
    let n ← rdS (d + 1)
    atomicWord d ⟨b.v, b.p || e.p || n.p⟩ ord { op := 3, ea := b.v, n := 8, x := e.v, y := n.v }) (lateS d 1)

/-! ### Region ownership (R368-R370) -/

def ownX : Nat := 0
def ownA : Nat := 1
def ownS : Nat := 2
def ownF : Nat := 3
def ownQ : Nat := 4

/-- An ownership word (R368): its checks, and the request its bundle makes once every word has passed; when the answer is there,
`done` writes it or the word traps. -/
def ownStep (op : Nat) (ea : SReg) (arg : Nat) (done : Dword → Exec Unit) : Exec Unit := do
  let m ← getM
  match m.core.ctl.own with
  | some r =>
    match r.reply with
    | none => hold 0
    | some (true, tval) => raise 0x05 tval
    | some (false, v) => do
      modM fun m => m.modCtl fun c => { c with own := none }
      done v
  | none => do
    need (!ea.p) 0x04 ea.v
    need (tagOfAddr ea.v == 0 && inSpace ea.v 1) 0x0B ea.v
    modB fun b => { b with own := some { op := op, ea := ea.v, arg := arg } }

/-- The request of the issuing task's ownership word leaves the tile (R255, R368, R369): a failed walk freezes the gang, or answers
OWNQ; a release waits until the task's earlier accesses are performed. -/
def sendOwn (m : Mach) : Mach :=
  match m.core.ctl.own with
  | some r =>
    if r.sent.isSome then m
    else
      match translate m m.me m.myPart 0 (offOf r.ea) accEither with
      | (.error w, _) =>
        if r.op = ownQ then m.modCtl fun c => { c with own := some { r with sent := some m.sys.seq, reply := some (false, 2 ^ 15) } }
        else tileFault m m.me 0 0 (offOf r.ea) w
      | (.ok pa, m') =>
        if r.op ≠ ownA ∧ r.op ≠ ownQ ∧ !m.core.globalQuiet then m
        else
          (m'.modCtl fun c => { c with own := some { r with sent := some m.sys.seq, reg := pa / regionSize } }).onSys
            fun s => { s with seq := s.seq + 1 }
  | none => m

def ownWord (op a arg : Nat) : Exec Unit :=
  orLate (do
    let b ← rdS a
    ownStep op b arg fun _ => pure ()) lateTrap

def ownxWord (a b : Nat) : Exec Unit :=
  orLate (do
    let x ← rdS a
    let u ← rdS b
    let m ← getM
    need (!x.p && !u.p) 0x04 x.v
    need (decide (u.v.toNat < bits (m.csr 0x032) 39 20)) 0x05 u.v
    ownStep ownX x u.v.toNat fun _ => pure ()) lateTrap

def ownqWord (d a : Nat) : Exec Unit :=
  orLate (do
    let b ← rdS a
    ownStep ownQ b 0 fun v => wrS d ⟨v, false⟩ 1) (lateS d 1)

/-- The state word of R370 for a task of VF `vf`. -/
def ownqValue (e : RegionE) (vf : Nat) (t : TaskId) : Nat :=
  if e.vfn ≠ vf ∨ e.st = 0 then 0
  else
    e.st + (if e.pin then 8 else 0) + e.hold * 2 ^ 8 + (if e.mine vf t then 2 ^ 10 else 0) +
      (if e.st = 5 ∧ e.hold = 0 ∧ e.lnch = keyInv t.launch ∧ e.task = t.task then 2 ^ 11 else 0) +
      (if e.lnch = keyInv t.launch ∧ (e.st = 2 ∨ (e.st = 5 ∧ e.hold = 0)) then e.task * 2 ^ 32 else 0)

/-- The change of a region at its home (Table 10-7): the new entry and the answer, or none for a trap. -/
def ownChange (op arg vf : Nat) (t : TaskId) (e : RegionE) : Option (RegionE × Nat) :=
  let mine := e.mine vf t
  let owned := { e with st := 2, hold := 0, task := t.task, lnch := keyInv t.launch }
  match op with
  | 0 => if mine then some ({ e with st := 5, hold := 0, task := arg }, 0) else none
  | 1 =>
    if e.st = 1 ∧ e.vfn = vf then some (owned, 0)
    else if mine then some (e, 0)
    else if e.st = 5 ∧ e.hold = 0 ∧ e.vfn = vf ∧ e.lnch = keyInv t.launch ∧ e.task = t.task then some (owned, 0)
    else none
  | 2 => if mine then some ({ e with st := if arg = 1 then 4 else 3, task := 0, lnch := 0 }, 0) else none
  | 3 =>
    if mine ∨ ((e.st = 3 ∨ e.st = 4) ∧ !e.pin ∧ e.vfn = vf) then some (e.free, 0) else none
  | _ => some (e, ownqValue e vf t)

/-! ### Semaphores (R371-R374) -/

/-- The semaphore a register names: through the VF's map on a tile (R371), directly on a command core (R374). -/
def semNamed (a : SReg) (b : SReg) : Exec (Nat × Nat) := do
  let m ← getM
  need (m.isTile || m.level != 0) 0x0E a.v
  needWord (!a.p && !b.p) 0x04
  if m.isTile then
    match if a.v.toNat < 4096 then semOf m m.core.ctl.part m.core.ctl.vf a.v.toNat else none with
    | some s => pure s
    | none => raise 0x05 a.v
  else
    let p := bits a.v 16 12
    match m.partOf m.me with
    | some k =>
      if a.v.toNat >>> 17 = 0 ∧ Nat.testBit (m.partn k).mask p then pure (p, bits a.v 11 0) else raise 0x0B a.v
    | none => raise 0x0B a.v

def semsigWord (a b : Nat) : Exec Unit :=
  orLate (do
    let x ← rdS a
    let y ← rdS b
    let s ← semNamed x y
    modM fun m => m.setSem s.1 s.2 (semSignal (m.sem s.1 s.2) (bits y.v 31 0))) lateTrap

def semwaitWord (a b : Nat) : Exec Unit :=
  orLate (do
    let x ← rdS a
    let y ← rdS b
    let s ← semNamed x y
    modM fun m =>
      (m.setSem s.1 s.2 (semJoin (m.sem s.1 s.2) m.me (bits y.v 31 0))).modCtl fun c =>
        { c with wait := .sem x.v.toNat s.1 s.2 (bits y.v 31 0) }) lateTrap

def semtryWord (d a b : Nat) : Exec Unit :=
  orLate (do
    let x ← rdS a
    let y ← rdS b
    let s ← semNamed x y
    let m ← getM
    let r := semTry (m.sem s.1 s.2) (bits y.v 31 0)
    modM fun m => m.setSem s.1 s.2 r.1
    wrS d ⟨dwBool r.2, false⟩ 1) (lateS d 1)

/-! ### Prefetch (R375) -/

/-- PREFG: place the first page's translation in the scalar TLB, when the access is allowed. -/
def prefgWord (a : Nat) : Exec Unit :=
  orLate (do
    let b ← rdS a
    need (!b.p) 0x04 b.v
    let m ← getM
    let va := offOf b.v / 256 * 256
    if tagOfAddr b.v = 0 ∧ inSpace b.v 1 then
      match translate m m.me m.myPart 0 va accRead with
      | (.error _, _) => pure ()
      | (.ok pa, m') =>
        if !m.isTile || rightsOk m m.core.ctl.part m.core.ctl.vf m.myTask .read [(pa, 1)] then modM fun _ => m'
        else pure ()
    else pure ()) lateTrap

/-! ### The words -/



/-- LDB (R362). -/
def execLdb (d : BitVec 6) (a : BitVec 6) (s : BitVec 1) (i : BitVec 5) (st : State) : Res := word (.ldb d a s i) (loadWord (fld d) (fld a) (fld s == 1) (fld i) 1 true) st
/-- LDBU (R362). -/
def execLdbu (d : BitVec 6) (a : BitVec 6) (s : BitVec 1) (i : BitVec 5) (st : State) : Res := word (.ldbu d a s i) (loadWord (fld d) (fld a) (fld s == 1) (fld i) 1 false) st
/-- LDH (R362). -/
def execLdh (d : BitVec 6) (a : BitVec 6) (s : BitVec 1) (i : BitVec 5) (st : State) : Res := word (.ldh d a s i) (loadWord (fld d) (fld a) (fld s == 1) (fld i) 2 true) st
/-- LDHU (R362). -/
def execLdhu (d : BitVec 6) (a : BitVec 6) (s : BitVec 1) (i : BitVec 5) (st : State) : Res := word (.ldhu d a s i) (loadWord (fld d) (fld a) (fld s == 1) (fld i) 2 false) st
/-- LDW (R362). -/
def execLdw (d : BitVec 6) (a : BitVec 6) (s : BitVec 1) (i : BitVec 5) (st : State) : Res := word (.ldw d a s i) (loadWord (fld d) (fld a) (fld s == 1) (fld i) 4 true) st
/-- LDWU (R362). -/
def execLdwu (d : BitVec 6) (a : BitVec 6) (s : BitVec 1) (i : BitVec 5) (st : State) : Res := word (.ldwu d a s i) (loadWord (fld d) (fld a) (fld s == 1) (fld i) 4 false) st
/-- LDD (R362). -/
def execLdd (d : BitVec 6) (a : BitVec 6) (s : BitVec 1) (i : BitVec 5) (st : State) : Res := word (.ldd d a s i) (loadWord (fld d) (fld a) (fld s == 1) (fld i) 8 false) st
/-- STB (R362). -/
def execStb (s : BitVec 6) (a : BitVec 6) (i : BitVec 6) (st : State) : Res := word (.stb s a i) (storeWord (fld s) (fld a) (fld i) 1) st
/-- STH (R362). -/
def execSth (s : BitVec 6) (a : BitVec 6) (i : BitVec 6) (st : State) : Res := word (.sth s a i) (storeWord (fld s) (fld a) (fld i) 2) st
/-- STW (R362). -/
def execStw (s : BitVec 6) (a : BitVec 6) (i : BitVec 6) (st : State) : Res := word (.stw s a i) (storeWord (fld s) (fld a) (fld i) 4) st
/-- STD (R362). -/
def execStd (s : BitVec 6) (a : BitVec 6) (i : BitVec 6) (st : State) : Res := word (.std s a i) (storeWord (fld s) (fld a) (fld i) 8) st
/-- LDV (R364). -/
def execLdv (d : BitVec 6) (a : BitVec 6) (s : BitVec 1) (i : BitVec 5) (st : State) : Res := word (.ldv d a s i) (loadRow (fld d) (fld a) (fld s == 1) (fld i)) st
/-- STV (R364). -/
def execStv (s : BitVec 6) (a : BitVec 6) (i : BitVec 6) (st : State) : Res := word (.stv s a i) (storeRow (fld s) (fld a) (fld i)) st
/-- AMO (R365). -/
def execAmo (d : BitVec 6) (a : BitVec 6) (f : BitVec 4) (o : BitVec 2) (st : State) : Res := word (.amo d a f o) (amoWord (fld d) (fld a) (fld f) (fld o)) st
/-- CAS (R366). -/
def execCas (d : BitVec 6) (a : BitVec 6) (o : BitVec 2) (st : State) : Res := word (.cas d a o) (casWord (fld d) (fld a) (fld o)) st
/-- OWNX (R368). -/
def execOwnx (a : BitVec 6) (b : BitVec 6) (st : State) : Res := word (.ownx a b) (ownxWord (fld a) (fld b)) st
/-- OWNA (R368). -/
def execOwna (a : BitVec 6) (st : State) : Res := word (.owna a) (ownWord ownA (fld a) 0) st
/-- OWNS (R368). -/
def execOwns (a : BitVec 6) (k : BitVec 1) (st : State) : Res := word (.owns a k) (ownWord ownS (fld a) (fld k)) st
/-- OWNF (R368). -/
def execOwnf (a : BitVec 6) (st : State) : Res := word (.ownf a) (ownWord ownF (fld a) 0) st
/-- OWNQ (R370). -/
def execOwnq (d : BitVec 6) (a : BitVec 6) (st : State) : Res := word (.ownq d a) (ownqWord (fld d) (fld a)) st
/-- SEMSIG (R371). -/
def execSemsig (a : BitVec 6) (b : BitVec 6) (st : State) : Res := word (.semsig a b) (semsigWord (fld a) (fld b)) st
/-- SEMWAIT (R372). -/
def execSemwait (a : BitVec 6) (b : BitVec 6) (st : State) : Res := word (.semwait a b) (semwaitWord (fld a) (fld b)) st
/-- SEMTRY (R371). -/
def execSemtry (d : BitVec 6) (a : BitVec 6) (b : BitVec 6) (st : State) : Res := word (.semtry d a b) (semtryWord (fld d) (fld a) (fld b)) st
/-- PREFG (R375). -/
def execPrefg (a : BitVec 6) (k : BitVec 3) (st : State) : Res := word (.prefg a k) (prefgWord (fld a)) st

end Sys2Proof.Machine
end

