-- ==== Sys2Proof/Machine/Colls.lean ====
section
/-!
DEFINITION. Collectives (17_matrix_and_engine_instructions R436-R438; 10 R263): COLL, COLLW, and the step in which the
collective service finishes one.
-/
namespace Sys2Proof.Machine

/-! ### The descriptor (Table 17-11) -/

def collOp (d : List Byte) : Nat := byteAt d 0
def collType (d : List Byte) : Nat := byteAt d 1
def collLevel (d : List Byte) : Nat := byteAt d 2
def collCount (d : List Byte) : Nat := leAt d 4 4
def collBuf (d : List Byte) : Dword := dw (leAt d 8 8)
def collRbuf (d : List Byte) : Dword := dw (leAt d 16 8)
def collRoot (d : List Byte) : Nat := leAt d 24 4
def collNnode (d : List Byte) : Nat := leAt d 28 2
def collKey (d : List Byte) : Nat := leAt d 30 2
def collNodes (d : List Byte) : List Nat := (List.range 16).map fun i => leAt d (32 + 2 * i) 2
def collSize (d : List Byte) : Nat := typeWidth (collType d) / 8
/-- Bytes one participant contributes. -/
def collBytes (d : List Byte) : Nat := collCount d * collSize d

/-- The fabric node identifier of this package (log 6). -/
def ownNode : Dword := Config.fused 40

/-- The members a task's registers give (Table 5-2). -/
def memberCount (m : Mach) (level : Nat) : Nat :=
  if level = 3 then bits (m.csr 0x033) 51 26 else bits (m.csr (0x030 + level)) 39 20
def memberRank (m : Mach) (level : Nat) : Nat :=
  if level = 3 then bits (m.csr 0x033) 25 0 else bits (m.csr (0x030 + level)) 19 0
def collParties (m : Mach) (d : List Byte) : Nat := if collLevel d = 4 then collNnode d else memberCount m (collLevel d)

/-- Fields within Table 17-11, for a task of the issuing agent. -/
def collOk (m : Mach) (d : List Byte) : Bool :=
  let n := collParties m d
  let fab := (m.partn m.core.ctl.part).fab
  let used := (collNodes d).take (collNnode d)
  let own := used.filter fun i => SMap.get (fun _ => 0) fab i == ownNode
  decide (collOp d ≤ 4) && (collType d == 2 || (7 ≤ collType d && collType d ≤ 9)) && decide (1 ≤ collLevel d) &&
    decide (collLevel d ≤ 4) && byteAt d 3 == 0 && decide (1 ≤ collCount d) && decide (collCount d ≤ 2 ^ 24) &&
    (collLevel d != 3 || memberCount m 3 != 0) && (collOp d == 4 || collRbuf d == 0) &&
    (if collOp d = 3 then decide (collRoot d < n) else collRoot d == 0) &&
    (if collLevel d = 4 then
       decide (2 ≤ collNnode d) && decide (collNnode d ≤ 16) && (used.all fun i => fab.any fun e => e.1 == i) &&
         own.length == 1 && ((collNodes d).drop (collNnode d)).all (· == 0)
     else collNnode d == 0 && collKey d == 0 && (collNodes d).all (· == 0)) &&
    (collOp d != 4 ||
      decide ((collRbuf d).toNat + n * collBytes d ≤ (collBuf d).toNat) ||
      decide ((collBuf d).toNat + collBytes d ≤ (collRbuf d).toNat))

/-- A buffer: tag 0x0, aligned, in its space. -/
def bufOk (d : List Byte) (a : Dword) (n : Nat) : Bool :=
  tagOfAddr a == 0 && a.toNat % collSize d == 0 && inSpace a n

/-- What makes a collective this one (R437): level, domain, and which of its collectives, or the key and list. -/
def collIdent (m : Mach) (d : List Byte) : List Nat :=
  let t := m.myTask
  let l := m.launch t.launch
  let nth := SMap.get (fun _ => 0) m.core.eng.collN (collLevel d)
  match collLevel d with
  | 1 => [1, t.launch, l.gangOf t.task, nth]
  | 2 => [2, t.launch, nth]
  | 3 => [3, l.part, l.img.domid, nth]
  | _ => [4, l.part, collKey d] ++ collNodes d
/-- Self's rank. -/
def collRank (m : Mach) (d : List Byte) : Nat :=
  if collLevel d = 4 then
    let fab := (m.partn m.core.ctl.part).fab
    ((collNodes d).findIdx? fun i => SMap.get (fun _ => 0) fab i == ownNode).getD 0
  else memberRank m (collLevel d)
/-- The fields that must agree. -/
def collSame (a b : List Byte) : Bool :=
  a.take 8 == b.take 8 && (a.drop 24).take 6 == (b.drop 24).take 6 && a.drop 32 == b.drop 32

def zeroColl : Nat → Coll := fun _ => {}

/-- A participant joins; its regions are held. -/
def collJoin (m : Mach) (d : List Byte) (id : Nat) (regs : List Nat) : Mach :=
  let ident := collIdent m d
  let t := m.myTask
  let part := m.core.ctl.part
  let rank := collRank m d
  let found := m.sys.colls.find? fun e => e.2.key == ident && !(e.2.joined.any fun j => j.1 == rank)
  let m := if found.isSome then m else m.onSys fun s => { s with seq := s.seq + 1 }
  let k := match found with
    | some e => e.1
    | none => m.sys.seq
  let c := match found with
    | some e => e.2
    | none => { key := ident, desc := d }
  let me := [t.launch, t.task, id, (collBuf d).toNat, (collRbuf d).toNat] ++ regs
  let m := m.setColl k { c with mism := c.mism || !collSame c.desc d, joined := SMap.put c.joined rank me }
  let m := regs.foldl (fun m r => m.setRegion part r { m.region part r with st := 5, hold := 1 }) m
  m.modEng fun e =>
    { e with colls := SMap.set (fun _ => 0) e.colls id (2 * k + 1),
             collN := SMap.set (fun _ => 0) e.collN (collLevel d) (SMap.get (fun _ => 0) e.collN (collLevel d) + 1) }

/-- COLL. -/
def collWord (d a : Nat) : Exec Unit :=
  orLate (do
    let x ← rdClean a
    need (tagOfAddr x == tagS && x.toNat % 64 == 0 && inSpace x 64) 0x0B x
    let bs ← taskReadS (offOf x) 64
    let m ← getM
    needWord (collOk m bs) 0x01
    let n := collBytes bs
    let rn := collParties m bs * n
    need (bufOk bs (collBuf bs) n) 0x0B (collBuf bs)
    need (collOp bs != 4 || bufOk bs (collRbuf bs) rn) 0x0B (collRbuf bs)
    match (List.range 8).find? fun i => SMap.get (fun _ => 0) m.core.eng.colls i == 0 with
    | none => hold 0
    | some id => do
      let r0 ← copyRights (collBuf bs) n accRead .copyDst
      let r1 ← copyRights (collBuf bs) n accWrite .copyDst
      let r2 ← if collOp bs = 4 then copyRights (collRbuf bs) rn accWrite .copyDst else pure []
      let regs := (r0 ++ r1 ++ r2).eraseDups
      if regs.any fun r => copyHolds m m.core.ctl.part r then hold 0
      else do
        modM fun m => collJoin m bs id regs
        wrS d ⟨dw id, false⟩ 1) (lateS d 1)

/-! ### Completion (R437) -/

/-- One element reduced: bits, overflow, NaN created. -/
def reduce2 (op t a b : Nat) : Nat × Bool × Bool :=
  if t = 2 then
    (match op with
      | 0 => (a + b) % 2 ^ 32
      | 1 => if sext 32 a ≤ sext 32 b then a else b
      | _ => if sext 32 a ≤ sext 32 b then b else a, false, false)
  else
    let r := match op with
      | 0 => laneAdd t ctlRNE a b
      | 1 => laneMinMax t ctlRNE false a b
      | _ => laneMinMax t ctlRNE true a b
    (r.1, nbit r.2 2, (unpack t r.1).isNaN && !(unpack t a).isNaN && !(unpack t b).isNaN)

/-- Elements of a byte string. -/
def elems (size n : Nat) (bs : List Byte) : List Nat := (List.range n).map fun i => leAt bs (i * size) size

/-- Reduce contributions in increasing rank: elements, overflow, NaN. -/
def reduceAll (op t : Nat) (xs : List (List Nat)) : List Nat × Bool × Bool :=
  match xs with
  | [] => ([], false, false)
  | x :: rest => rest.foldl (fun acc y =>
      let rs := acc.1.zipWith (reduce2 op t) y
      (rs.map fun r => r.1, acc.2.1 || rs.any fun r => r.2.1, acc.2.2 || rs.any fun r => r.2.2)) (x, false, false)

/-- The physical pieces of a buffer, by the walker of a command core. -/
def collPieces (m : Mach) (part va n acc : Nat) : Option (List (Nat × Nat)) :=
  match (translateAll m (ccOf (m.partn part).lead) part 0 acc (pageSpans va n)).1 with
  | .ok ps => some ps
  | .error _ => none

/-- Every participant of one package has joined. -/
def collFull (m : Mach) (c : Coll) : Bool :=
  let n := c.joined.length
  match c.key with
  | [1, k, _, _] => n == (m.launch k).per
  | [2, k, _] => n == (m.launch k).tasks
  | [3, part, dom, _] =>
    let dm : Dom := SMap.get (fun _ => {}) (m.partn part).doms dom
    dm.members.length == dm.l && n == (dm.members.map fun k => (m.launch k).tasks).sum
  | 4 :: _ => n == 1
  | _ => false
def collPart (m : Mach) (c : Coll) : Nat :=
  match c.joined with
  | (_, k :: _) :: _ => (m.launch k).part
  | _ => 0

/-- Every participant is told, and its regions return to OWNED. -/
def collEnd (m : Mach) (k : Nat) (c : Coll) (result : Nat) : Mach :=
  let part := collPart m c
  let m := c.joined.foldl (fun m j =>
    match j.2 with
    | l :: t :: id :: _ :: _ :: regs =>
      let m := regs.foldl (fun m r =>
        let e := m.region part r
        if e.st = 5 ∧ e.hold = 1 then m.setRegion part r { e with st := 2, hold := 0 } else m) m
      m.modTask ⟨l, t⟩ fun x =>
        (x.modEng fun e => { e with colls := SMap.set (fun _ => 0) e.colls id (2 * (result + 1)) }).modCtl
          fun k => { k with ev := k.ev ||| 16 }
    | _ => m) m
  m.onSys fun s => { s with colls := SMap.erase s.colls k }

/-- The service finishes collective `k`. For level 4, `status` is 0, 1 for a mismatch or 2 for a transport failure, and
`others` the contributions of the other nodes in rank order. -/
def collComplete (m : Mach) (k status : Nat) (others : List Byte) : Mach :=
  let c := m.coll k
  let d := c.desc
  let n := collBytes d
  let part := collPart m c
  let fabric := collLevel d == 4
  if d = [] ∨ !collFull m c then m
  else if fabric ∧ status ≠ 0 then collEnd m k c (min status 2)
  else if c.mism then collEnd m k c 1
  else if fabric ∧ others.length ≠ (collNnode d - 1) * n then m
  else
    let src := c.joined.map fun j => collPieces m part ((j.2[3]?).getD 0 % 2 ^ 49) n accRead
    let total := if fabric then collNnode d else c.joined.length
    let dst := c.joined.map fun j =>
      if collOp d = 4 then collPieces m part ((j.2[4]?).getD 0 % 2 ^ 49) (total * n) accWrite
      else collPieces m part ((j.2[3]?).getD 0 % 2 ^ 49) n accWrite
    if (src ++ dst).any fun p => p.isNone || m.stalled (p.getD []) then m
    else
      let own := src.map fun p => (hbmRead m (p.getD [])).1
      -- the service finds the errors of what it reads, and its writes clear them (R234, R236)
      let eachPiece := fun (f : Mach → Nat → Nat → Mach) (l : List (Option (List (Nat × Nat)))) (m : Mach) =>
        (l.flatMap fun p => p.getD []).foldl (fun m p => f m p.1 p.2) m
      let cut := (List.range (collNnode d - 1)).map fun i => (others.drop (i * n)).take n
      let rank := ((c.joined.head?).map Prod.fst).getD 0
      let all := if fabric then cut.take rank ++ own ++ cut.drop rank else own
      let r := reduceAll (collOp d) (collType d) (all.map (elems (collSize d) (collCount d)))
      let out := match collOp d with
        | 3 => (all[collRoot d]?).getD []
        | 4 => all.flatten
        | _ => r.1.flatMap fun v => leBytes v (collSize d)
      let m := dst.foldl (fun m p => hbmWriteAll m part (p.getD []) out) (eachPiece noteHbmRead src m)
      let m := eachPiece noteHbmWrite dst m
      let fl := if collOp d ≤ 2 then (if r.2.1 then 256 else 0) + (if r.2.2 then 512 else 0) else 0
      collEnd m k c fl

/-- COLLW (R438). -/
def collwWord (d a : Nat) (nb : Bool) : Exec Unit :=
  orLate (do
    let x ← rdClean a
    let m ← getM
    let v := if x.toNat < 8 then SMap.get (fun _ => 0) m.core.eng.colls x.toNat else 0
    need (v != 0) 0x01 x
    if v % 2 = 1 then (if nb then wrS d ⟨3, false⟩ 1 else hold 0)
    else do
      modM fun m => m.modEng fun e => { e with colls := SMap.erase e.colls x.toNat }
      wrS d ⟨dw (v / 2 - 1), false⟩ 1) (lateS d 1)

/-- COLL (R436). -/
def execColl (d : BitVec 6) (a : BitVec 6) (st : State) : Res := word (.coll d a) (collWord (fld d) (fld a)) st
/-- COLLW (R438). -/
def execCollw (d : BitVec 6) (a : BitVec 6) (b : BitVec 1) (st : State) : Res :=
  word (.collw d a b) (collwWord (fld d) (fld a) (b == 1)) st
/-- COLLECTIVE_COMPLETE (R437). A collective over the fabric needs what the other nodes bring: `b`, `bytes`. -/
def execCollectiveComplete (st : State) : Res := runEvent (fun x m => collComplete m x.a x.b x.bytes) st

end Sys2Proof.Machine
end

