-- ==== Sys2Proof/Machine/Control.lean ====
section
/-!
DEFINITION. Engine C (14_control_and_scalar_instructions): integer arithmetic and logic, compares and predicates,
transfers, hardware loops. Latencies are those of Table 14-2. Control-register access is in Machine/SysRegs.lean.
-/
namespace Sys2Proof.Machine



/-- ADD (R339). -/
def execAdd (d : BitVec 6) (a : BitVec 6) (b : BitVec 6) (st : State) : Res := word (.add d a b) (c3 (fld d) (fld a) (fld b) 1 (· + ·)) st
/-- ADDI (R339). -/
def execAddi (d : BitVec 6) (a : BitVec 6) (i : BitVec 6) (st : State) : Res := word (.addi d a i) (c2i (fld d) (fld a) (fld i) 1 (· + ·)) st
/-- SUB (R339). -/
def execSub (d : BitVec 6) (a : BitVec 6) (b : BitVec 6) (st : State) : Res := word (.sub d a b) (c3 (fld d) (fld a) (fld b) 1 (· - ·)) st
/-- MUL (R339). -/
def execMul (d : BitVec 6) (a : BitVec 6) (b : BitVec 6) (st : State) : Res := word (.mul d a b) (c3 (fld d) (fld a) (fld b) 3 (· * ·)) st
/-- MULH (R339). -/
def execMulh (d : BitVec 6) (a : BitVec 6) (b : BitVec 6) (st : State) : Res := word (.mulh d a b) (c3 (fld d) (fld a) (fld b) 3 mulHigh) st
/-- MULHU (R339). -/
def execMulhu (d : BitVec 6) (a : BitVec 6) (b : BitVec 6) (st : State) : Res := word (.mulhu d a b) (c3 (fld d) (fld a) (fld b) 3 mulHighU) st
/-- DIV (R341). -/
def execDiv (d : BitVec 6) (a : BitVec 6) (b : BitVec 6) (st : State) : Res := word (.div d a b) (c3 (fld d) (fld a) (fld b) 20 divS) st
/-- DIVU (R341). -/
def execDivu (d : BitVec 6) (a : BitVec 6) (b : BitVec 6) (st : State) : Res := word (.divu d a b) (c3 (fld d) (fld a) (fld b) 20 divU) st
/-- REM (R341). -/
def execRem (d : BitVec 6) (a : BitVec 6) (b : BitVec 6) (st : State) : Res := word (.rem d a b) (c3 (fld d) (fld a) (fld b) 20 remS) st
/-- REMU (R341). -/
def execRemu (d : BitVec 6) (a : BitVec 6) (b : BitVec 6) (st : State) : Res := word (.remu d a b) (c3 (fld d) (fld a) (fld b) 20 remU) st
/-- AND (R339). -/
def execAnd (d : BitVec 6) (a : BitVec 6) (b : BitVec 6) (st : State) : Res := word (.and d a b) (c3 (fld d) (fld a) (fld b) 1 (· &&& ·)) st
/-- ANDI (R339). -/
def execAndi (d : BitVec 6) (a : BitVec 6) (i : BitVec 6) (st : State) : Res := word (.andi d a i) (c2i (fld d) (fld a) (fld i) 1 (· &&& ·)) st
/-- OR (R339). -/
def execOr (d : BitVec 6) (a : BitVec 6) (b : BitVec 6) (st : State) : Res := word (.or d a b) (c3 (fld d) (fld a) (fld b) 1 (· ||| ·)) st
/-- ORI (R339). -/
def execOri (d : BitVec 6) (a : BitVec 6) (i : BitVec 6) (st : State) : Res := word (.ori d a i) (c2i (fld d) (fld a) (fld i) 1 (· ||| ·)) st
/-- XOR (R339). -/
def execXor (d : BitVec 6) (a : BitVec 6) (b : BitVec 6) (st : State) : Res := word (.xor d a b) (c3 (fld d) (fld a) (fld b) 1 (· ^^^ ·)) st
/-- XORI (R339). -/
def execXori (d : BitVec 6) (a : BitVec 6) (i : BitVec 6) (st : State) : Res := word (.xori d a i) (c2i (fld d) (fld a) (fld i) 1 (· ^^^ ·)) st
/-- SHL (R340). -/
def execShl (d : BitVec 6) (a : BitVec 6) (b : BitVec 6) (st : State) : Res := word (.shl d a b) (c3 (fld d) (fld a) (fld b) 1 (fun x y => x <<< (y.toNat % 64))) st
/-- SHLI (R340). -/
def execShli (d : BitVec 6) (a : BitVec 6) (k : BitVec 6) (st : State) : Res := word (.shli d a k) (c2u (fld d) (fld a) (fld k) 1 (fun x k => x <<< k)) st
/-- SHR (R340). -/
def execShr (d : BitVec 6) (a : BitVec 6) (b : BitVec 6) (st : State) : Res := word (.shr d a b) (c3 (fld d) (fld a) (fld b) 1 (fun x y => x >>> (y.toNat % 64))) st
/-- SHRI (R340). -/
def execShri (d : BitVec 6) (a : BitVec 6) (k : BitVec 6) (st : State) : Res := word (.shri d a k) (c2u (fld d) (fld a) (fld k) 1 (fun x k => x >>> k)) st
/-- SRA (R340). -/
def execSra (d : BitVec 6) (a : BitVec 6) (b : BitVec 6) (st : State) : Res := word (.sra d a b) (c3 (fld d) (fld a) (fld b) 1 (fun x y => x.sshiftRight (y.toNat % 64))) st
/-- SRAI (R340). -/
def execSrai (d : BitVec 6) (a : BitVec 6) (k : BitVec 6) (st : State) : Res := word (.srai d a k) (c2u (fld d) (fld a) (fld k) 1 (fun x k => x.sshiftRight k)) st
/-- CLZ (R339). -/
def execClz (d : BitVec 6) (a : BitVec 6) (st : State) : Res := word (.clz d a) (c1 (fld d) (fld a) 1 clz64) st
/-- POPC (R339). -/
def execPopc (d : BitVec 6) (a : BitVec 6) (st : State) : Res := word (.popc d a) (c1 (fld d) (fld a) 1 (fun x => dw (popCount 64 x.toNat))) st
/-- MIN (R339). -/
def execMin (d : BitVec 6) (a : BitVec 6) (b : BitVec 6) (st : State) : Res := word (.min d a b) (c3 (fld d) (fld a) (fld b) 1 (fun x y => if sInt x ≤ sInt y then x else y)) st
/-- MAX (R339). -/
def execMax (d : BitVec 6) (a : BitVec 6) (b : BitVec 6) (st : State) : Res := word (.max d a b) (c3 (fld d) (fld a) (fld b) 1 (fun x y => if sInt x ≤ sInt y then y else x)) st
/-- MINU (R339). -/
def execMinu (d : BitVec 6) (a : BitVec 6) (b : BitVec 6) (st : State) : Res := word (.minu d a b) (c3 (fld d) (fld a) (fld b) 1 (fun x y => if x.toNat ≤ y.toNat then x else y)) st
/-- MAXU (R339). -/
def execMaxu (d : BitVec 6) (a : BitVec 6) (b : BitVec 6) (st : State) : Res := word (.maxu d a b) (c3 (fld d) (fld a) (fld b) 1 (fun x y => if x.toNat ≤ y.toNat then y else x)) st

/-- The effect of SEL (R347): the source or the old destination, by a predicate. -/
def selWord (d a n p : Nat) : Exec Unit :=
  orLate (do
    let x ← rdS a
    let y ← rdS d
    let c ← rdP p
    let z := if c.v != (n == 1) then x else y
    wrS d ⟨z.v, z.p || c.p⟩ 1) (lateS d 1)
/-- SEL (R347). -/
def execSel (d : BitVec 6) (a : BitVec 6) (n : BitVec 1) (p : BitVec 4) (st : State) : Res := word (.sel d a n p) (selWord (fld d) (fld a) (fld n) (fld p)) st
/-- LI (R342). -/
def execLi (d : BitVec 6) (i : BitVec 12) (st : State) : Res := word (.li d i) (do let y ← imm 12 (fld i); wrS (fld d) ⟨y, false⟩ 1) st
/-- ADDX (R343): the old destination is a source. -/
def execAddx (d : BitVec 6) (a : BitVec 6) (k : BitVec 6) (st : State) : Res := word (.addx d a k) (c3 (fld d) (fld d) (fld a) 1 (fun x y => x + y <<< (fld k))) st
/-- CMP.EQ (R344). -/
def execCmpEq (p : BitVec 3) (a : BitVec 6) (b : BitVec 6) (st : State) : Res := word (.cmpEq p a b) (cmpRR .eq (fld p) (fld a) (fld b)) st
/-- CMP.NE (R344). -/
def execCmpNe (p : BitVec 3) (a : BitVec 6) (b : BitVec 6) (st : State) : Res := word (.cmpNe p a b) (cmpRR .ne (fld p) (fld a) (fld b)) st
/-- CMP.LT (R344). -/
def execCmpLt (p : BitVec 3) (a : BitVec 6) (b : BitVec 6) (st : State) : Res := word (.cmpLt p a b) (cmpRR .lt (fld p) (fld a) (fld b)) st
/-- CMP.LE (R344). -/
def execCmpLe (p : BitVec 3) (a : BitVec 6) (b : BitVec 6) (st : State) : Res := word (.cmpLe p a b) (cmpRR .le (fld p) (fld a) (fld b)) st
/-- CMP.LTU (R344). -/
def execCmpLtu (p : BitVec 3) (a : BitVec 6) (b : BitVec 6) (st : State) : Res := word (.cmpLtu p a b) (cmpRR .ltu (fld p) (fld a) (fld b)) st
/-- CMP.LEU (R344). -/
def execCmpLeu (p : BitVec 3) (a : BitVec 6) (b : BitVec 6) (st : State) : Res := word (.cmpLeu p a b) (cmpRR .leu (fld p) (fld a) (fld b)) st
/-- CMPI.EQ (R344). -/
def execCmpiEq (p : BitVec 3) (a : BitVec 6) (i : BitVec 6) (st : State) : Res := word (.cmpiEq p a i) (cmpRI .eq (fld p) (fld a) (fld i)) st
/-- CMPI.NE (R344). -/
def execCmpiNe (p : BitVec 3) (a : BitVec 6) (i : BitVec 6) (st : State) : Res := word (.cmpiNe p a i) (cmpRI .ne (fld p) (fld a) (fld i)) st
/-- CMPI.LT (R344). -/
def execCmpiLt (p : BitVec 3) (a : BitVec 6) (i : BitVec 6) (st : State) : Res := word (.cmpiLt p a i) (cmpRI .lt (fld p) (fld a) (fld i)) st
/-- CMPI.LE (R344). -/
def execCmpiLe (p : BitVec 3) (a : BitVec 6) (i : BitVec 6) (st : State) : Res := word (.cmpiLe p a i) (cmpRI .le (fld p) (fld a) (fld i)) st
/-- CMPI.LTU (R344). -/
def execCmpiLtu (p : BitVec 3) (a : BitVec 6) (i : BitVec 6) (st : State) : Res := word (.cmpiLtu p a i) (cmpRI .ltu (fld p) (fld a) (fld i)) st
/-- CMPI.LEU (R344). -/
def execCmpiLeu (p : BitVec 3) (a : BitVec 6) (i : BitVec 6) (st : State) : Res := word (.cmpiLeu p a i) (cmpRI .leu (fld p) (fld a) (fld i)) st

/-- PSET's combinations (R345). -/
def psetFn (f : Nat) (x y : Bool) : Bool :=
  match f with
  | 0 => x && y
  | 1 => x || y
  | 2 => x != y
  | _ => x && !y
/-- The effect of PSET. -/
def psetWord (f d a b : Nat) : Exec Unit :=
  orLate (do
    let x ← rdP a
    let y ← rdP b
    wrP d ⟨psetFn f x.v y.v, x.p || y.p⟩ 1) (lateP d 1)
/-- The effect of PMOV (R346). -/
def pmovWord (d a k : Nat) : Exec Unit :=
  match k with
  | 0 => orLate (do let x ← rdP (a % 16); wrP (d % 16) x 1) (lateP (d % 16) 1)
  | 1 => orLate (do let x ← rdS a; wrP (d % 16) ⟨x.v != 0, x.p⟩ 1) (lateP (d % 16) 1)
  | _ => orLate (do let x ← rdP (a % 16); wrS d ⟨dwBool x.v, x.p⟩ 1) (lateS d 1)
/-- PSET (R345). -/
def execPset (f : BitVec 2) (d : BitVec 4) (a : BitVec 4) (b : BitVec 4) (st : State) : Res := word (.pset f d a b) (psetWord (fld f) (fld d) (fld a) (fld b)) st
/-- PMOV (R346). -/
def execPmov (d : BitVec 6) (a : BitVec 6) (k : BitVec 2) (st : State) : Res := word (.pmov d a k) (pmovWord (fld d) (fld a) (fld k)) st

/-! ### Transfers (R348-R352) -/

/-- A branch by a word offset of 18 bits, extended by KX (R349). -/
def branchWord (off : Nat) (link : Bool) : Exec Unit := do
  let k ← getExt
  let pc ← pcb
  let nx ← successor
  transfer (relTarget pc (extSigned 18 off k))
  if link then wrS 59 ⟨nx, false⟩ 1 else pure ()
/-- A branch to a register (R350). -/
def jumpWord (d a : Nat) : Exec Unit :=
  orLate (do
    let x ← rdClean a
    let nx ← successor
    regTarget x
    transfer x
    wrS d ⟨nx, false⟩ 1) lateTrap
/-- BQ (R351): pop an item and branch on it. -/
def bqWord (q t off : Nat) : Exec Unit :=
  orLate (do
    let x ← popPort true q
    needWord (!x.p) 0x04
    let v : Dword := x.v.setWidth 64
    let pc ← pcb
    let taken :=
      match t with
      | 0 => v != 0
      | 1 => v == 0
      | 2 => bit v 63
      | _ => !bit v 63
    if taken then transfer (relTarget pc (sext 14 off)) else pure ()) lateTrap
/-- BR (R349). -/
def execBr (i : BitVec 18) (st : State) : Res := word (.br i) (branchWord (fld i) false) st
/-- CALL (R349). -/
def execCall (i : BitVec 18) (st : State) : Res := word (.call i) (branchWord (fld i) true) st
/-- RET (R350). -/
def execRet (st : State) : Res := word (.ret) (jumpWord 0 59) st
/-- JR (R350). -/
def execJr (d : BitVec 6) (a : BitVec 6) (st : State) : Res := word (.jr d a) (jumpWord (fld d) (fld a)) st
/-- BQ (R351). -/
def execBq (q : BitVec 2) (t : BitVec 2) (i : BitVec 14) (st : State) : Res := word (.bq q t i) (bqWord (fld q) (fld t) (fld i)) st

/-! ### Loops (R353, R212) -/

/-- Start the loop engine: count, stages, kernel length in words from the LOOP's bundle. -/
def startLoop (n k e : Nat) : Exec Unit := do
  let m ← getOld
  let stop_ := m.pcb + 4 * e
  let start := m.core.rf.npc.toNat
  needWord (m.core.ctl.loop == none && decide (start < stop_)) 0x01
  if n = 0 then modM fun m => m.modRf fun r => { r with npc := dw stop_ }
  else
    modM fun m => (m.modCtl fun c => { c with loop := some ⟨start, stop_, n, k, 1, false⟩ }).modCore fun c =>
      [9, 10, 11, 12, 13, 14, 15].foldl (fun c i => c.setP i ⟨false, false⟩) (c.setP 8 ⟨true, false⟩)
/-- LOOP with its count in a register. -/
def loopReg (a k e : Nat) : Exec Unit :=
  orLate (do
    let x ← rdClean a
    need (x.toNat >>> 32 == 0) 0x01 x
    startLoop x.toNat (k + 1) e) lateTrap
/-- LOOP (R353). -/
def execLoop (a : BitVec 6) (k : BitVec 3) (e : BitVec 9) (st : State) : Res := word (.loop a k e) (loopReg (fld a) (fld k) (fld e)) st
/-- LOOPI (R353). -/
def execLoopi (k : BitVec 3) (n : BitVec 8) (e : BitVec 7) (st : State) : Res := word (.loopi k n e) (startLoop (fld n) (fld k + 1) (fld e)) st

end Sys2Proof.Machine
end

