-- ==== Sys2Proof/Machine/Monitor.lean ====
section
/-!
DEFINITION. What the Bromond monitor does when the PF asks (04 R84-R101): partitions, VFs and their quotas, save areas,
semaphore maps, keys, and the regions it allocates, maps and takes back.
-/
namespace Sys2Proof.Machine

/-! ### Requests (R88, R89) -/

def regMCREQ : Nat := 0x300
def regMCARG (i : Nat) : Nat := 0x308 + 8 * i
def regMCSTAT : Nat := 0x328
def regKEYSTG (i : Nat) : Nat := 0x340 + 8 * i
def Mach.arg (m : Mach) (i : Nat) : Dword := m.reg (regMCARG i)
def monBusy (m : Mach) : Bool := bits (m.reg regMCSTAT) 1 0 == 1

/-- What a request comes to: refused with a cause, done with a RESULT, or in progress. -/
inductive Answer where
  | refused (cause : Nat)
  | done (result : Nat) (m : Mach)
  | busy (m : Mach)

/-- Write how a request ended. -/
def answerDone (m : Mach) (result : Nat) : Mach := m.setReg regMCSTAT (dw (result % 2 ^ 32 * 2 ^ 32 + 2))
def answerRefused (m : Mach) (cause : Nat) : Mach := m.setReg regMCSTAT (dw (cause * 256 + 3))

/-- A request is carried out. -/
def monAnswer (f : Mach → Answer) (m : Mach) : Mach :=
  match f m with
  | .refused c => answerRefused m c
  | .done r m => answerDone m r
  | .busy m => m.setReg regMCSTAT 1

/-- Regions allocated to a VF, the save area and overflow save slots left out. -/
def vfRegions (m : Mach) (part vfn : Nat) : List Nat :=
  (m.liveRegions part).filter fun r => (m.region part r).vfn == vfn && (m.region part r).st != 0
def quotaRegions (m : Mach) (part vfn : Nat) : List Nat := (vfRegions m part vfn).filter fun r => (m.region part r).st != 6
/-- The region behind each 64 KiB page of a 2 MiB range; none where it does not translate. -/
def pagesOf (m : Mach) (part va : Nat) : List (Option Nat) :=
  let p := m.partn part
  (List.range 32).map fun i =>
    if !bit p.ptroot 0 then none
    else
      match (walkFrom (fun a => m.sys.hbm.readNat a 8) (m.maBase part) p.mask (va + i * 65536) accEither
        (bits p.ptroot 47 13 * 8192) levels).1 with
      | .leaf e => some ((e.pa + (va + i * 65536 - e.va)) / regionSize)
      | .fail _ => none
/-- The regions that a range of `n` × 2 MiB maps to. -/
def mappedIn (m : Mach) (part va n : Nat) : List Nat :=
  (List.range n).flatMap fun i => ((pagesOf m part (va + i * regionSize)).filterMap id).eraseDups

/-- Whether a copy checked against one of some regions still runs (R252). -/
def copiesHold (m : Mach) (part : Nat) (rs : List Nat) : Bool := rs.any (regionHeld m part)
/-- Whether a copy that is not the VF's own, and so does not end with it, still runs over a region. -/
def foreignHold (m : Mach) (vfn r : Nat) : Bool :=
  let has := fun (c : Core) => c.ctl.vf != vfn && c.eng.ch.any fun e => e.2.cmds.any fun k => k.held.contains r
  has m.core || (m.rest.any fun e => isTileAgent e.1 && has e.2) || (m.sys.saved.any fun e => has e.2.core) ||
    m.sys.copies.any fun e => e.2.q / 16 != vfn && e.2.held.contains r
/-- Whether the destruction of a VF has to wait: a region of it is still copied for another (R252). -/
def vfHeld (m : Mach) (vfn : Nat) : Bool := (vfRegions m (m.vf vfn).part vfn).any (foreignHold m vfn)
/-- The VF a request names; 0 for none. -/
def opVfn (m : Mach) (op : Nat) : Nat := if 0x10 ≤ op ∧ op ≠ 0x27 then bits (m.arg 1) 25 16 else 0
/-- Whether a request that changes the state of regions waits for copies that were checked against them (R252). -/
def monCopies (m : Mach) (op : Nat) : Bool :=
  let vfn := opVfn m op
  if op = 0x15 then
    copiesHold m (m.vf vfn).part (mappedIn m (m.vf vfn).part (m.arg 0).toNat (m.arg 2).toNat)
  else if op = 0x11 ∨ op = 0x26 then vfHeld m vfn
  else false
/-- Whether a bind request for the VF of a request is in progress: it came first (R88). -/
def bindFirst (m : Mach) (op : Nat) : Bool := qbBusy m && opVfn m op != 0 && bits (m.reg regQBREQ) 41 32 == opVfn m op
/-- A request waits: its arguments are kept as they stand. -/
def monPend (m : Mach) (op : Nat) : Mach :=
  let first := if bindFirst m op then [1] else []
  (m.onSys fun s => { s with mc := [op, opVfn m op] ++ (List.range 4).map (fun i => (m.arg i).toNat) ++ first }).setReg regMCSTAT 1
/-- The request that waits, if one does. -/
def monPending (m : Mach) : Option Nat := if 6 ≤ m.sys.mc.length then m.sys.mc.head? else none
def putArgs (m : Mach) (l : List Dword) : Mach := l.zipIdx.foldl (fun m e => m.setReg (regMCARG e.2) e.1) m
/-- The machine with the arguments of the request that waits. -/
def pendingArgs (m : Mach) : Mach := putArgs m ((m.sys.mc.drop 2).take 4 |>.map dw)
/-- Whether the request that waits may go on. -/
def monReady (m : Mach) (op : Nat) : Bool := m.sys.mc.length != 7 && !monCopies (pendingArgs m) op

/-- A request: MCREQ written with GO set, unless one is in progress; or the one that waits goes on. A refused one changes nothing.
One that is well formed waits for a bind request of its VF that came first (R88) and for copies over the regions it changes
(R252); a VFFREE is then judged by the states its regions have once the copies are done. -/
def monRequest (op : Nat) (f : Mach → Answer) (m : Mach) : Mach :=
  if monPending m = some op then
    if monReady m op then
      putArgs (monAnswer f ((pendingArgs m).onSys fun s => { s with mc := [] })) ((List.range 4).map m.arg)
    else m
  else if monBusy m then m
  else
    let m := m.setReg regMCREQ (dw op)
    if monCopies m op ∨ bindFirst m op then
      match f m with
      | .refused c => if op = 0x15 ∧ c = 1 then monPend m op else answerRefused m c
      | _ => monPend m op
    else monAnswer f m

/-- Whether the argument bits that an operation does not name are zero; `ok` gives those it names. -/
def argsOk (m : Mach) (ok : List Dword) : Bool :=
  (List.range 4).all fun i => (m.arg i) &&& ~~~((ok[i]?).getD 0) == 0

/-! ### Partitions (R90) -/

def pcreate (m : Mach) : Answer :=
  let mask := (m.arg 0).toNat
  let a := m.arg 1
  let part := bits a 4 0
  let ps := panelsOf mask
  if !argsOk m [0xFFFFFFFF, 0xFF011F] then .refused 2
  else if ps.any fun p => (m.panel p).part.isSome then .refused 3
  else if (m.partn part).used then .refused 3
  else if mask = 0 ∨ bits a 23 16 = 0 then .refused 2
  else if ps.any fun p => !(m.die (p / 4)).rdy then .refused 6
  else
    let lead := (ps.head?).getD 0
    let m := m.setPart part { used := true, mask := mask, lead := lead, presv := bit a 8, lshare := bits a 23 16 }
    let m := ps.foldl (fun m p => m.modPanel p fun x => { x with part := some part, walkc := [] }) m
    let m := m.setHbm (m.sys.hbm.zero (monArea lead) (2 ^ 28))
    .done (partTiles m part) m

def psend (m : Mach) : Answer :=
  let a := m.arg 1
  let part := bits a 4 0
  if !argsOk m [0xFFFFFFFFFFFFFFFF, 0x10F1F] then .refused 2
  else if !(m.partn part).used then .refused 5
  else
    let p := m.partn part
    .done 0 (m.setPart part { p with
      senders := if bit a 16 then SMap.put p.senders (bits a 11 8) (m.arg 0) else SMap.erase p.senders (bits a 11 8) })

def pmark (m : Mach) : Answer :=
  let part := bits (m.arg 1) 4 0
  if !argsOk m [0, 0x11F] then .refused 2
  else if !(m.partn part).used then .refused 5
  else .done 0 (m.setPart part { m.partn part with presv := bit (m.arg 1) 8 })

def pfab (m : Mach) : Answer :=
  let a := m.arg 1
  let part := bits a 4 0
  if !argsOk m [0xFFFFFFFFFFFFFFFF, 0x87FF001F] then .refused 2
  else if !(m.partn part).used then .refused 5
  else
    let p := m.partn part
    .done 0 (m.setPart part { p with
      fab := if bit a 31 then SMap.put p.fab (bits a 26 16) (m.arg 0) else SMap.erase p.fab (bits a 26 16) })

/-! ### Page tables the monitor keeps (R251) -/

/-- A zeroed table of `n` bytes in the monitor area, naturally aligned. -/
def newTable (m : Mach) (part n : Nat) : Option (Nat × Mach) :=
  let p := m.partn part
  let o := (p.tbl + n - 1) / n * n
  if 2 ^ 28 < o + n then none
  else
    let a := m.maBase part + o
    some (a, (m.setHbm (m.sys.hbm.zero a n)).setPart part { p with tbl := o + n })

/-- The L0 table; the monitor makes one and turns translation on when there is none. -/
def rootTable (m : Mach) (part : Nat) : Option (Nat × Mach) :=
  let p := m.partn part
  let ma := m.maBase part
  let root := bits p.ptroot 47 13 * 8192
  if bit p.ptroot 0 ∧ ma ≤ root ∧ root < ma + 2 ^ 28 then some (root, m)
  else
    match newTable m part 8192 with
    | some (a, m) => some (a, m.setPart part { m.partn part with ptroot := dw (a + 1) })
    | none => none

/-- Write `e` (0: nothing) as the L2 entry of a 2 MiB range, making the tables above it; a 1 GiB leaf above it is split. -/
def setLeaf (m : Mach) (part tbl va e : Nat) (ls : List Level) : Option Mach :=
  match ls with
  | [] => none
  | l :: rest =>
    let at_ := tbl + 8 * ((va >>> l.lo) % 2 ^ l.w)
    if l.lo = 21 then some (m.setHbm (m.sys.hbm.writeNat at_ 8 e))
    else
      let x := m.sys.hbm.readNat at_ 8
      let pa := nbits x 47 8 * 256
      let ma := m.maBase part
      if nbit x 0 ∧ !nbit x 1 ∧ ma ≤ pa ∧ pa < ma + 2 ^ 28 then setLeaf m part pa va e rest
      else if e = 0 ∧ !nbit x 0 then some m
      else
        match newTable m part 4096 with
        | none => none
        | some (t, m) =>
          let m :=
            if nbit x 0 ∧ nbit x 1 ∧ l.lo = 30 then
              (List.range 512).foldl (fun m i => m.setHbm (m.sys.hbm.writeNat (t + 8 * i) 8 (x + i * regionSize))) m
            else m
          setLeaf (m.setHbm (m.sys.hbm.writeNat at_ 8 (t + 1))) part t va e rest

/-- Map, or with none unmap, a 2 MiB range of device addresses. -/
def mapRegion (m : Mach) (part va : Nat) (r : Option Nat) : Option Mach :=
  match rootTable m part with
  | none => none
  | some (root, m) => setLeaf m part root va (match r with
    | some r => r * regionSize + 15
    | none => 0) levels
/-- Map successive 2 MiB ranges to successive regions of a list. -/
def mapRegions (m : Mach) (part va : Nat) (rs : List Nat) : Option Mach :=
  match rs with
  | [] => some m
  | r :: t =>
    match mapRegion m part va (some r) with
    | some m => mapRegions m part (va + regionSize) t
    | none => none

/-- Take out every leaf that maps one of some regions: table after table, from `tbl` down. -/
def dropLeaves (m : Mach) (part tbl : Nat) (hit : Nat → Bool) (ls : List Level) : Mach :=
  match ls with
  | [] => m
  | l :: rest =>
    let ma := m.maBase part
    (List.range (2 ^ l.w)).foldl (fun m i =>
      let at_ := tbl + 8 * i
      let x := m.sys.hbm.readNat at_ 8
      let pa := nbits x 47 8 * 256
      if !nbit x 0 then m
      else if nbit x 1 then
        let n := 2 ^ l.lo
        if (List.range ((n + regionSize - 1) / regionSize)).any fun j => hit (pa / regionSize + j) then
          m.setHbm (m.sys.hbm.writeNat at_ 8 0)
        else m
      else if ma ≤ pa ∧ pa < ma + 2 ^ 28 then dropLeaves m part pa hit rest
      else m) m

/-! ### Regions (R94, R95, R101) -/

/-- The regions of a channel. -/
def channelRegions (lead c : Nat) : List Nat :=
  ((List.range 768).map fun i => c * 768 + i).filter fun r => !(c == lead * 8 && decide (r % 768 < 128))
/-- `n` unallocated regions of the channels of some panels of the partition, taken from the channels in turn (R94). -/
def placeRegions (m : Mach) (part chpm n : Nat) : List Nat :=
  let p := m.partn part
  let taken := (m.liveRegions part).filter fun r => (m.region part r).st != 0
  let free := ((panelsOf (chpm &&& p.mask)).flatMap fun q => (List.range 8).map fun c => q * 8 + c).map fun c =>
    (channelRegions p.lead c).filter fun r => !taken.contains r
  ((List.range 768).flatMap fun k => free.filterMap fun l => l[k]?).take n

/-- Zero a region (R100). -/
def zeroRegion (m : Mach) (part r : Nat) : Mach :=
  let m := markDirty (m.setHbm (m.sys.hbm.zero (r * regionSize) regionSize)) part (r * regionSize)
  m.onSys fun s => { s with hbmErr := SMap.clearRange s.hbmErr (r * 32768) ((r + 1) * 32768) }

/-- Give regions to a VF in a state, zeroed and mapped from `va` on; none when the monitor area holds no further
table. -/
def giveRegions (m : Mach) (part vfn va st : Nat) (rs : List Nat) : Option Mach :=
  let m := rs.foldl (fun m r => zeroRegion (m.setRegion part r ⟨st, false, 0, vfn, 0, 0⟩) part r) m
  match mapRegions m part va rs with
  | some m => some (flushTlbs m part fun e => decide (e.va < va + rs.length * regionSize) && decide (va < e.va + e.size))
  | none => none
/-- Regions go back to UNALLOC, and what maps them goes. -/
def takeRegions (m : Mach) (part : Nat) (rs : List Nat) : Mach :=
  if rs = [] then m
  else
    let p := m.partn part
    let m := if bit p.ptroot 0 then dropLeaves m part (bits p.ptroot 47 13 * 8192) (fun r => rs.contains r) levels else m
    flushTlbs (rs.foldl (fun m r => m.setRegion part r RegionE.unalloc) m) part fun _ => true

/-- A save area for a VF with the quotas of `v` (R95): the machine with it, or the cause of a refusal. An area of the
same range and size stays as it is. A range that passes 2^49 is not refused: its addresses go on at 0 (log 69). -/
def saveArea (m : Mach) (part vfn : Nat) (v : VF) : Except Nat Mach :=
  let old := m.vf vfn
  let n := 5 * v.tiles + (bits v.vqb 45 33 + 31) / 32
  let va := bits v.vqd 45 18 * regionSize
  if bits old.vqd 45 18 = bits v.vqd 45 18 ∧ old.area.length = n ∧ old.live then .ok m
  else if (mappedIn m part va n).any fun r => (m.region part r).st != 0 && !old.area.contains r then .error 3
  else
    let m := takeRegions m part old.area
    let rs := placeRegions m part (bits v.vqc 31 0) n
    if rs.length < n then .error 4
    else
      match giveRegions m part vfn va 6 rs with
      | some m => .ok (m.setVf vfn { m.vf vfn with area := rs })
      | none => .error 4

/-! ### Semaphore maps (R96) -/

/-- Semaphores that an entry of some VF maps, as panel × 4,096 + index. -/
def semsMapped (m : Mach) (part : Nat) : List Nat :=
  let lo := m.maBase part + 0x400000
  m.sys.hbm.filterMap fun e =>
    if lo ≤ e.1 ∧ e.1 < lo + 0x800000 ∧ (e.1 - lo) % 4 = 3 then
      (semOf m part ((e.1 - lo) / 0x4000 + 1) ((e.1 - lo) % 0x4000 / 4)).map fun s => s.1 * 4096 + s.2
    else none
/-- A semaphore enters a VF's map: it is zeroed when another VF's map held it before (R100). -/
def mapSem (m : Mach) (part vfn vsn s : Nat) : Mach :=
  let x := m.sem (s / 4096) (s % 4096)
  let m := if x.vf = vfn then m else m.setSem (s / 4096) (s % 4096) { vf := vfn }
  m.setHbm (m.sys.hbm.writeNat (semMapAddr m part vfn vsn) 4 (2 ^ 31 + s / 4096 * 2 ^ 24 + s % 4096))
/-- The map of a TS = 0 VF with `n` semaphores: entries from `n` up invalid, those below made valid in order. -/
def fillMap (m : Mach) (part vfn n : Nat) : Mach :=
  let m := m.setHbm (m.sys.hbm.zero (semMapAddr m part vfn n) (4 * (4096 - n)))
  let need := (List.range n).filter fun v => (semOf m part vfn v).isNone
  let mask := (m.partn part).mask
  let chpm := bits (m.vf vfn).vqc 31 0
  let ps := panelsOf (mask &&& chpm) ++ (panelsOf mask).filter fun p => !Nat.testBit chpm p
  let used := semsMapped m part
  let free := (ps.flatMap fun p => (List.range 4096).map fun i => p * 4096 + i).filter fun s => !used.contains s
  (need.zip free).foldl (fun m e => mapSem m part vfn e.1 e.2) m

/-! ### Keys (R99) -/

/-- A key drawn at random: eight free words, not all zero. -/
def drawKey (m : Mach) : Nat × Mach :=
  ((List.range 8).foldl (fun k i => k + (Config.freeValue (m.free + i)).toNat * 2 ^ (64 * i)) 1, { m with free := m.free + 8 })
/-- Place a key in a VF's slot; what KEYSTG staged is cleared. -/
def placeKey (m : Mach) (vfn : Nat) (staged : Bool) : Mach :=
  let k := if staged then
      ((List.range 8).foldl (fun n i => n + (m.reg (regKEYSTG i)).toNat * 2 ^ (64 * i)) 0, m)
    else drawKey m
  let m := loadKey k.2 (vfn - 1) k.1
  (List.range 8).foldl (fun m i => m.setReg (regKEYSTG i) 0) m

/-! ### VFs (R91, R92, R97) -/

/-- The quota registers that the arguments of VFCREATE and VFQUOTA give. -/
def quotaArgs (m : Mach) : VF :=
  let a := m.arg 1
  { vqa := dw (2 ^ 63 + bits a 4 0 * 2 ^ 58 + bits a 30 28 * 2 ^ 55 + bits a 31 31 * 2 ^ 54 + bits a 36 33 * 2 ^ 50),
    vqb := m.arg 0, vqc := m.arg 2, vqd := m.arg 3 }
/-- Limits of Table 4-4. -/
def VF.inLimits (v : VF) : Bool :=
  decide (bits v.vqa 53 50 ≤ 8) && decide (v.tiles ≤ 1088) && decide (bits v.vqb 52 46 ≤ 64) &&
    decide (bits v.vqb 45 33 ≤ 4096) && decide (bits v.vqb 32 16 ≤ 4096) && bits v.vqc 63 56 != 0
/-- Sums of R92 over a partition's VFs, `v` standing for VF `vfn`: the cause of a refusal. -/
def quotaSums (m : Mach) (part vfn : Nat) (v : VF) : Option Nat :=
  let p := m.partn part
  let n := (panelsOf p.mask).length
  let vs := v :: ((partVfs m part).filter fun e => e.1 != vfn).map Prod.snd
  let sum := fun (f : VF → Nat) (l : List VF) => l.foldl (fun k x => k + f x) 0
  let fixed := sum VF.tiles (vs.filter fun x => !x.ts)
  if bits v.vqc 31 0 &&& (0xFFFFFFFF ^^^ p.mask) ≠ 0 then some 2
  else if partTiles m part < fixed ∨ vs.any fun x => x.ts && decide (partTiles m part < fixed + x.tiles) then some 4
  else if 128 * n < sum (fun x => bits x.vqb 45 33) vs ∨ 4096 * n < sum (fun x => bits x.vqb 32 16) vs ∨
      6144 * n - 128 < sum (fun x => bits x.vqd 63 46) vs then some 4
  else none

def vfArgMask : Dword := 0x1FF3FF001F

def vfcreate (m : Mach) : Answer :=
  let a := m.arg 1
  let vfn := bits a 25 16
  let part := bits a 4 0
  let v := quotaArgs m
  if !argsOk m [0xFFFFFFFFFFFF0000, vfArgMask, 0xFF000000FFFFFFFF, 0xFFFFFFFFFFFC0000] ∨ !v.inLimits then .refused 2
  else if vfn = 0 ∨ 512 < vfn ∨ m.sys.vfCount < vfn ∨ !(m.partn part).used then .refused 5
  else if (m.vf vfn).live ∨ m.sys.parts.any fun e => e.2.fwds.any fun f => f.vf == vfn && f.state == 1 then .refused 3
  else
    match quotaSums m part vfn v with
    | some c => .refused c
    | none =>
      match saveArea m part vfn v with
      | .error c => .refused c
      | .ok m =>
        let m := m.setVf vfn { v with area := (m.vf vfn).area }
        let m := placeKey (fillMap m part vfn (if v.ts then 0 else bits v.vqb 32 16)) vfn (bit a 32)
        .done 0 ((m.vf vfn).area.foldl (fun m r => zeroRegion m part r) m)

/-- Whether new quotas lie below present use (R92). -/
def belowUse (m : Mach) (part vfn : Nat) (v : VF) : Bool :=
  let o := m.vf vfn
  decide (v.tiles < vfTiles m vfn) ||
    (o.saves.any fun e => decide (v.tiles ≤ e.1) && decide (e.1 < o.tiles)) ||
    (o.slots.any fun e => e.2.st != 0 && decide (v.slotQuota ≤ e.1)) ||
    decide (bits v.vqb 45 33 < vfSeamUnits m vfn) ||
    (v.ts && decide (bits v.vqb 32 16 < ((List.range 4096).filter fun i => (semOf m part vfn i).isSome).length)) ||
    decide (bits v.vqd 63 46 < (quotaRegions m part vfn).length) ||
    ((List.range 8).any fun q => decide (bits v.vqa 53 50 ≤ q) && (m.queue (queueKey vfn q)).st != 0)
/-- Overflow save slots are counted from TILES on. -/
def moveOver (o : VF) (tiles : Nat) : VF :=
  let f := fun (k : Nat) => if o.tiles ≤ k then k - o.tiles + tiles else k
  { o with saves := o.saves.map (fun e => (f e.1, e.2)), spill := o.spill.map (fun e => (f e.1, e.2)),
           crashed := (o.crashed.filter fun k => decide (o.tiles ≤ k) || decide (k < tiles)).map f }

def vfquota (m : Mach) : Answer :=
  let a := m.arg 1
  let vfn := bits a 25 16
  let v := quotaArgs m
  let o := m.vf vfn
  let part := o.part
  if !argsOk m [0xFFFFFFFFFFFF0000, vfArgMask, 0xFF000000FFFFFFFF, 0xFFFFFFFFFFFC0000] ∨ !v.inLimits then .refused 2
  else if !o.live then .refused 5
  else if v.part ≠ part ∨ v.ts ≠ o.ts ∨ bit a 32 then .refused 2
  else
    match quotaSums m part vfn v with
    | some c => .refused c
    | none =>
      if belowUse m part vfn v then .refused 4
      else
        match saveArea m part vfn v with
        | .error c => .refused c
        | .ok m =>
          let o := moveOver (m.vf vfn) v.tiles
          let m := m.setVf vfn { o with vqa := v.vqa, vqb := v.vqb, vqc := v.vqc, vqd := v.vqd }
          .done 0 (if v.ts then m else fillMap m part vfn (bits v.vqb 32 16))

def vfkey (m : Mach) : Answer :=
  let a := m.arg 1
  let vfn := bits a 25 16
  let v := m.vf vfn
  if !argsOk m [0, 0x103FF0000] then .refused 2
  else if !v.live then .refused 5
  else if (vfRegions m v.part vfn).any fun r => !v.area.contains r then .refused 1
  else
    let m := placeKey m vfn (bit a 32)
    .done 0 (v.area.foldl (fun m r => zeroRegion m v.part r) m)

/-- Commands of a VF's queues that have started and not completed; a pending WAIT is one. -/
def startedOf (m : Mach) (k : Nat) : List Cmd :=
  let q := m.queue k
  q.started ++ (match q.waitCmd with
    | some (b, _) => [cmdOf q b]
    | none => [])

/-- Drop what the copies of some queues hold and wait for. -/
def dropCopies (m : Mach) (mine : Nat → Bool) : Mach :=
  let ids := (m.sys.copies.filter fun e => mine e.2.q).map Prod.fst
  m.onSys fun s => { s with
    copies := s.copies.filter fun e => !mine e.2.q,
    panels := s.panels.map fun e => (e.1, { e.2 with flts := e.2.flts.filter fun f => !(ids.any fun i => f.who == copyWho i) }) }
/-- WGEN and INVID of what a command has started: a launch or a graph (Table 3-7). -/
def startedRef (m : Mach) (k : Nat) (c : Cmd) : Nat × Nat :=
  match m.sys.launches.find? fun e => e.2.origin.kind == 0 && e.2.origin.a == k && e.2.origin.b == c.cnt,
      m.sys.runs.find? fun e => e.2.q == k && e.2.cmd.cnt == c.cnt with
  | some e, _ => (e.2.gen, e.2.inv)
  | none, some e => (e.2.gen, e.2.inv)
  | none, none => (0, 0)
/-- Every command of some queues that has started and not completed gets a record with STATUS 14 (R60, R97): how many, and the
machine. -/
def abortCmds (m : Mach) (ks : List Nat) : Nat × Mach :=
  let cs := ks.flatMap fun k => (startedOf m k).map fun c => (k, c, startedRef m k c)
  (cs.length, cs.foldl (fun m x => complete m x.1 x.2.1 14 0 x.2.2.1 x.2.2.2) m)

/-- A VF is destroyed (R97): the machine and the number of commands aborted. `keep` are regions that stay. -/
def destroyVf (m : Mach) (vfn : Nat) (keep : List Nat) : Mach × Nat :=
  let v := m.vf vfn
  let part := v.part
  let m := m.setVf vfn { v with vqa := v.vqa &&& 0x7FFFFFFFFFFFFFFF }
  let ks := (List.range 16).map fun q => queueKey vfn q
  let mine := (m.sys.launches.filter fun e => e.2.vf == vfn).map Prod.fst
  let m := mine.foldl (fun m k => ((m.launch k).gangs.foldl (fun m e => freezeGang m k e.1 0) m)) m
  let r := abortCmds m ks
  let m := r.2.onSys fun s => { s with
    launches := s.launches.map fun e => if e.2.vf = vfn then (e.1, { e.2 with origin := ⟨2, 0, 0, 0⟩ }) else e }
  let m := mine.foldl (fun m k => endLaunch m k 14 0) m
  let m := dropCopies (m.onSys fun s => { s with runs := s.runs.filter fun e => e.2.vf != vfn }) fun q => q / 16 == vfn
  let m := m.onSys fun s => { s with keys := SMap.erase s.keys (vfn - 1), encKeys := SMap.erase s.encKeys (vfn - 1) }
  let m := m.setHbm (m.sys.hbm.zero (semMapAddr m part vfn 0) 0x4000)
  let m := ks.foldl (fun m k => dropQueue m k) m
  let m := takeRegions m part ((vfRegions m part vfn).filter fun r => !keep.contains r)
  let p := m.partn part
  let fwds := p.fwds.filter fun f => !(f.vf == vfn && f.state != 1)
  let m := m.setPart part { p with waiting := p.waiting.filter (fun k => leAt k.msg 18 2 != vfn), fwds := fwds }
  (m.onSys fun s => { s with vfs := SMap.erase s.vfs vfn }, r.1)

def vfdestroy (m : Mach) : Answer :=
  let vfn := bits (m.arg 1) 25 16
  if !argsOk m [0, 0x3FF0000] then .refused 2
  else if !(m.vf vfn).live then .refused 5
  else
    let r := destroyVf m vfn []
    .done r.2 r.1

/-- A partition is destroyed (R90): the commands of the PF's queues that serve it end with STATUS 14 and those queues are UNBOUND
(R60; log 47), then its VFs go, then its panels' local state, semaphores and seam buffers. -/
def destroyPart (m : Mach) (part : Nat) : Mach :=
  let p := m.partn part
  let ks := (List.range 16).filter fun k => (m.queue k).st != 0 && (m.queue k).part == part
  let m := dropCopies (abortCmds m ks).2 fun q => ks.contains q
  let m := ks.foldl (fun m k => dropQueue m k) m
  let m := (partVfs m part).foldl (fun m e => (destroyVf m e.1 []).1) m
  let ps := panelsOf p.mask
  let m := m.onSys fun s => { s with sets := s.sets.filter fun e => !ps.contains (e.1 / 4096) }
  let m := ps.foldl (fun m q =>
    let m := m.modPanel q fun x => { x with part := none, sems := [], oseq := [], setOf := [], units := 0, inq := [], inbox := [],
                                            snd := [], last := [], flts := [], walkc := [] }
    (List.range 144).foldl (fun m i =>
      let a := q / 4 * 144 + i
      if panelOfSite a = q then ((m.setSite a {}).setAgent a {}).setNet a [] else m) m) m
  let m := m.setHbm (m.sys.hbm.zero (monArea p.lead) (2 ^ 28))
  m.onSys fun s => { s with parts := SMap.erase s.parts part }

def pdestroy (m : Mach) : Answer :=
  let part := bits (m.arg 1) 4 0
  if !argsOk m [0, 0x1F] then .refused 2
  else if !(m.partn part).used then .refused 5
  else .done 0 (destroyPart m part)

/-! ### VFALLOC and VFFREE (R94, R101) -/

def vfalloc (m : Mach) : Answer :=
  let vfn := bits (m.arg 1) 25 16
  let va := (m.arg 0).toNat
  let n := (m.arg 2).toNat
  let v := m.vf vfn
  if !argsOk m [0xFFFFFFFFFFFFFFFF, 0x3FF0000, 0xFFFFFFFFFFFFFFFF] ∨ va % regionSize ≠ 0 ∨ 2 ^ 49 < va + n * regionSize then .refused 2
  else if !v.live then .refused 5
  else if (mappedIn m v.part va n).any fun r => (m.region v.part r).st != 0 then .refused 3
  else if bits v.vqd 63 46 < (quotaRegions m v.part vfn).length + n then .refused 4
  else
    let rs := placeRegions m v.part (bits v.vqc 31 0) n
    if rs.length < n then .refused 4
    else
      match giveRegions m v.part vfn va 1 rs with
      | some m => .busy (m.onSys fun s => { s with mc := [0x14, vfn, n] })
      | none => .refused 4

/-- Every region of a VFALLOC is zeroed: its result (R101). -/
def vfallocZeroed (m : Mach) : Mach :=
  match m.sys.mc with
  | [0x14, _, n] => answerDone (m.onSys fun s => { s with mc := [] }) n
  | _ => m

def vffree (m : Mach) : Answer :=
  let vfn := bits (m.arg 1) 25 16
  let va := (m.arg 0).toNat
  let n := (m.arg 2).toNat
  let v := m.vf vfn
  if !argsOk m [0xFFFFFFFFFFFFFFFF, 0x3FF0000, 0xFFFFFFFFFFFFFFFF] ∨ va % regionSize ≠ 0 ∨ 2 ^ 49 < va + n * regionSize then .refused 2
  else if !v.live then .refused 5
  else
    let ok := fun (x : Option Nat) => match x with
      | some r => (m.region v.part r).st == 1 && (m.region v.part r).vfn == vfn
      | none => false
    if !((List.range n).all fun i => (pagesOf m v.part (va + i * regionSize)).all ok) then .refused 1
    else
      let rs := (mappedIn m v.part va n).eraseDups
      let m := rs.foldl (fun m r => m.setRegion v.part r RegionE.unalloc) m
      let m := (List.range n).foldl (fun m i => (mapRegion m v.part (va + i * regionSize) none).getD m) m
      .done rs.length (flushTlbs m v.part fun e => decide (e.va < va + n * regionSize) && decide (va < e.va + e.size))

/-! ### SR-IOV (R91) -/

/-- The host lowers the VF count: VFs above it are destroyed, each once no other's copy runs over its regions (R252); a request in
progress for one of them is refused. The count is lower at once. -/
def vfCountLowered (m : Mach) (count : Nat) : Mach :=
  let low := (m.sys.vfLow.map fun n => min n count).getD count
  if m.sys.vfCount ≤ count ∧ m.sys.vfLow = none then m
  else
    let go := m.sys.vfs.filter fun e => e.2.live && decide (low < e.1)
    let m := go.foldl (fun m e =>
      if vfHeld m e.1 then m
      else
        let m := (destroyVf m e.1 []).1
        if m.sys.mc[1]? = some e.1 then answerRefused (m.onSys fun s => { s with mc := [] }) 5 else m) m
    m.onSys fun s => { s with
      vfCount := min s.vfCount count,
      vfLow := if s.vfs.any fun e => e.2.live && decide (low < e.1) then some low else none }
/-- The host enables VFs: none while the package waits for a recovery image (R35). -/
def vfEnable (m : Mach) (count : Nat) : Mach :=
  if m.sys.boot.phase ≠ 1 ∧ m.sys.vfLow = none ∧ m.sys.vfCount ≤ count ∧ count ≤ 512 then
    m.onSys fun s => { s with vfCount := count }
  else m

/-- PCREATE (R90). -/
def execPcreate (st : State) : Res := runEvent (fun _ m => monRequest 0x01 pcreate m) st
/-- PDESTROY (R90). -/
def execPdestroy (st : State) : Res := runEvent (fun _ m => monRequest 0x02 pdestroy m) st
/-- PSEND (R89). -/
def execPsend (st : State) : Res := runEvent (fun _ m => monRequest 0x03 psend m) st
/-- PMARK (R89). -/
def execPmark (st : State) : Res := runEvent (fun _ m => monRequest 0x04 pmark m) st
/-- PFAB (R89). -/
def execPfab (st : State) : Res := runEvent (fun _ m => monRequest 0x05 pfab m) st
/-- VFCREATE (R91). -/
def execVfcreate (st : State) : Res := runEvent (fun _ m => monRequest 0x10 vfcreate m) st
/-- VFDESTROY (R97). -/
def execVfdestroy (st : State) : Res :=
  runEvent (fun _ m => monRequest 0x11 vfdestroy m) st
/-- VFQUOTA (R92). -/
def execVfquota (st : State) : Res := runEvent (fun _ m => monRequest 0x12 vfquota m) st
/-- VFKEY (R99). -/
def execVfkey (st : State) : Res := runEvent (fun _ m => monRequest 0x13 vfkey m) st
/-- VFALLOC (R94). -/
def execVfalloc (st : State) : Res := runEvent (fun _ m => monRequest 0x14 vfalloc m) st
/-- VFALLOC_ZEROED (R101). -/
def execVfallocZeroed (st : State) : Res := runEvent (fun _ m => vfallocZeroed m) st
/-- VFFREE (R94). -/
def execVffree (st : State) : Res :=
  runEvent (fun _ m => monRequest 0x15 vffree m) st
/-- VF_COUNT_LOWERED (R91). -/
def execVfCountLowered (st : State) : Res := runEvent (fun x m => vfCountLowered m x.a) st
/-- SRIOV_VF_ENABLE (R91). -/
def execSriovVfEnable (st : State) : Res := runEvent (fun x m => vfEnable m x.a) st

end Sys2Proof.Machine
end

