-- ==== Sys2Proof/Machine/Migration.lean ====
section
/-!
DEFINITION. Live migration of a VF (04 R111-R114): its states, the state record, and what is forwarded to the destination.
What a state record's bytes are is not stated: they are free values, and the machine keeps what each record says.
-/
namespace Sys2Proof.Machine

/-- Change the migration state of a VF. -/
def setMig (m : Mach) (vfn st : Nat) : Mach := m.setVf vfn { m.vf vfn with mig := st }
/-- Event 0x0060 follows a migration operation that completes. -/
def migDone (m : Mach) (vfn part op : Nat) : Mach := postEvent m 0x60 part vfn 0xFF [BitVec.ofNat 8 op]
/-- A migration operation on VF MCARG1[25:16]: named argument bits, the states that allow it, what it does. -/
def migOp (op : Nat) (ok : List Dword) (states : List Nat) (f : Mach → Nat → Answer) (m : Mach) : Answer :=
  let vfn := bits (m.arg 1) 25 16
  let v := m.vf vfn
  if !argsOk m ok then .refused 2
  else if !v.live then .refused 5
  else if !states.contains v.mig then .refused 1
  else
    match f m vfn with
    | .done r m => .done r (migDone m vfn v.part op)
    | x => x

def argVfn : Dword := 0x3FF0000
def argAll : Dword := 0xFFFFFFFFFFFFFFFF
/-- Host buffers are 4 KiB aligned. -/
def argBuf : Dword := 0xFFFFFFFFFFFFF000

/-! ### Tracking (Table 4-10) -/

/-- MSTART: NORMAL to TRACK. -/
def mstart : Mach → Answer := migOp 0x20 [0, argVfn] [0] fun m vfn =>
  .done 0 (m.setVf vfn { m.vf vfn with mig := 1, dirty := [] })

/-- The leaves below a table, by device address: address, physical address, size. -/
def leavesOf (m : Mach) (part tbl va : Nat) (ls : List Level) : List (Nat × Nat × Nat) :=
  match ls with
  | [] => []
  | l :: rest =>
    let ma := m.maBase part
    (List.range (2 ^ l.w)).flatMap fun i =>
      let x := m.sys.hbm.readNat (tbl + 8 * i) 8
      let pa := nbits x 47 8 * 256
      let a := va + i * 2 ^ l.lo
      if !nbit x 0 then []
      else if nbit x 1 then [(a, pa, 2 ^ l.lo)]
      else if ma ≤ pa ∧ pa < ma + 2 ^ 28 then leavesOf m part pa a rest
      else []
/-- Regions of a VF outside its save area, by the device addresses that map them. -/
def regionsByAddr (m : Mach) (part vfn : Nat) : List (Nat × Nat) :=
  let p := m.partn part
  let ls := if bit p.ptroot 0 then leavesOf m part (bits p.ptroot 47 13 * 8192) 0 levels else []
  (ls.flatMap fun e => (List.range ((e.2.2 + regionSize - 1) / regionSize)).map fun i => (e.1 + i * regionSize, e.2.1 / regionSize + i)).foldl
    (fun l e =>
      let g := m.region part e.2
      if g.vfn = vfn ∧ g.st ≠ 0 ∧ g.st ≠ 6 ∧ !(l.any fun x => x.2 == e.2) then l ++ [e] else l) []

/-- Bits to bytes, bit 0 first. -/
def packBits (n : Nat) (bs : List Bool) : List Byte :=
  match n with
  | 0 => []
  | k + 1 =>
    BitVec.ofNat 8 ((bs.take 8).zipIdx.foldl (fun x e => if e.1 then x + 2 ^ e.2 else x) 0) :: packBits k (bs.drop 8)
/-- MSNAP: the dirty bitmap to the host, one bit per region, then cleared. -/
def msnap : Mach → Answer := migOp 0x21 [argBuf, argVfn] [1, 3] fun m vfn =>
  let v := m.vf vfn
  let bs := (regionsByAddr m v.part vfn).map fun e => SMap.get (fun _ => false) v.dirty e.2
  let m := m.setHost (m.sys.host.writeList (m.arg 0).toNat (packBits ((bs.length + 7) / 8) bs))
  .done (bs.filter id).length (m.setVf vfn { m.vf vfn with dirty := [] })

/-! ### Quiescing -/

/-- MQUIESCE: TRACK to QUIESCING; its result comes when every launch is held or done. -/
def mquiesce : Mach → Answer := migOp 0x22 [0, argVfn, 0xFFFFFFFF] [1] fun m vfn =>
  let lim := (m.arg 2).toNat
  let hold := fun (l : Launch) => if l.vf == vfn && l.st == 2 && phaseForm m l then { l with phaseHold := true } else l
  let m := m.onSys fun s => { s with launches := s.launches.map fun e => (e.1, hold e.2) }
  let mc := 0x22 :: vfn :: (if lim = 0 then [] else [m.sys.ns + 1000 * lim])
  .busy ((setMig m vfn 2).onSys fun s => { s with mc := mc })
/-- Running launches of a VF. -/
def runningOf (m : Mach) (vfn : Nat) : List Launch := (m.sys.launches.filter fun e => e.2.vf == vfn && e.2.st == 2).map Prod.snd
/-- Every launch held or done: QUIESCED. -/
def quiesceComplete (m : Mach) (vfn : Nat) : Mach :=
  let v := m.vf vfn
  if v.mig = 2 ∧ (runningOf m vfn).all launchHeld then
    let sets := (m.sys.sets.filter fun e => e.2.isOpen && !e.2.spl && (m.launch e.2.launch).vf == vfn).map Prod.fst
    if sets.any fun k => seamStalled m k (seamPlace m vfn (seamTotal (m.set_ k).desc)) then m
    else
    let m := sets.foldl seamSpill m
    let n := (runningOf m vfn).length
    migDone (answerDone ((setMig m vfn 3).onSys fun s => { s with mc := [] }) n) vfn v.part 0x22
  else m
/-- The launches held for a VF go on: their gangs are admitted again. -/
def letGo (m : Mach) (vfn : Nat) : Mach :=
  let go := fun (l : Launch) => if l.vf == vfn && l.phaseHold then l.letGo else l
  m.onSys fun s => { s with launches := s.launches.map fun e => (e.1, go e.2) }
/-- The time limit of MQUIESCE expires: refused, and TRACK again. -/
def quiesceLate (m : Mach) (vfn : Nat) : Mach :=
  match m.sys.mc with
  | [0x22, v, t] =>
    if v = vfn ∧ t ≤ m.sys.ns ∧ (m.vf vfn).mig = 2 ∧ !((runningOf m vfn).all launchHeld) then
      answerRefused ((setMig (letGo m vfn) vfn 1).onSys fun s => { s with mc := [] }) 1
    else m
  | _ => m

/-! ### Cutting over (R113) -/

/-- Pending kind-1 WAITs of a VF: queue key and entry. -/
def kindOneWaits (m : Mach) (vfn : Nat) : List (Nat × List Byte) :=
  (List.range 8).filterMap fun q => match (m.queue (queueKey vfn q)).waitCmd with
    | some (b, _) => if nbit (argOf b) 0 then some (queueKey vfn q, b) else none
    | none => none
/-- Forwarding entries of a partition that a source holds. -/
def Part.live (p : Part) : List Fwd := p.fwds.filter fun f => f.state != 2
def mcut : Mach → Answer := migOp 0x23 [0, argVfn] [3] fun m vfn =>
  let part := (m.vf vfn).part
  let ws := kindOneWaits m vfn
  if ws.any fun w => !nbit (argOf w.2) 3 then .refused 7
  else if 64 < (m.partn part).live.length + ws.length then .refused 8
  else
    let m := ws.foldl (fun m w =>
      let i := m.newId
      let m := i.2
      let p := m.partn part
      m.setPart part { p with fwds := p.fwds ++ [{ id := i.1 % 2 ^ 32, vf := vfn, q := w.1, addr := leAt w.2 8 8 }] }) m
    .done ws.length (setMig m vfn 4)

/-! ### The state record (R112) -/

/-- What a VF's record says. -/
def recordOf (m : Mach) (vfn : Nat) : MRec :=
  let v := m.vf vfn
  let ls := m.sys.launches.filter fun e => e.2.vf == vfn
  let has := fun (k : Nat) => ls.any fun e => e.1 == k
  { vfn := vfn, part := v.part, ns := m.sys.ns, vf := v,
    regions := (regionsByAddr m v.part vfn).map fun e => (e.1, e.2, (m.region v.part e.2).toNat),
    sems := (List.range 4096).filterMap fun i => (semOf m v.part vfn i).map fun s => (i, (m.sem s.1 s.2).count),
    sets := m.sys.sets.filter fun e => e.2.spl && has e.2.launch,
    launches := ls,
    saved := m.sys.saved.filter fun e => has (e.1 / 2 ^ 20),
    doms := (m.partn v.part).doms.filter fun e => e.2.members.any has,
    wqs := m.sys.wqs.filter fun e => has (e.1 / 4),
    runs := m.sys.runs.filter fun e => e.2.vf == vfn,
    queues := m.sys.queues.filter fun e => e.1 / 16 == vfn && e.2.st != 0,
    fwds := (m.partn v.part).fwds.filter fun f => f.vf == vfn && f.state == 0,
    panels := panelsOf (m.partn v.part).mask,
    pairs := (panelsOf (m.partn v.part).mask).flatMap fun p =>
      ((m.panel p).last.filter fun e => has (e.1 / 2 ^ 20)).map (fun e => (p, true, e)) ++
        ((m.panel p).snd.filter fun e => has (e.1 / 2 ^ 20)).map fun e => (p, false, e) }
/-- The bytes of a record: free values, and as many as one more free value says. -/
def MRec.bytes (r : MRec) : List Byte := (List.range r.len).map fun i => (Config.freeValue (r.free + 1 + i)).setWidth 8
def msave : Mach → Answer := migOp 0x24 [argBuf, argVfn] [3, 4] fun m vfn =>
  let n := 1 + (Config.freeValue m.free).toNat % (2 ^ 32 - 1)
  let r := { recordOf m vfn with free := m.free, len := n }
  let m := m.onSys fun s => { s with mrecs := s.mrecs ++ [r] }
  .done n ({ m with free := m.free + 1 + n }.setHost (m.sys.host.writeList (m.arg 0).toNat r.bytes))

/-- Whether two VFs have the same quotas. -/
def sameQuotas (a b : VF) : Bool :=
  a.vqb == b.vqb && bits a.vqa 57 50 == bits b.vqa 57 50 && bits a.vqc 63 56 == bits b.vqc 63 56 &&
    bits a.vqd 63 46 == bits b.vqd 63 46
/-- Whether nothing of a VF has started: no queue bound, no slot, launch or migration. -/
def freshVf (m : Mach) (vfn : Nat) : Bool :=
  let v := m.vf vfn
  v.mig == 0 && (v.slots.all fun e => e.2.st == 0) && ((List.range 8).all fun q => (m.queue (queueKey vfn q)).st == 0) &&
    !(m.sys.launches.any fun e => e.2.vf == vfn) && !(m.sys.runs.any fun e => e.2.vf == vfn)

/-- How names of the source read at the destination: queues, launches, regions and graph runs. -/
structure Rename where
  vfn : Nat
  part : Nat
  regs : List (Nat × Nat)
  runs : Nat
  /-- the panels of the source's partition, and those that take their places in order -/
  from_ : List Nat
  into : List Nat
  deriving DecidableEq, Repr
def Rename.panel (r : Rename) (p : Nat) : Nat := (r.into[(r.from_.findIdx? (· == p)).getD 0]?).getD p
def Rename.queue (r : Rename) (k : Nat) : Nat := queueKey r.vfn (k % 16)
def Rename.launch (r : Rename) (k : Nat) : Nat := k / 2 ^ 32 * 2 ^ 32 + r.part * 2 ^ 24 + k % 2 ^ 24
def Rename.region (r : Rename) (x : Nat) : Nat := ((r.regs.find? fun e => e.1 == x).map Prod.snd).getD x
def Rename.user (r : Rename) (t : Nat) : Nat := if runToken 0 ≤ t then t + r.runs else r.launch t
def Rename.task (r : Rename) (k : Nat) : Nat := r.launch (k / 2 ^ 20) * 2 ^ 20 + k % 2 ^ 20
def Rename.origin (r : Rename) (o : Origin) : Origin :=
  if o.kind = 0 then { o with a := r.queue o.a } else if o.kind = 1 then { o with a := o.a + r.runs } else o
def Rename.slot (r : Rename) (s : Slot) : Slot :=
  { s with gens := s.gens.map fun g => { g with users := g.users.map r.user, regs := g.regs.map r.region,
                                                swap := g.swap.map fun x => (r.queue x.1, x.2) },
           cmd := s.cmd.map fun x => (r.queue x.1, x.2), regs := s.regs.map r.region }
def Rename.launchOf (r : Rename) (l : Launch) : Launch :=
  { l.letGo with part := r.part, vf := r.vfn, origin := r.origin l.origin }
def Rename.saved (r : Rename) (k : Nat) (s : Saved) : Saved :=
  let pair := fun (e : Nat × Nat) => (if 2 ^ 20 ≤ e.1 then panelKey (r.panel (e.1 - 2 ^ 20)) else e.1, e.2)
  { s with core := (s.core.modCtl fun c =>
    { c with vf := r.vfn, part := r.part, task := some ⟨r.launch (k / 2 ^ 20), k % 2 ^ 20⟩ }).modEng fun e =>
      { e with snd := e.snd.map pair, rcv := e.rcv.map pair } }
/-- A seam set with its stripe panels renamed; they keep their order. -/
def Rename.seam (r : Rename) (s : SeamSet) : SeamSet :=
  let mask := (descStripe s.desc).foldl (fun x p => x + 2 ^ r.panel p) 0
  { s with launch := r.launch s.launch, desc := s.desc.take 12 ++ leBytes mask 4 ++ s.desc.drop 16 }
def Rename.run (r : Rename) (g : GRun) : GRun := { g with q := r.queue g.q, vf := r.vfn, part := r.part }

/-- A spilled set of a record takes its place in the save area; where its handle is in use here already, it stands beside (log 48). -/
def putSeam (m : Mach) (nm : Rename) (e : Nat × SeamSet) : Mach :=
  let k := e.1 % 2 ^ 17
  let key := (((List.range (m.sys.sets.length + 1)).map fun n => k + n * 2 ^ 17).find? fun j => !(m.sys.sets.any fun x => x.1 == j)).getD k
  let s := nm.seam e.2
  spillTo (m.setSet key { s with spl := false }) key (seamPlace m nm.vfn (seamTotal s.desc))
/-- Whether the partition has a panel for each that the spilled sets of a record lie on. -/
def setsFit (r : MRec) (panels : Nat) : Bool :=
  r.sets.all fun e => (descStripe e.2.desc).all fun p => (r.panels.findIdx? (· == p)).any fun i => decide (i < panels)

/-- Restore a record into a VF that matches it. -/
def restore (m : Mach) (r : MRec) (vfn node : Nat) : Mach :=
  let v := m.vf vfn
  let here := regionsByAddr m v.part vfn
  let nm : Rename :=
    { vfn := vfn, part := v.part, runs := m.sys.seq, from_ := r.panels, into := panelsOf (m.partn v.part).mask,
      regs := r.regions.filterMap fun e => (here.find? fun h => h.1 == e.1).map fun h => (e.2.1, h.2) }
  let m := r.regions.foldl (fun m e => m.setRegion v.part (nm.region e.2.1) { RegionE.ofNat e.2.2 with vfn := vfn }) m
  let used := semsMapped m v.part
  let free := ((panelsOf (m.partn v.part).mask).flatMap fun p => (List.range 4096).map fun i => p * 4096 + i).filter fun s => !used.contains s
  let m := (((r.sems.filter fun e => (semOf m v.part vfn e.1).isNone).map Prod.fst).zip free).foldl
    (fun m e => mapSem m v.part vfn e.1 e.2) m
  let m := r.sems.foldl (fun m e => match semOf m v.part vfn e.1 with
    | some (p, i) => m.setSem p i { m.sem p i with count := e.2 }
    | none => m) m
  let m := m.setVf vfn { m.vf vfn with
    slots := r.vf.slots.map (fun e => (e.1, nm.slot e.2)), handles := r.vf.handles,
    saves := r.vf.saves.filterMap (fun e => if e.1 < r.vf.tiles then some (e.1, nm.task e.2) else none), crashed := [] }
  let m := m.onSys fun s => { s with
    launches := r.launches.foldl (fun l e => SMap.put l (nm.launch e.1) (nm.launchOf e.2)) s.launches,
    saved := r.saved.foldl (fun l e => SMap.put l (nm.task e.1) (nm.saved e.1 e.2)) s.saved,
    wqs := r.wqs.foldl (fun l e => SMap.put l (nm.launch (e.1 / 4) * 4 + e.1 % 4) e.2) s.wqs,
    runs := r.runs.foldl (fun l e => SMap.put l (e.1 + nm.runs) (nm.run e.2)) s.runs,
    seq := 2 * s.seq + 1 }
  let m := r.sets.foldl (fun m e => putSeam m nm e) m
  let m := r.pairs.foldl (fun m e => m.modPanel (nm.panel e.1) fun x =>
    if e.2.1 then { x with last := SMap.set (fun _ => 0) x.last (nm.task e.2.2.1) e.2.2.2 }
    else { x with snd := SMap.set (fun _ => 0) x.snd (nm.task e.2.2.1) e.2.2.2 }) m
  let m := r.queues.foldl (fun m e =>
    let k := nm.queue e.1
    let w := e.2.waitCmd.map fun w => (w.1, w.2.map fun t => m.sys.ns + (t - r.ns))
    let m := m.setQueue k { e.2 with st := 2, waitCmd := w }
    match w with
    | some (b, _) =>
      match if nbit (argOf b) 0 then none else cmdSem m k b with
      | some (p, i) => m.setSem p i (semJoin (m.sem p i) (queueWho k) (leAt b 16 4))
      | none => m
    | none => m) m
  let p := m.partn v.part
  m.setPart v.part { p with
    inv := max p.inv (r.launches.foldl (fun n e => max n e.2.inv) 0),
    doms := r.doms.foldl (fun l e => SMap.put l e.1 { e.2 with members := e.2.members.map nm.launch }) p.doms,
    fwds := p.fwds ++ r.fwds.map fun f => { f with vf := vfn, q := nm.queue f.q, state := 2, node := node, part := r.part, seq := 0 } }

/-- The record that bytes of host memory from an address are, where they are one that another package wrote: no rule lays a record out
(log 48). -/
opaque recordIn : Memory → Nat → Option MRec
/-- The record in the host's buffer. -/
def recordAt (m : Mach) (a : Nat) : Option MRec :=
  match m.sys.mrecs.find? fun r => m.sys.host.readList a r.len == r.bytes with
  | some r => some r
  | none => recordIn m.sys.host a

/-- MRESTORE, on the destination. -/
def mrestore (m : Mach) : Answer :=
  let vfn := bits (m.arg 1) 25 16
  let v := m.vf vfn
  if !argsOk m [argBuf, argVfn, argAll] then .refused 2
  else if !v.live then .refused 5
  else if !((m.partn v.part).senders.any fun e => e.2 == m.arg 2) then .refused 2
  else
    match recordAt m (m.arg 0).toNat with
    | none => .refused 2
    | some r =>
      let same := ((regionsByAddr m v.part vfn).map Prod.fst) == r.regions.map fun e => e.1
      let clash := r.launches.any fun e => m.sys.launches.any fun x => x.2.part == v.part && keyInv x.1 == keyInv e.1
      let dclash := r.doms.any fun e => (m.partn v.part).doms.any fun x => x.1 == e.1
      if !freshVf m vfn ∨ !sameQuotas v r.vf ∨ !same ∨ clash ∨ dclash ∨ !setsFit r (panelsOf (m.partn v.part).mask).length then .refused 1
      else .done 0 (migDone (restore m r vfn (m.arg 2).toNat) vfn v.part 0x25)

/-! ### Relaying (R113, R114) -/

/-- The region behind a forwarded word. -/
def wordRegion (m : Mach) (part a : Nat) : List Nat :=
  match rangeRegions m part a 8 accRead with
  | .ok l => l
  | .error _ => []
def mrelay : Mach → Answer := migOp 0x26 [0, argVfn, argAll, 0x1F] [4] fun m vfn =>
  let part := (m.vf vfn).part
  let p := m.partn part
  let node := (m.arg 2).toNat
  let dest := (m.arg 3).toNat
  let mine := p.fwds.filter fun f => f.vf == vfn && f.state == 0
  -- writes held go first, in arrival order: `held` numbers them over all entries of the partition
  let held := (mine.flatMap fun f => f.held.map fun h => (h.1, f, h.2))
  let order := (List.range (held.foldl (fun n h => max n (h.1 + 1)) 0)).filterMap fun i => held.find? fun h => h.1 == i
  let r := order.foldl (fun (x : Mach × SMap Nat) h =>
    let s := SMap.get (fun _ => 0) x.2 h.2.1.id + 1
    (x.1.send ⟨5, node, dest, fwdBytes h.2.1 s h.2.2⟩, SMap.put x.2 h.2.1.id s)) (m, [])
  let keep := (mine.flatMap fun f => wordRegion m part f.addr).eraseDups
  let relay := fun (f : Fwd) => if f.vf == vfn && f.state == 0 then
      { f with state := 1, node := node, part := dest, held := [], seq := SMap.get (fun _ => 0) r.2 f.id, regs := wordRegion m part f.addr }
    else f
  let m := r.1.setPart part { p with fwds := p.fwds.map relay }
  let key := SMap.get (fun _ => 0) m.sys.keys (vfn - 1)
  let enc := m.encKey (vfn - 1)
  let m := (destroyVf m vfn keep).1
  .done 0 (if keep = [] then m else m.onSys fun s => { s with
    keys := SMap.set (fun _ => 0) s.keys (vfn - 1) key, encKeys := SMap.set (fun _ => 0) s.encKeys (vfn - 1) enc })

/-- A forwarding entry at the source ends: event 0x0061, and regions that only it kept become unallocated. -/
def endFwd (m : Mach) (part id why : Nat) : Mach :=
  let p := m.partn part
  match p.fwds.find? fun f => f.id == id && f.state != 2 with
  | none => m
  | some f =>
    let left := p.fwds.filter fun g => !(g.id == id && g.state != 2)
    let m := m.setPart part { p with fwds := left }
    let gone := f.regs.filter fun r => !(left.any fun g => g.regs.contains r)
    let m := takeRegions m part gone
    let m := if f.state = 1 ∧ !(left.any fun g => g.vf == f.vf && g.state == 1) ∧ !(m.vf f.vf).live then
        m.onSys fun s => { s with keys := SMap.erase s.keys (f.vf - 1), encKeys := SMap.erase s.encKeys (f.vf - 1) } else m
    postEvent m 0x61 part f.vf 0xFF (leBytes id 4 ++ [BitVec.ofNat 8 why])
/-- MFWDC: the PF cancels an entry. -/
def mfwdc (m : Mach) : Answer :=
  let id := (m.arg 0).toNat
  if !argsOk m [0xFFFFFFFF] then .refused 2
  else
    match m.sys.parts.find? fun e => e.2.fwds.any fun f => f.id == id && f.state != 2 with
    | none => .refused 2
    | some e =>
      let vfn := ((e.2.fwds.find? fun f => f.id == id && f.state != 2).map fun f => f.vf).getD 0
      .done 0 (migDone (endFwd m e.1 id 1) vfn e.1 0x27)

/-- MABORT: NORMAL again; entries are discarded, held launches and queues resume. -/
def mabort : Mach → Answer := migOp 0x28 [0, argVfn] [1, 2, 3, 4] fun m vfn =>
  let part := (m.vf vfn).part
  let p := m.partn part
  let m := m.setPart part { p with fwds := p.fwds.filter fun f => !(f.vf == vfn && f.state == 0) }
  .done 0 (letGo (m.setVf vfn { m.vf vfn with mig := 0, dirty := [] }) vfn)

/-! ### Messages and remote accesses -/

/-- Apply the forwarded writes of an entry that are next in order. -/
def applyFwd (fuel : Nat) (m : Mach) (part id : Nat) : Mach :=
  match fuel with
  | 0 => m
  | n + 1 =>
    let p := m.partn part
    match p.fwds.find? fun f => f.id == id && f.state == 2 with
    | none => m
    | some f =>
      match f.held.find? fun h => h.1 == f.seq + 1 with
      | none => m
      | some h =>
        let f' := { f with seq := f.seq + 1, held := f.held.filter fun x => x.1 != h.1 }
        let m := m.setPart part { p with fwds := p.fwds.map fun g => if g.id == id && g.state == 2 then f' else g }
        match sigWord m part f.vf f.addr accWrite with
        | .ok pa => applyFwd n (putWord m part pa f.addr h.2) part id
        | _ => applyFwd n m part id
/-- A forwarded write reaches the destination: applied in SEQ order; an old SEQ, another word or an unknown FWDID is
ignored (R114). One whose word lies on a stack that takes no requests waits where it is (R159). -/
def forwardedWrite (m : Mach) (part : Nat) (b : List Byte) : Mach :=
  let p := m.partn part
  let id := leAt b 4 4
  if b.length ≠ 32 ∨ leAt b 0 2 ≠ 0x4C20 ∨ byteAt b 2 ≠ 1 ∨ byteAt b 3 ≠ 0 ∨ !zeroAt b 12 4 then m
  else
    match p.fwds.find? fun f => f.id == id && f.state == 2 with
    | none => m
    | some f =>
      if leAt b 8 4 ≤ f.seq ∨ leAt b 16 8 ≠ f.addr ∨ sigWord m part f.vf f.addr accWrite = .waits ∨ f.held.any fun h => h.1 == leAt b 8 4 then m
      else
        let f' := { f with held := f.held ++ [(leAt b 8 4, leAt b 24 8)] }
        let m := m.setPart part { p with fwds := p.fwds.map fun g => if g.id == id && g.state == 2 then f' else g }
        applyFwd f'.held.length m part id
/-- A forward end reaches the source. -/
def forwardEnd (m : Mach) (part : Nat) (b : List Byte) : Mach :=
  if b.length ≠ 32 ∨ leAt b 0 2 ≠ 0x4C21 ∨ byteAt b 2 ≠ 1 ∨ byteAt b 3 ≠ 0 ∨ !zeroAt b 8 24 then m else endFwd m part (leAt b 4 4) 0
/-- Whether a peer's access to `n` bytes of VF `vfn` at `va` is turned away: the VF has been cut over or is gone, and no forwarded
word of it is touched (R111, R113). -/
def cutOff (m : Mach) (part vfn va n : Nat) : Bool :=
  ((m.vf vfn).mig == 4 || !(m.vf vfn).live) && !((m.partn part).fwds.any fun f => f.hit vfn va n)
/-- A remote write is performed by the destination's home, in ATOMIC regions (signal words). The writes of a
VF that has been cut over are refused but for its forwarded words, which are stored and forwarded (R111, R113). A request whose
stack takes none waits where it is: the step does nothing (R159). -/
def remoteWrite (m : Mach) (part addr : Nat) (b : List Byte) : Mach :=
  let pages := pageSpans addr b.length
  let p := m.partn part
  if !p.used ∨ b = [] ∨ 2 ^ 49 < addr + b.length then m
  else
    match rangeRegions m part addr b.length accWrite, translateAll m (ccOf p.lead) part 0 accWrite pages with
    | .ok rs, (.ok ps, _) =>
      let es := rs.map (m.region part)
      let vfn := (es.map fun e => e.vfn).headD 0
      if !(es.all fun e => e.st == 4) ∨ cutOff m part vfn addr b.length then m
      else if m.stalled ps then m
      else fwdNote (ps.foldl (fun m q => noteHbmWrite m q.1 q.2) (hbmWriteAll m part ps b)) part vfn addr b.length
    | _, _ => m
/-- A remote atomic on the word at `addr`: function `f` of AMO (R365), or 16 for a compare-and-swap with the expected value before
the new one. The answer is one byte of status (0 done), then the old value (log 68). -/
def remoteAtomic (m : Mach) (part addr f : Nat) (b : List Byte) : Mach :=
  let no := fun (s : Byte) => m.send ⟨4, part, addr, [s]⟩
  if !(m.partn part).used ∨ addr % 8 ≠ 0 ∨ 2 ^ 49 < addr + 8 ∨ (8 < f ∧ f ≠ 16) ∨ b.length ≠ (if f = 16 then 16 else 8) then no 1
  else
    match sigWord m part 0 addr accAtomic with
    | .ok pa =>
      let vfn := (m.region part (pa / regionSize)).vfn
      let old := m.sys.hbm.readNat pa 8
      if cutOff m part vfn addr 8 then no 1
      else if (hbmRead m [(pa, 8)]).2 then (noteHbmRead m pa 8).send ⟨4, part, addr, [2]⟩
      else
        let x := leAt b 0 8
        let new := if f = 16 then (if old = x then leAt b 8 8 else old) else (amoFn f (dw old) (dw x)).toNat
        (putWord m part pa addr new).send ⟨4, part, addr, 0 :: leBytes old 8⟩
    | .waits => m
    | _ => no 1

/-- A remote read is served only from SHARED_RO regions; otherwise it is refused (R429). The answer: 1 byte of status (0
served), then the bytes. -/
def remoteRead (m : Mach) (part addr n : Nat) : Mach :=
  let p := m.partn part
  let no := m.send ⟨4, part, addr, [1]⟩
  if !p.used ∨ n = 0 ∨ 2 ^ 49 < addr + n then no
  else
    match rangeRegions m part addr n accRead, translateAll m (ccOf p.lead) part 0 accRead (pageSpans addr n) with
    | .ok rs, (.ok ps, _) =>
      if m.stalled ps then m
      else if rs.all fun r => (m.region part r).st == 3 then
        let d := hbmRead m ps
        let m := ps.foldl (fun m q => noteHbmRead m q.1 q.2) m
        if d.2 then m.send ⟨4, part, addr, [2]⟩ else m.send ⟨4, part, addr, 0 :: d.1⟩
      else no
    | _, _ => no

/-- MSTART (R111). -/
def execMstart (st : State) : Res := runEvent (fun _ m => monRequest 0x20 mstart m) st
/-- MSNAP (R111). -/
def execMsnap (st : State) : Res := runEvent (fun _ m => monRequest 0x21 msnap m) st
/-- MQUIESCE (R111). -/
def execMquiesce (st : State) : Res := runEvent (fun _ m => monRequest 0x22 mquiesce m) st
/-- QUIESCE_COMPLETE (R111). -/
def execQuiesceComplete (st : State) : Res := runEvent (fun x m => quiesceComplete m x.a) st
/-- MQUIESCE_TIMEOUT (R111). -/
def execMquiesceTimeout (st : State) : Res := runEvent (fun x m => quiesceLate m x.a) st
/-- MCUT (R113). -/
def execMcut (st : State) : Res := runEvent (fun _ m => monRequest 0x23 mcut m) st
/-- MSAVE (R112). -/
def execMsave (st : State) : Res := runEvent (fun _ m => monRequest 0x24 msave m) st
/-- MRESTORE (R112). -/
def execMrestore (st : State) : Res := runEvent (fun _ m => monRequest 0x25 mrestore m) st
/-- MRELAY (R111). -/
def execMrelay (st : State) : Res :=
  runEvent (fun _ m => monRequest 0x26 mrelay m) st
/-- MFWDC (R113). -/
def execMfwdc (st : State) : Res := runEvent (fun _ m => monRequest 0x27 mfwdc m) st
/-- MABORT (R111). -/
def execMabort (st : State) : Res := runEvent (fun _ m => monRequest 0x28 mabort m) st
/-- FORWARDED_WRITE (R114). -/
def execForwardedWrite (st : State) : Res := runEvent (fun x m => forwardedWrite m x.a x.bytes) st
/-- FORWARD_END (R113). -/
def execForwardEnd (st : State) : Res := runEvent (fun x m => forwardEnd m x.a x.bytes) st
/-- REMOTE_WRITE (R22): a write, or with `c` not 0 an atomic operation of function `c` - 1. -/
def execRemoteWrite (st : State) : Res :=
  runEvent (fun x m => if x.c = 0 then remoteWrite m x.a x.b x.bytes else remoteAtomic m x.a x.b (x.c - 1) x.bytes) st
/-- REMOTE_READ (R429). -/
def execRemoteRead (st : State) : Res := runEvent (fun x m => remoteRead m x.a x.b x.c) st

end Sys2Proof.Machine
end

