-- ==== Sys2Proof/Machine/LaunchIn.lean ====
section
/-!
DEFINITION. Launch packets and residency reports (01 R25-R28): the mailboxes, the sequence of a sender, the check of a
packet, and the intake where a packet waits for a slot that loads.
-/
namespace Sys2Proof.Machine

def pktSeq (b : List Byte) : Nat := leAt b 4 4
def pktSender (b : List Byte) : Nat := leAt b 8 8
def pktPart (b : List Byte) : Nat := leAt b 16 2
def pktVf (b : List Byte) : Nat := leAt b 18 2
def pktSlot (b : List Byte) : Nat := byteAt b 20
/-- A residency report (Table 1-7). -/
def reportBytes (b : List Byte) (status ostat wgen inv : Nat) : List Byte :=
  leBytes 0x4C02 2 ++ [1, BitVec.ofNat 8 status] ++ leBytes (pktSeq b) 4 ++ leBytes (pktPart b) 2 ++
    [BitVec.ofNat 8 (pktSlot b), BitVec.ofNat 8 ostat] ++ leBytes wgen 4 ++ leBytes inv 8 ++ leBytes 0 8
/-- Send a report back by the transport the packet came by. -/
def sendReport (m : Mach) (port : Nat) (b r : List Byte) : Mach := m.send ⟨1, port, pktSender b, r⟩
def Part.lastOf (p : Part) (sender : Nat) : Nat := SMap.get (fun _ => 0) p.lastSeq sender
def Part.keptOf (p : Part) (sender : Nat) : List (List Byte) := SMap.get (fun _ => []) p.reports sender

/-- The report of a processed packet is kept with the 64 most recent, and sent (R26). -/
def keepReport (m : Mach) (port : Nat) (b r : List Byte) : Mach :=
  let p := m.partn (pktPart b)
  let s := pktSender b
  let kept := p.keptOf s ++ [r]
  sendReport (m.setPart (pktPart b) { p with lastSeq := SMap.put p.lastSeq s (pktSeq b),
                                             reports := SMap.put p.reports s (kept.drop (kept.length - 64)) }) port b r
/-- Reserved fields and NBUF. A PRIO above 7, a SLOT above 63 and a used buffer address from 2^49 on count as malformed too: they get
STATUS 5, as an INVOKE with them gets STATUS 2 (log 71). -/
def pktForm (b : List Byte) : Bool :=
  byteAt b 3 == 0 && zeroAt b 23 41 && decide (byteAt b 22 ≤ 16) && decide (byteAt b 21 ≤ 7) && decide (pktSlot b ≤ 63) &&
    (List.range 16).all fun k => decide (byteAt b 22 ≤ k) || decide (leAt b (64 + 8 * k) 8 < 2 ^ 49)
/-- Entries of a VF's remote-launch queue (R27): accepted and not admitted. -/
def remoteCount (m : Mach) (vfn : Nat) : Nat := (m.sys.launches.filter fun e => e.2.vf == vfn && e.2.qidx == 8 && decide (e.2.st < 2)).length

/-- What the check of a packet comes to. -/
inductive PktEnd where
  | waits
  | done (m : Mach)
/-- A packet whose SEQ is next: checked as an INVOKE is, accepted or refused; STATUS 3 also when the queue is full. -/
def processPkt (m : Mach) (port : Nat) (b : List Byte) : PktEnd :=
  let vfn := pktVf b
  let v := m.vf vfn
  let no := fun (s : Nat) => PktEnd.done (keepReport m port b (reportBytes b s 0 0 0))
  if !pktForm b then no 5
  else if vfn = 0 ∨ 512 < vfn ∨ !v.live ∨ v.part ≠ pktPart b ∨ 4 ≤ v.mig ∨ vfClosing m vfn then no 1
  else
    match residency m vfn (2 ^ 64 - 1) (pktSlot b) with
    | .waits => .waits
    | .fail s => no (if s = 2 then 5 else s)
    | .ok =>
      if 32 ≤ remoteCount m vfn then no 3
      else
        let gen := (m.slot vfn (pktSlot b)).cur
        let bufs := (List.range (byteAt b 22)).map fun k => leAt b (64 + 8 * k) 8
        let r := acceptLaunch m vfn 8 (pktSlot b) (effPrio m vfn (byteAt b 21) 7) gen 0 bufs ⟨2, 0, 0, 0⟩
        .done (keepReport r.2 port b (reportBytes b 0 0 gen (r.2.launch r.1).inv))

/-- A packet of an authorised sender, by its SEQ (R26); it waits behind an earlier one of its sender that waits. -/
def seqPkt (m : Mach) (port : Nat) (b : List Byte) : PktEnd :=
  let p := m.partn (pktPart b)
  let last := p.lastOf (pktSender b)
  let back := cntDiff last (pktSeq b)
  let kept := p.keptOf (pktSender b)
  if pktSeq b = (last + 1) % 2 ^ 32 then processPkt m port b
  else if back < 2 ^ 31 then
    match if back < 64 then kept.find? fun r => leAt r 4 4 == pktSeq b else none with
    | some r => .done (sendReport m port b (reportBytes b 6 (byteAt r 3) (leAt r 12 4) (leAt r 16 8)))
    | none => .done (sendReport m port b (reportBytes b 6 0xFF 0 0))
  else .done (sendReport m port b (reportBytes b 7 0 0 0))

/-- A launch packet has arrived. -/
def launchPkt (m : Mach) (port : Nat) (b : List Byte) : Mach :=
  let part := pktPart b
  let p := m.partn part
  if leAt b 0 2 ≠ 0x4C01 ∨ byteAt b 2 ≠ 1 then sendReport m port b (reportBytes b 5 0 0 0)
  else if 32 ≤ part ∨ !p.used ∨ !(p.senders.any fun e => e.2.toNat == pktSender b) then sendReport m port b (reportBytes b 2 0 0 0)
  else
    let wait := m.setPart part { p with waiting := p.waiting ++ [⟨port, pktSender b, pktSeq b, b⟩] }
    if p.waiting.any fun k => k.sender == pktSender b then wait
    else
      match seqPkt m port b with
      | .waits => wait
      | .done m => m

/-- LAUNCH_PACKET: over UALink a whole message is one write at a 256-byte-aligned offset of a partition's mailbox; over Ultra
Ethernet one message. Any other write is discarded. -/
def launchIn (m : Mach) (port addr : Nat) (b : List Byte) : Mach :=
  let base := 2 ^ 56
  let box := (addr - base) / 4096
  let ua := port < 4
  if ua ∧ (addr < base ∨ 32 ≤ box ∨ addr % 256 ≠ 0) then m
  else if b.length = 192 then launchPkt m port b
  else if b.length = 32 ∧ ua then
    if leAt b 0 2 = 0x4C20 then forwardedWrite m box b else if leAt b 0 2 = 0x4C21 then forwardEnd m box b else m
  else m

/-- LAUNCH_PACKET_RECHECK: the packets that wait are checked again in order; those of a sender whose first waits stay
behind it. -/
def recheck (m : Mach) (part : Nat) : Mach :=
  let ws := (m.partn part).waiting
  let m := m.setPart part { m.partn part with waiting := [] }
  ws.foldl (fun m k =>
    let p := m.partn part
    let stay := m.setPart part { p with waiting := p.waiting ++ [k] }
    if p.waiting.any fun x => x.sender == k.sender then stay
    else
      match seqPkt m k.port k.msg with
      | .waits => stay
      | .done m => m) m

/-- LAUNCH_PACKET (R26). -/
def execLaunchPacket (st : State) : Res := runEvent (fun x m => launchIn m x.a x.b x.bytes) st
/-- LAUNCH_PACKET_RECHECK (R27). -/
def execLaunchPacketRecheck (st : State) : Res := runEvent (fun x m => if (m.partn x.a).used then recheck m x.a else m) st

end Sys2Proof.Machine
end

