-- ==== Sys2Proof/Machine/Waits.lean ====
section
/-!
DEFINITION. What an agent waits for before its next bundle (15 R372; 18 R443, R444, R447, R458-R460): starting a wait,
whether it is over, and what its end does.
-/
namespace Sys2Proof.Machine

/-- The agent waits from its next bundle on; a second wait of one bundle comes after the first (R443). -/
def waitFor (w : Wait) : Exec Unit := modM fun m => m.modCtl fun c =>
  if c.wait = .none then { c with wait := w } else { c with wait2 := w }

/-! ### Events of WAITE (Table 18-5) -/

/-- Pending bits of an agent: edges kept, levels as they stand. -/
def eventBits (m : Mach) (a : Nat) : Nat :=
  let c := m.agent a
  if isTileAgent a then
    let qi := c.eng.hq.any fun e => e.2.bound && e.2.cons == 5 && e.2.items != []
    (c.ctl.ev &&& 0x15) ||| (if qi then 2 else 0) ||| (if bit (c.csr true 0x019) 11 then 8 else 0)
  else
    let p := a - 1152
    (c.ctl.ev &&& 0x16) ||| (if m.ccCsr p csrFLTP != m.ccCsr p csrFLTC then 1 else 0) ||| (if (m.panel p).wd then 8 else 0)
/-- Write the scalar a wait ends with; a port's queue receives an item. -/
def Mach.setResult (m : Mach) (d : Nat) (v : Dword) : Mach :=
  if m.isTile ∧ 60 ≤ d then
    match m.core.portQueue true (d - 60) with
    | some n => pushHq m m.me n ⟨v.setWidth 2048, false⟩ 0
    | none => m
  else m.modCore fun c => c.setS d ⟨v, false⟩

/-! ### The end of a wait -/

/-- GCOND on a tile stores its value in the condition word of the task's graph; a missing mapping freezes the gang. -/
def gcondStore (m : Mach) (a b : Dword) : Mach × Bool :=
  let l := m.launch m.myTask.launch
  let g := m.run l.origin.a
  let va := g.cw + 8 * bits a 7 0
  match translateAll m m.me m.myPart 0 accWrite (pageSpans va 8) with
  | (.ok ps, m') =>
    if m.stalled ps then (m, false)
    else (ps.foldl (fun m p => noteHbmWrite m p.1 p.2) (hbmWriteAll m' m.myPart ps (leBytes b.toNat 8)), true)
  | (.error (v, w), _) => (tileFault m m.me 0 accWrite v w, false)

/-- The machine past a wait of its agent, with whether the wait is over. -/
def endOne (m : Mach) : Mach × Bool :=
  let go := fun (m : Mach) => (m.modCtl fun c => { c with wait := c.wait2, wait2 := .none }, true)
  match m.core.ctl.wait with
  | .none => (m, true)
  | .sem _ p i _ =>
    let s := m.sem p i
    if s.granted.contains m.me then go (m.setSem p i (semTake s m.me)) else (m, false)
  | .resp => if m.core.ctl.resp = [] then go m else (m, false)
  | .bar l n => if m.core.phaseReached l n then go m else (m, false)
  | .fence _ => if m.core.globalQuiet && m.core.ctl.resp == [] then go m else (m, false)
  | .event d mask _ =>
    let e := eventBits m m.me &&& mask
    if e = 0 then (m, false)
    else
      let clr := e &&& (if m.isTile then 0x15 else 0x16)
      go ((m.setResult d (dw e)).modCtl fun c => { c with ev := c.ev - (c.ev &&& clr) })
  | .gcond a b =>
    if m.core.globalQuiet && m.core.ctl.resp == [] then
      let r := gcondStore m a b
      if r.2 then go r.1 else r
    else (m, false)
  | .yielded => (m, false)
  | .done => (m, false)
  | .ended => (m, false)
  | .halt => (m, false)
/-- The machine past the waits of its agent, or as far as it got, with whether the agent can go on. -/
def endWait (m : Mach) : Mach × Bool :=
  let r := endOne m
  if r.2 && r.1.core.ctl.wait != .none then endOne r.1 else r

/-- WAITE_TIMEOUT: the time-out passed with no event: flag in bit 63 (R459). -/
def waiteLate (m : Mach) (a : Nat) : Mach :=
  match (m.agent a).ctl.wait with
  | .event d mask (some t) =>
    if t ≤ m.sys.ns ∧ eventBits m a &&& mask = 0 then
      let f := fun (x : Mach) => (x.setResult d (dw (2 ^ 63))).modCtl fun c => { c with wait := c.wait2, wait2 := .none }
      if a = m.me then f m
      else
        let x := f { me := a, core := m.agent a }
        m.setAgent a x.core
    else m
  | _ => m

/-- WAITE_TIMEOUT (R459). -/
def execWaiteTimeout (st : State) : Res := runEvent (fun x m => waiteLate m x.a) st

end Sys2Proof.Machine
end

