-- ==== Sys2Proof/Machine/Privileged.lean ====
section
/-!
DEFINITION. Privileged words of the command cores (18_system_and_sync_instructions R461-R470; 17 R440; 04 R107-R110):
gangs, sites, protection windows, translations, keys, slots, queues, and the watchdog.
-/
namespace Sys2Proof.Machine

/-- Sixty-four-bit values with reserved bits: illegal instruction with the value (R461). -/
def needForm (ok : Bool) (v : Dword) : Exec Unit := need ok 0x01 v
/-- Bytes of the core's own memory at an operand: tag 0x8, aligned, within the reach of the level. -/
def ownBytes (x : Dword) (n align : Nat) : Exec Nat := do
  need (tagOfAddr x == 8 && x.toNat % align == 0 && decide (offOf x + n ≤ 0x40000)) 0x0B x
  let m ← getM
  need (m.level == 2 || decide (offOf x + n ≤ 0x30000)) 0x0E x
  if errIn m.core 9 (offOf x) n ≥ 2 then stop (.restart (offOf x) n)
  else do
    modM fun m => noteRead m m.me 9 (offOf x) n
    pure (offOf x)
/-- The partition of the issuing core. -/
def Mach.corePart (m : Mach) : Option Nat := (m.panel (m.me - 1152)).part

/-! ### Gangs (R462) -/

/-- The launch a gang name gives, the admitted one first. -/
def launchNamed (m : Mach) (inv : Nat) : Option Nat :=
  let ks := m.sys.launches.filter fun e => some e.2.part == m.corePart && keyInv e.1 == inv
  match ks.find? fun e => e.2.st == 2 with
  | some e => some e.1
  | none => ks.head?.map Prod.fst
def gangNamed (m : Mach) (v : Dword) : Option (Nat × Nat) :=
  (launchNamed m (bits v 39 16)).bind fun k => if bits v 15 0 < (m.launch k).img.g then some (k, bits v 15 0) else none
/-- A word on a gang: the machine and its code. -/
def gangWord (d a : Nat) (f : Mach → Nat → Nat → Mach × Nat) : Exec Unit :=
  orLate (do
    let x ← rdClean a
    needForm (bits x 63 40 == 0) x
    let m ← getM
    match gangNamed m x with
    | none => wrS d ⟨1, false⟩ 1
    | some (k, g) => do
      let r := f m k g
      modM fun _ => r.1
      wrS d ⟨dw r.2, false⟩ 1) lateTrap
def stoppedGang (m : Mach) (k g : Nat) : Bool :=
  let s := ((m.launch k).gang g).st
  s == 2 || s == 3
def doFrz (soft : Bool) (m : Mach) (k g : Nat) : Mach × Nat :=
  let gg := (m.launch k).gang g
  if gg.st ≠ 1 ∨ (soft ∧ gg.askedAt.isSome) then (m, 2)
  else (if soft then yieldGang m k g 0 else freezeGang m k g 0, 0)
def doPark (m : Mach) (k g : Nat) : Mach × Nat :=
  match saveGang m k g with
  | some m => (m, 0)
  | none => (m, 2)

/-- The holder of sites that a command core reserved. -/
def ccHolder (cc : Nat) : Nat := 2 ^ 200 + cc
/-- Thaw of a stopped gang in place (Table 18-6). -/
def thawIn (m : Mach) (k g : Nat) : Mach × Nat :=
  if !inPlace m k g then (m, 4)
  else if !mayThaw m k g ((m.launch k).gang g).die then (m, 3)
  else (thawHere m k g, 0)
/-- Thaw on sites that the core holds committed. -/
def thawTo (m : Mach) (k g die oy ox : Nat) : Mach × Nat :=
  let l := m.launch k
  let gg := l.gang g
  let fits := decide (oy + l.img.h ≤ 12) && decide (ox + l.img.w ≤ 12)
  if !mayThaw m k g die ∨ (gg.kind ≠ 4 ∧ gg.die ≠ die) then (m, 3)
  else if !fits ∨ !(rectSites l.img.w l.img.h (die, oy, ox)).all fun a =>
      (m.site a).rst == 2 && (m.site a).holder == ccHolder m.me && (m.site a).occ == none then (m, 4)
  else
    match if gg.saved then some m else saveGang m k g with
    | some m => (thawAt m k g die oy ox, 0)
    | none => (m, 2)
def doThaw (b : Dword) (m : Mach) (k g : Nat) : Mach × Nat :=
  if !stoppedGang m k g || faultPending m k g || ((m.launch k).gang g).toPhase || gangCrashed m k g then (m, 2)
  else if bit b 63 then thawTo m k g (bits b 22 20) (bits b 19 16) (bits b 15 12)
  else thawIn m k g
def thawWord (d a b : Nat) : Exec Unit :=
  orLate (do
    let y ← rdClean b
    needForm (bits y 62 23 == 0 && bits y 11 0 == 0 && (!bit y 63 || (decide (bits y 19 16 ≤ 11) && decide (bits y 15 12 ≤ 11)))) y
    gangWord d a (doThaw y)) lateTrap

/-! ### Sites (R463, R464) -/

/-- A site's word for SITEQ (Table 18-7). -/
def siteWord (m : Mach) (a : Nat) : Nat :=
  let s := m.site a
  if (m.panel (panelOfSite a)).part ≠ m.corePart ∨ m.corePart = none then 5
  else if !siteOn m a then 4
  else
    let k := (m.agent a).ctl
    s.rst + s.tst * 16 + (match s.occ with
      | some t => (if k.blockAt.isSome then 128 else 0) + (m.launch t.launch).vf * 2 ^ 8 + keyInv t.launch * 2 ^ 18 + t.task * 2 ^ 42
      | none => 0)
def siteqWord (d a : Nat) : Exec Unit :=
  orLate (do
    let x ← rdClean a
    needForm (bits x 63 23 == 0 && bits x 11 0 == 0 && decide (bits x 19 16 ≤ 11) && decide (bits x 15 12 ≤ 11)) x
    let m ← getM
    wrS d ⟨dw (siteWord m (siteOf (bits x 22 20) (bits x 19 16) (bits x 15 12))), false⟩ 1) lateTrap

/-- Place tentative holds in ascending order (R123): none when one is refused. -/
def holdSites (m : Mach) (holder : Nat) (as : List Nat) : Option Mach :=
  as.foldl (fun om a => om.bind fun m =>
    let s := m.site a
    if s.rst = 0 then some (m.setSite a { s with rst := 1, holder := holder })
    else if s.rst = 1 ∧ s.holder = holder then some m
    else if s.rst = 3 then (claimSite m a).map fun m => m.setSite a { m.site a with rst := 1, holder := holder }
    else none) (some m)
/-- The sites that a refused word's own holds leave: what it claimed is FREE. -/
def heldUpTo (m : Mach) (holder : Nat) (as : List Nat) : Mach :=
  -- every prefix that could be held is held and released again, so claims made before the refusal stay made
  as.foldl (fun (st : Mach × Bool) a =>
    if !st.2 then st
    else
      let m := st.1
      let s := m.site a
      if s.rst = 0 ∨ (s.rst = 1 ∧ s.holder = holder) then st
      else if s.rst = 3 then match claimSite m a with
        | some m => (m, true)
        | none => (m, false)
      else (m, false)) (m, true) |>.1
def doSitec (m : Mach) (op : Nat) (as : List Nat) : Mach × Nat :=
  let h := ccHolder m.me
  let mine := fun (rst a : Nat) => (m.site a).rst == rst && (m.site a).holder == h && (m.site a).occ == none
  if op = 0 then
    match holdSites m h as with
    | some m => (m, 0)
    | none => (heldUpTo m h as, 1)
  else if op = 1 then
    if as.all (mine 1) then (as.foldl (fun m a => m.setSite a { m.site a with rst := 2 }) m, 0) else (m, 3)
  else if as.all fun a => mine 1 a || mine 2 a then
    (as.foldl (fun m a => m.setSite a { m.site a with rst := 0, holder := 0 }) m, 0)
  else (m, 3)
def sitecWord (d a b : Nat) : Exec Unit :=
  orLate (do
    let x ← rdClean a
    let y ← rdClean b
    needForm (bits x 63 23 == 0 && bits x 3 0 == 0 && decide (bits x 19 16 ≤ 11) && decide (bits x 15 12 ≤ 11) &&
      decide (bits x 11 8 ≤ 11) && decide (bits x 7 4 ≤ 11)) x
    needForm (decide (y.toNat ≤ 2)) y
    let m ← getM
    let o := (bits x 22 20, bits x 19 16, bits x 15 12)
    let w := bits x 11 8 + 1
    let h := bits x 7 4 + 1
    let ok := decide (o.2.1 + h ≤ 12) && decide (o.2.2 + w ≤ 12) && m.corePart.isSome &&
      (rectSites w h o).all fun a => (m.panel (panelOfSite a)).part == m.corePart && siteOn m a
    if ok then do
      let r := doSitec m y.toNat (rectSites w h o)
      modM fun _ => r.1
      wrS d ⟨dw r.2, false⟩ 1
    else wrS d ⟨2, false⟩ 1) lateTrap

/-! ### Protection, translation, keys (R465-R467) -/

def pmpwWord (n a b : Nat) : Exec Unit :=
  orLate (do
    let x ← rdClean a
    let y ← rdClean b
    modM fun m =>
      if pmpLocked m (m.me - 1152) n then m
      else (m.setCsr (0x820 + n) (x &&& 0xFFFFFFFFFFFFFF1F)).setCsr (0x830 + n) (y &&& 0xFFFFFFFFFFFFF000)) lateTrap
def tlbiWord (a b : Nat) : Exec Unit :=
  orLate (do
    let x ← rdClean a
    let n ← rdClean b
    need (bits x 63 49 == 0 && (n != 0 || bits x 48 0 == 0)) 0x0B x
    modM fun m => match m.corePart with
      | some p => flushTlbs m p fun e => n == 0 || (decide (e.va < offOf x + n.toNat) && decide (offOf x < e.va + e.size))
      | none => m) lateTrap
def keylWord (a b : Nat) : Exec Unit :=
  orLate (do
    let x ← rdClean a
    let y ← rdClean b
    needForm (bits y 63 9 == 0) y
    let o ← ownBytes x 64 64
    modM fun m =>
      let k := m.core.mem.sm.readNat o 64
      (noteWrite (m.modMem fun c => { c with sm := c.sm.zero o 64 }) m.me 9 o 64).onSys fun s =>
        { s with keys := SMap.set (fun _ => 0) s.keys (bits y 8 0) k }) lateTrap

/-! ### Slots and queues (R468, R469, R440) -/

/-- The record SLOTB installs: the slot's state and current generation. -/
def installSlot (s : Slot) (r : List Byte) : Slot :=
  let g := leAt r 24 4
  let users := match s.wgen g with
    | some w => w.users
    | none => []
  if byteAt r 28 = 0 then {}
  else { s with st := byteAt r 28, nti := leAt r 0 8, cur := g,
                gens := (s.gens.filter fun w => w.gen != g) ++
                  [{ gen := g, waddr := leAt r 8 8, wlen := leAt r 16 8, users := users }] }
def slotbWord (d a b : Nat) : Exec Unit :=
  orLate (do
    let x ← rdClean a
    let y ← rdClean b
    let m ← getM
    let vfn := bits x 9 0
    needForm (bits x 63 22 == 0 && bits x 15 10 == 0 && decide (1 ≤ vfn) && decide (vfn ≤ 512) && (m.vf vfn).live &&
      some (m.vf vfn).part == m.corePart) x
    let o ← ownBytes y 32 32
    let r := m.core.mem.sm.readList o 32
    needForm (decide (byteAt r 28 ≤ 3) && zeroAt r 29 3) y
    let s := m.slot vfn (bits x 21 16)
    modM fun m => m.setSlot vfn (bits x 21 16) (installSlot s r)
    wrS d ⟨dw (if s.st = 0 then 0 else s.cur), false⟩ 1) lateTrap
def qcbbWord (d a b : Nat) : Exec Unit :=
  orLate (do
    let x ← rdClean a
    let y ← rdClean b
    needForm (x.toNat % 64 == 0) x
    needForm (bits y 63 29 == 0 && bits y 23 22 == 0 && bits y 15 10 == 0) y
    let m ← getM
    let vfn := bits y 9 0
    let part := if vfn = 0 then bits y 28 24 else (m.vf vfn).part
    let r := if m.corePart = some part then qbDo m (bits y 21 20) vfn (bits y 28 24) (bits y 19 16) x.toNat else (m, 6)
    modM fun _ => r.1
    wrS d ⟨dw (if r.2 = 0 then 2 else r.2 * 256 + 3), false⟩ 1) lateTrap
/-- What DMAQ answers for a queue and an entry. -/
def dmaqCode (m : Mach) (k : Nat) (e : List Byte) : Nat :=
  let q := m.queue k
  let v := m.vf (k / 16)
  if k % 16 ≥ 8 ∨ k / 16 = 0 ∨ !v.live ∨ some v.part ≠ m.corePart ∨ q.st ≠ 1 ∨ q.kind ≠ 1 then 1
  else if byteAt e 0 ≠ 6 then 2
  else if 16 ≤ q.dmaq.length then 3
  else 0
def dmaqWord (d a b : Nat) : Exec Unit :=
  orLate (do
    let x ← rdClean a
    let y ← rdClean b
    need (bits y 63 20 == 0 && bits y 15 10 == 0 && decide (bits y 9 0 ≤ 512)) 0x0B y
    let o ← ownBytes x 64 64
    let m ← getM
    let e := m.core.mem.sm.readList o 64
    let k := queueKey (bits y 9 0) (bits y 19 16)
    let c := dmaqCode m k e
    if c = 0 then modM fun m => m.setQueue k { m.queue k with dmaq := (m.queue k).dmaq ++ [e] } else pure ()
    wrS d ⟨dw c, false⟩ 1) lateTrap

/-! ### Watchdog (R110) -/

/-- WATCHDOG_EXPIRY: WDCNT reached zero, or the core is halted. -/
def watchdog (m : Mach) (p : Nat) : Mach :=
  let x := m.panel p
  if 32 ≤ p then m
  else if (m.agent (ccOf p)).ctl.wait = .halt then ccRestart m p 2
  else if m.sys.ns < x.wdAt then m
  else if x.wd then ccRestart m p 0
  else m.setPanel p { x with wd := true, wdAt := x.wdAt + 1000 * max 10 (bits (m.ccCsr p 0x814) 15 0) }

/-- FRZ (R462). -/
def execFrz (d : BitVec 6) (a : BitVec 6) (y : BitVec 1) (st : State) : Res :=
  word (.frz d a y) (gangWord (fld d) (fld a) (doFrz (y == 1))) st
/-- THAW (R462). -/
def execThaw (d : BitVec 6) (a : BitVec 6) (b : BitVec 6) (st : State) : Res :=
  word (.thaw d a b) (thawWord (fld d) (fld a) (fld b)) st
/-- PARK (R462). -/
def execPark (d : BitVec 6) (a : BitVec 6) (st : State) : Res := word (.park d a) (gangWord (fld d) (fld a) doPark) st
/-- PMPW (R465). -/
def execPmpw (n : BitVec 4) (a : BitVec 6) (b : BitVec 6) (st : State) : Res :=
  word (.pmpw n a b) (pmpwWord (fld n) (fld a) (fld b)) st
/-- TLBI (R466). -/
def execTlbi (a : BitVec 6) (b : BitVec 6) (st : State) : Res := word (.tlbi a b) (tlbiWord (fld a) (fld b)) st
/-- KEYL (R467). -/
def execKeyl (a : BitVec 6) (b : BitVec 6) (st : State) : Res := word (.keyl a b) (keylWord (fld a) (fld b)) st
/-- SLOTB (R468). -/
def execSlotb (d : BitVec 6) (a : BitVec 6) (b : BitVec 6) (st : State) : Res :=
  word (.slotb d a b) (slotbWord (fld d) (fld a) (fld b)) st
/-- SITEQ (R464). -/
def execSiteq (d : BitVec 6) (a : BitVec 6) (st : State) : Res := word (.siteq d a) (siteqWord (fld d) (fld a)) st
/-- SITEC (R463). -/
def execSitec (d : BitVec 6) (a : BitVec 6) (b : BitVec 6) (st : State) : Res :=
  word (.sitec d a b) (sitecWord (fld d) (fld a) (fld b)) st
/-- QCBB (R469). -/
def execQcbb (d : BitVec 6) (a : BitVec 6) (b : BitVec 6) (st : State) : Res :=
  word (.qcbb d a b) (qcbbWord (fld d) (fld a) (fld b)) st
/-- DMAQ (R440). -/
def execDmaq (d : BitVec 6) (a : BitVec 6) (b : BitVec 6) (st : State) : Res :=
  word (.dmaq d a b) (dmaqWord (fld d) (fld a) (fld b)) st
/-- HALT (R470). -/
def execHalt (st : State) : Res := word .halt (waitFor .halt) st
/-- WATCHDOG_EXPIRY (R110). -/
def execWatchdogExpiry (st : State) : Res := runEvent (fun x m => watchdog m x.a) st

end Sys2Proof.Machine
end

