-- ==== Sys2Proof/Machine/Replies.lean ====
section
/-!
DEFINITION. K words in the order of execution (13 R316, R323), and what comes back from the homes: results of global
accesses (15 R363, 08 R193) and answers to ownership words (15 R368-R370, 10 R252).
-/
namespace Sys2Proof.Machine

/-! ### Bundle header and extension -/

/-- BH: the profile and the stamp of its bundle. -/
def bhWord (s v : BitVec 1) (p : BitVec 8) (t : BitVec 16) : Exec Unit :=
  modB fun b => { b with prof := if v = 1 then some p.toNat else none, stamp := if s = 1 then some t.toNat else none }
/-- KX: the high bits of the immediate of the word it follows, which executes after it. -/
def kxWord (i : BitVec 26) : Exec Unit := modB fun b => { b with ext := some i }

/-! ### Results of global accesses -/

/-- The queue that a result through a port would enter, if it is full. -/
def respBlocked (c : Core) (r : Resp) : Bool :=
  match r.kind with
  | 0 => false
  | 1 => false
  | k => match c.portQueue (k == 3) r.dst with
    | some n => decide (hqDepth n ≤ (c.hq n).items.length)
    | none => false
/-- A result is written: usable from now on; one for a port enters its queue. -/
def writeResp (m : Mach) (a : Nat) (r : Resp) : Mach :=
  let ready := fun (m : Mach) (k : Nat) => m.modAgent a fun c => c.modCtl fun x => { x with rdy := SMap.set (fun _ => 0) x.rdy k x.cyc }
  match r.kind with
  | 0 => ready (m.modAgent a fun c => c.setS r.dst ⟨r.row.v.setWidth 64, r.row.p⟩) (rdyS r.dst)
  | 1 => ready (crowWrite m a r.dst r.row) (rdyRow r.dst)
  | k => match (m.agent a).portQueue (k == 3) r.dst with
    | some n => pushHq m a n r.row 0
    | none => m
/-- The first access in a list that still has to be carried out gives its result, or nothing where it has no destination. -/
def answered (x : RowP) (l : List Resp) : List Resp :=
  match l with
  | [] => []
  | r :: t => if r.todo.isNone then r :: answered x t else if r.kind = 4 then t else { r with row := x, todo := none } :: t
/-- An access of a word that could not be carried out when its bundle issued is tried again (R159, R179). A refusal of its rights is
the ownership trap before the next bundle, and the access waits for TRET (log 84). -/
def carryOut (m : Mach) (a : Nat) (t : Todo) : Mach :=
  let k := (m.agent a).ctl
  let give := fun (m : Mach) (x : RowP) => m.modAgent a fun c => c.modCtl fun k => { k with resp := answered x k.resp }
  match translateAll m a k.part 0 t.acc (pageSpans (offOf t.ea) t.n) with
  | (.error (v, w), _) => if t.spec then give m ⟨0, true⟩ else tileFault m a 0 t.acc v w
  | (.ok ps, m') =>
    if m.stalled ps then m
    else if rightsOk m k.part k.vf (k.task.getD ⟨0, 0⟩) t.use ps then
      let r := perform m' k.part t ps
      give r.2 r.1
    else if t.spec then give m ⟨0, true⟩
    else (engineTrap m a 0x05 t.ea 8).modAgent a fun c => c.modEng fun e => { e with thalt := true }
/-- MEMORY_RESPONSE: the first result that can be written is, else the first access still to be carried out; a stopped task's stay in
the inbox (R165). -/
def memoryResponse (m : Mach) (a : Nat) : Mach :=
  let c := m.agent a
  if isTileAgent a ∧ !m.runs a then m
  else
    match c.ctl.resp.find? fun r => r.todo.isNone && !respBlocked c r with
    | some r => writeResp (m.modAgent a fun c => c.modCtl fun k => { k with resp := k.resp.erase r }) a r
    | none =>
      match if c.eng.thalt then none else c.ctl.resp.findSome? fun r => r.todo with
      | some t => carryOut m a t
      | none => m

/-! ### Answers to ownership words -/

/-- The home carries a request out, once every copy checked against the region has completed; the region and the reply. -/
def homeAnswer (m : Mach) (c : Core) (r : OwnReq) : Option (Mach × OwnReq) :=
  match c.ctl.task with
  | none => none
  | some t =>
    let part := c.ctl.part
    if r.op ≠ 4 ∧ regionHeld m part r.reg then none
    else
      match ownChange r.op r.arg c.ctl.vf t (m.region part r.reg) with
      | some (e, v) => some (if r.op = 4 then m else m.setRegion part r.reg e, { r with reply := some (false, dw v) })
      | none => some (m, { r with reply := some (true, r.ea) })
/-- The request of a context that its home has and has not answered. -/
def Core.asks (c : Core) : Option OwnReq :=
  match c.ctl.own with
  | some r => if r.reply.isNone && r.sent.isSome then some r else none
  | none => none
/-- A request comes before another of its region when it arrived earlier, or with it from a lower task (R252). -/
def asksFirst (c d : Core) : Bool :=
  match c.asks, d.asks with
  | some r, some q =>
    let t := fun (c : Core) => (c.ctl.task.getD ⟨0, 0⟩).task
    c.ctl.part == d.ctl.part && r.reg == q.reg && (decide (r.sent.getD 0 < q.sent.getD 0) || (r.sent == q.sent && decide (t c < t d)))
  | _, _ => false
/-- Whether the home has an earlier request for the region of a context's. -/
def asksBehind (m : Mach) (c : Core) : Bool :=
  asksFirst m.core c || (m.rest.any fun e => asksFirst e.2 c) || m.sys.saved.any fun e => asksFirst e.2.core c
/-- OWNERSHIP_REPLY: to the task on a site, or to one saved off it (R369). -/
def ownershipReply (m : Mach) (a : Nat) : Mach :=
  let asks := fun (c : Core) => if asksBehind m c then none else c.asks
  let put := fun (c : Core) (r : OwnReq) => c.modCtl fun k => { k with own := some r }
  match asks (m.agent a) with
  | some r =>
    match homeAnswer m (m.agent a) r with
    | some (m, r) => m.modAgent a fun c => put c r
    | none => m
  | none =>
    match m.sys.saved.find? fun e => e.2.site == a && (asks e.2.core).isSome with
    | some e =>
      match (asks e.2.core).bind fun r => homeAnswer m e.2.core r with
      | some (m, r) => m.onSys fun s => { s with saved := s.saved.map fun x => if x.1 = e.1 then (x.1, { x.2 with core := put x.2.core r }) else x }
      | none => m
    | none => m

/-- BH (R323). -/
def execBh (s : BitVec 1) (v : BitVec 1) (p : BitVec 8) (t : BitVec 16) (st : State) : Res :=
  word (.bh s v p t) (bhWord s v p t) st
/-- KX (R316). -/
def execKx (i : BitVec 26) (st : State) : Res := word (.kx i) (kxWord i) st
/-- MEMORY_RESPONSE (R363). -/
def execMemoryResponse (st : State) : Res := runEvent (fun x m => memoryResponse m x.a) st
/-- OWNERSHIP_REPLY (R368). -/
def execOwnershipReply (st : State) : Res := runEvent (fun x m => ownershipReply m x.a) st

end Sys2Proof.Machine
end

