-- ==== Sys2Proof/Machine/System.lean ====
section
/-!
DEFINITION. System and synchronisation words that every level may use (18_system_and_sync_instructions R443-R460): NOP,
barriers, fences, poison checks, traps and returns, yielding, switching, ending, waiting for events, graph conditions.
-/
namespace Sys2Proof.Machine

/-! ### Barriers (R444-R446) -/

/-- The count that completion of a level will bring. -/
def nextPhase (m : Mach) (l : Nat) : Nat := (bits (m.csr (0x034 + l)) 31 0 + 1) % 2 ^ 32
/-- Ask for the arrival at a level, unless it is recorded or asked for. -/
def askArrival (m : Mach) (l : Nat) : Mach :=
  if (m.core.ctl.arrReq.any fun x => x.1 == l) || arrived m m.myTask l then m
  else (m.modCtl fun c => { c with arrReq := (l, m.core.eng.seq) :: c.arrReq }).modEng fun e => { e with seq := e.seq + 1 }
/-- A level-3 barrier needs a domain. -/
def needDomain (l : Nat) : Exec Unit := do
  let m ← getOld
  needWord (l != 3 || (m.launch m.myTask.launch).img.domid != 0xFFFF) 0x01
/-- BAR after a BARQ of its level that no BAR has joined only waits for the count that the BARQ wrote, and not at all when the phase has
reached it (R446; log 91). -/
def barWord (l : Nat) : Exec Unit := do
  needDomain l
  let m ← getOld
  if l = 0 then modM fun m => m.modCore (bumpPhases 0)
  else
    match m.core.ctl.barq.find? fun x => x.1 == l with
    | some x => do
      modM fun m => m.modCtl fun c => { c with barq := c.barq.filter fun y => y.1 != l }
      waitFor (.bar l x.2)
    | none => do
      modM fun m => askArrival m l
      waitFor (.bar l (nextPhase m l))
def barqWord (d l : Nat) : Exec Unit := do
  needDomain l
  let m ← getOld
  if l = 0 then modM fun m => m.modCore (bumpPhases 0)
  else modM fun x => (askArrival x l).modCtl fun c => { c with barq := (l, nextPhase m l) :: c.barq.filter fun y => y.1 != l }
  wrS d ⟨dw (nextPhase m l), false⟩ 1
/-- Whether a post that the task issued before place `mark` of its order is still unanswered. -/
def Core.postsBefore (c : Core) (mark : Nat) : Bool :=
  c.eng.ch.any fun e => e.2.cmds.any fun x => x.op != 0 && decide (x.id < mark)
/-- BARRIER_ARRIVAL (R261): recorded once the task's earlier posts are written and its ownership words done. -/
def recordArrival (m : Mach) (a l : Nat) : Mach :=
  let c := m.agent a
  match c.ctl.task with
  | some t =>
    if isTileAgent a && (c.ctl.arrReq.any fun x => x.1 == l && !c.postsBefore x.2) && c.ctl.own.isNone then
      phaseDue (arrive (m.modAgent a fun c => c.modCtl fun k => { k with arrReq := k.arrReq.filter fun x => x.1 != l }) t l) t.launch
    else m
  | none => m

/-! ### Poison checks (R448-R450) -/

/-- Whether a register of file `k` is poisoned; one not ready is waited for, or late. -/
def poisonOf (k r : Nat) : Exec Bool :=
  if k = 0 then do
    let x ← rdS r
    pure x.p
  else if k = 1 then do
    let x ← rdV r
    pure x.p
  else do
    let x ← rdP r
    pure x.p
def chkTaken (off : Nat) : Exec Unit := do
  let pc ← pcb
  transfer (relTarget pc (sext 10 off))
  modB fun b => { b with sNext := true }
def chkWord (k r off : Nat) : Exec Unit :=
  orLate (do
    let p ← poisonOf k r
    if p then chkTaken off else pure ()) (chkTaken off)
def chktWord (k r : Nat) : Exec Unit :=
  let no : Exec Unit := raise 0x04 (dw (64 * k + r))
  orLate (do
    let p ← poisonOf k r
    if p then no else pure ()) no
/-- PCLR of a row (R450): of the operations of the matrix engine it waits only for those that write the row. -/
def clearRow (r : Nat) : Exec Unit := do
  let m ← getOld
  let x ← rdV r
  modM fun y => crowWrite y y.me (m.rowOf r) ⟨x.v, false⟩
  setReady (rdyRow (m.rowOf r)) 1
/-- PCLR: a pending write is waited for; in a stamped bundle it is an overrun. -/
def pclrWord (k r : Nat) : Exec Unit :=
  orLate
    (if k = 0 then do
      let x ← rdS r
      wrS r ⟨x.v, false⟩ 1
    else if k = 1 then clearRow r
    else do
      let x ← rdP r
      wrP r ⟨x.v, false⟩ 1) (hold 0)

/-! ### Traps (R451, R454, R455) -/

/-- TRAP and BRK: the number, and the words of the bundle. -/
def trapWord (code n : Nat) : Exec Unit := do
  let b ← getB
  raise code (dw (n + (b.map fun b => b.count).getD 1 * 2 ^ 16))
def tretWord : Exec Unit := do
  let m ← getOld
  needWord (m.isTile || m.level != 0) 0x0E
  modB fun b => { b with sNext := true }
  modM fun x => returnTrap m x
def ecallWord : Exec Unit := do
  let m ← getOld
  needWord (m.level != 2) 0x01
  raise 0x0F 0

/-! ### Yielding, switching, ending (R456-R458) -/

/-- YIELD with a yield pending and no loop active: the task stops after its bundle and resumes at the sequential
successor, whatever else the bundle transfers to (R348, R456). -/
def yieldWord : Exec Unit := do
  let m ← getOld
  if m.core.ctl.yieldReq ∧ m.core.ctl.loop = none then do
    let next ← successor
    sTransfer next
    waitFor .yielded
  else pure ()
/-- SWPT: the variant of the die's level, a fresh frame, and on to its target (R155). -/
def swptWord (k : Nat) : Exec Unit := do
  let m ← getOld
  let img := (m.launch m.myTask.launch).img
  needWord (decide (k ≤ 255) && decide (k < img.sw.length)) 0x01
  let var := variantOf (m.die (dieOf m.me)).lvl
  modM fun m => (m.setCsr 0x043 (dw (4 * var))).modCtl fun c => { c with sfc0 := c.cyc + 1, loop := none }
  sTransfer (dw (img.target k var))
def doneWord : Exec Unit := do
  modM fun m => (m.modCtl fun c => { c with loop := none }).modEng fun e =>
    { e with se := e.se.map fun x => (x.1, if x.2.st = 2 then { x.2 with stop := true } else x.2) }
  waitFor .done
/-- Whether what DONE waits for is over (R458). -/
def Core.doneQuiet (c : Core) : Bool :=
  c.eng.mq == [] && c.eng.fills == [] && (c.eng.ch.all fun e => e.2.cmds == []) && c.eng.wpops == [] && c.eng.pkts == [] &&
    c.eng.posts == [] && !c.hasTodo && (c.eng.colls.all fun e => e.2 % 2 == 0) && (c.eng.se.all fun e => e.2.st != 2)
/-- TASK_DONE: the task has executed DONE; it counts as arrived everywhere, and its gang may end (R117). -/
def taskDone (m : Mach) (a : Nat) : Mach :=
  let c := m.agent a
  match c.ctl.task with
  | some t =>
    if m.runs a && c.ctl.wait == .done && c.doneQuiet then
      let l := m.launch t.launch
      let g := l.gangOf t.task
      let m := m.modAgent a fun c => c.modCtl fun k => { k with wait := .ended, blockAt := some m.sys.ns }
      if (l.gangTasks g).all fun u => taskIsDone m ⟨t.launch, u⟩ then
        let m := endGang m t.launch g
        if m.hasLaunch t.launch then phaseDue (tryBarrier (tryBarrier m t.launch g 2) t.launch g 3) t.launch else m
      else phaseDue (tryBarrier (tryBarrier (tryBarrier m t.launch g 1) t.launch g 2) t.launch g 3) t.launch
    else m
  | none => m

/-! ### Waiting for events, graph conditions (R459, R460) -/

def waiteWord (d a mask : Nat) : Exec Unit :=
  orLate (do
    let x ← rdClean a
    let m ← getOld
    needWord (mask < 32 && (mask != 0 || x != 0)) 0x01
    need (bits x 63 32 == 0) 0x01 x
    needWord (m.isTile || !nbit mask 3 || m.level == 2) 0x0E
    if m.isTile ∧ 60 ≤ d then
      match m.core.portQueue true (d - 60) with
      | some n => if (m.hq n).prod ≠ 8 then raiseWord 0x07 else if (m.hq n).items.length ≥ hqDepth n then hold 0 else pure ()
      | none => raiseWord 0x07
    else if d = 0 then pure ()
    else settle 0 d (rdyS d)
    waitFor (.event d mask (if x = 0 then none else some (m.sys.ns + 1000 * x.toNat)))) lateTrap
def gcondWord (a b : Nat) : Exec Unit :=
  orLate (do
    let x ← rdClean a
    let y ← rdClean b
    let m ← getOld
    if m.isTile then do
      need (bits x 63 8 == 0) 0x0B x
      need ((m.launch m.myTask.launch).origin.kind == 1) 0x05 x
      waitFor (.gcond x y)
    else do
      need (tagOfAddr x == 0) 0x0B x
      match ← reachCC ⟨x, false⟩ 8 8 accWrite false with
      | some r => putBytes x r (leBytes y.toNat 8)
      | none => pure ()) lateTrap

/-- NOP. -/
def execNop (st : State) : Res := word .nop (pure ()) st
/-- BAR (R444). -/
def execBar (v : BitVec 2) (st : State) : Res := word (.bar v) (barWord (fld v)) st
/-- BARQ (R446). -/
def execBarq (d : BitVec 6) (v : BitVec 2) (st : State) : Res := word (.barq d v) (barqWord (fld d) (fld v)) st
/-- FENCE (R447). -/
def execFence (s : BitVec 3) (st : State) : Res := word (.fence s) (waitFor (.fence (fld s))) st
/-- CHK (R448). -/
def execChk (k : BitVec 2) (r : BitVec 6) (i : BitVec 10) (st : State) : Res :=
  word (.chk k r i) (chkWord (fld k) (fld r) (fld i)) st
/-- CHKT (R449). -/
def execChkt (k : BitVec 2) (r : BitVec 6) (st : State) : Res := word (.chkt k r) (chktWord (fld k) (fld r)) st
/-- PCLR (R450). -/
def execPclr (k : BitVec 2) (r : BitVec 6) (st : State) : Res := word (.pclr k r) (pclrWord (fld k) (fld r)) st
/-- TRAP (R451). -/
def execTrap (n : BitVec 12) (st : State) : Res := word (.trap n) (trapWord 0x0C (fld n)) st
/-- BRK (R451). -/
def execBrk (n : BitVec 12) (st : State) : Res := word (.brk n) (trapWord 0x0D (fld n)) st
/-- TRET (R454, R455). -/
def execTret (st : State) : Res := word .tret tretWord st
/-- ECALL (R109, R455). -/
def execEcall (st : State) : Res := word .ecall ecallWord st
/-- YIELD (R456). -/
def execYield (st : State) : Res := word .yield yieldWord st
/-- SWPT (R457). -/
def execSwpt (k : BitVec 12) (st : State) : Res := word (.swpt k) (swptWord (fld k)) st
/-- DONE (R458). -/
def execDone (st : State) : Res := word .done doneWord st
/-- WAITE (R459). -/
def execWaite (d : BitVec 6) (a : BitVec 6) (m : BitVec 6) (st : State) : Res :=
  word (.waite d a m) (waiteWord (fld d) (fld a) (fld m)) st
/-- GCOND (R460). -/
def execGcond (a : BitVec 6) (b : BitVec 6) (st : State) : Res := word (.gcond a b) (gcondWord (fld a) (fld b)) st
/-- BARRIER_ARRIVAL (R261). -/
def execBarrierArrival (st : State) : Res := runEvent (fun x m => recordArrival m x.a x.b) st
/-- TASK_DONE (R458). -/
def execTaskDone (st : State) : Res := runEvent (fun x m => taskDone m x.a) st

end Sys2Proof.Machine
end

