-- ==== Sys2Proof/Machine/Tick.lean ====
section
/-!
DEFINITION. The lifetime tick (09 R219, R223): the passing of time, on which seam timers (11 R280), hotter bands and derate
states (06 R157, R158), the ages of row groups, launch heads (05 R125) and what is reported of blocked gangs (18 R459)
depend.
-/
namespace Sys2Proof.Machine

/-- LIFETIME_TICK: time reaches the next multiple of 500 ns; hotter bands take effect; the groups of running tiles age; what
that makes due follows before anything else. -/
def lifetimeTick (s : State) : State :=
  let m := (headUpdate (seamFireAll s.m)).onSys fun y => { y with ns := (y.ns / 500 + 1) * 500, ticks := y.ticks + 1 }
  let m := heatAll m
  let m := if m.sys.ns % 1000 = 0 then seamTick m else m
  let m := { m with core := if m.seated m.me then ageCore m m.me m.core else m.core,
                    rest := m.rest.map fun e => if m.seated e.1 then (e.1, ageCore m e.1 e.2) else e }
  let mine := if m.seated m.me then dueGroups m m.me m.core else []
  let others := m.rest.flatMap fun e => if m.seated e.1 then dueGroups m e.1 e.2 else []
  { s with m := reportBlocks m, inputs := mine ++ others ++ s.inputs }

/-- LIFETIME_TICK (R219). -/
def execLifetimeTick (st : State) : Res := .next (lifetimeTick st)

end Sys2Proof.Machine
end

