-- ==== Sys2Proof/Machine/Special.lean ====
section
/-!
DEFINITION. The special functions (16 R399, R312, Tables 16-7, 16-8). Special operands and exact results are as the
tables give them; any other result is one of those inside the error bound, and which one is a free value of function,
type and operand, the same on every NY740A (log 8). The bound is kept by computing the exact value to more than 100
bits.
-/
namespace Sys2Proof.Machine

/-- The functions, as `Config.special` numbers them. -/
inductive SpecFn where
  | exp2
  | log2
  | rsq
  | tanh
  | sigm
  | erf
  deriving DecidableEq, Repr

def SpecFn.num (f : SpecFn) : Nat :=
  match f with
  | .exp2 => 0
  | .log2 => 1
  | .rsq => 2
  | .tanh => 3
  | .sigm => 4
  | .erf => 5

/-- Table 16-7. -/
def SpecFn.ulps (f : SpecFn) (t : Nat) : Nat :=
  match f with
  | .exp2 => 1
  | .log2 => 1
  | .rsq => 1
  | _ => if t = 8 then 2 else 1

/-! ### Exact values, to 256 binary places -/

/-- 2^256, ln 2 and 2/√π in units of 2^-256. -/
def fixOne : Nat := 2 ^ 256
def fixLn2 : Nat := 0xb17217f7d1cf79abc9e3b39803f2f6af40f343267298b62d8a0d175b8baafa2b
def fixErf : Nat := 0x120dd750429b6d11ae3a914fed7fd8688281341d7587cea2e7342b06199cc4161

/-- A value mant × 2^exp as a multiple of 2^-256, rounded toward −∞. -/
def toFix (neg : Bool) (m : Nat) (e : Int) : Int :=
  let x := flInt neg m
  if -256 ≤ e then x * 2 ^ (e + 256).toNat else x.fdiv (2 ^ (-256 - e).toNat)

/-- Sum of the series term, term·x/(k+1), … : `fuel` terms of exp. -/
def expSeries (fuel k : Nat) (term x : Nat) : Nat :=
  match fuel with
  | 0 => 0
  | n + 1 => term + expSeries n (k + 1) (term * x / fixOne / (k + 1)) x

/-- 2^y for a fixed-point y: mantissa in units of 2^-256 and a power of two. -/
def pow2Fix (y : Int) : Nat × Int :=
  let n := y.fdiv fixOne
  let f := (y - n * fixOne).toNat
  (expSeries 70 0 fixOne (f * fixLn2 / fixOne), n)

/-- Bits of log2 of a mantissa in [1, 2), by squaring. -/
def log2Bits (fuel : Nat) (x acc : Nat) : Nat :=
  match fuel with
  | 0 => acc
  | n + 1 =>
    let y := x * x / fixOne
    if 2 * fixOne ≤ y then log2Bits n (y / 2) (2 * acc + 1) else log2Bits n y (2 * acc)

/-- Σ (−1)^n z^n / (n!(2n+1)), from term `p` of index `k`. -/
def erfSeries (fuel k : Nat) (p : Nat) (z : Nat) (minus : Bool) : Int :=
  match fuel with
  | 0 => 0
  | n + 1 =>
    let a : Int := (p / (2 * k + 1) : Nat)
    (if minus then -a else a) + erfSeries n (k + 1) (p * z / fixOne / (k + 1)) z (!minus)

/-- e^y for a fixed-point y. -/
def expFix (y : Int) : Nat × Int := pow2Fix (y * fixOne / fixLn2)

/-- The magnitude of f(±m·2^e) as mant × 2^exp, and its sign, for operands that no table settles. Far out, where the
function stands closer to its limit than any format shows, a value as close as that. -/
def specValue (f : SpecFn) (neg : Bool) (m : Nat) (e : Int) : Bool × Nat × Int :=
  let big : Int := Nat.log2 m + e
  match f with
  | .exp2 =>
    if 12 ≤ big then (false, 1, if neg then -5000 else 5000)
    else let r := pow2Fix (toFix neg m e); (false, r.1, r.2 - 256)
  | .log2 =>
    let k := Nat.log2 m
    let fr := log2Bits 200 (m * fixOne / 2 ^ k) 0
    let v := (e + k) * 2 ^ 200 + fr
    (decide (v < 0), v.natAbs, -200)
  | .rsq =>
    let odd := e % 2 != 0
    let mm := if odd then 2 * m else m
    let ee := if odd then e - 1 else e
    (false, isqrt (2 ^ 600 / mm), -300 - ee / 2)
  | .tanh =>
    if 8 ≤ big then (neg, 2 ^ 200 - 1, -200)
    else if big < -20 then
      let z := (toFix false (m * m) (2 * e)).toNat
      (neg, m * (fixOne - z / 3 + 2 * (z * z / fixOne) / 15), e - 256)
    else
      let r := expFix (2 * toFix false m e)
      let x := r.1 * 2 ^ r.2.toNat
      (neg, (x - fixOne) * fixOne / (x + fixOne), -256)
  | .sigm =>
    if 13 ≤ big then (if neg then (false, 1, -5000) else (false, 2 ^ 200 - 1, -200))
    else
      -- 1/(1 + E) or E/(1 + E) with E = e^-|x|
      let r := expFix (toFix true m e)
      let d := fixOne + (r.1 >>> (-r.2).toNat)
      if neg then (false, r.1 * fixOne / d, r.2 - 256) else (false, fixOne * fixOne / d, -256)
  | .erf =>
    if 3 ≤ big then (neg, 2 ^ 200 - 1, -200)
    else
      let z := (toFix false (m * m) (2 * e)).toNat
      let s := (erfSeries 320 0 fixOne z false).toNat
      (neg, m * (s * fixErf / fixOne), e - 256)

/-! ### A result inside the bound -/

/-- The result: the multiple of the last place that the free value `pick` names among those within `n` places of the
exact value; inexact flags, and the overflow result of R293 under nearest-even. -/
def specPick (t n pick : Nat) (neg : Bool) (m : Nat) (ex : Int) : Nat × Nat :=
  let e : Int := Nat.log2 m + ex
  let qu := e - fracBits t
  let q := if qu < eMin t - fracBits t then eMin t - fracBits t else qu
  let fl : Int := if q ≤ ex then ((m <<< (ex - q).toNat : Nat) : Int) else ((m >>> (q - ex).toNat : Nat) : Int)
  let k := (fl - ((n : Int) - 1) + ((pick % (2 * n) : Nat) : Int)).toNat
  let tiny := decide (k < 2 ^ fracBits t) && decide (q = eMin t - fracBits t)
  if beyond t k q then overflowOf t ctlRNE0 neg
  -- just below the binade the last place is half as large
  else if k < 2 ^ fracBits t ∧ eMin t - fracBits t < q then (packFin t neg (2 * k) (q - 1), flagNX)
  else (packFin t neg k q, flagNX + if tiny then flagUF else 0)
where
  /-- Nearest even, no saturation. -/
  ctlRNE0 : FCtl := ⟨.ne, false, false⟩

/-- The bits of a small integer or a half in a type. -/
def exactFl (t : Nat) (neg : Bool) (m : Nat) (e : Int) : Nat × Nat := roundFin t ⟨.ne, false, false⟩ neg m e false

/-- One lane of a special function (Table 16-8, R399): bits and flags. -/
def laneSpecial (f : SpecFn) (t x : Nat) : Nat × Nat :=
  let free := fun (neg : Bool) (m : Nat) (e : Int) =>
    let r := specValue f neg m e
    specPick t (f.ulps t) (Config.special f.num t x) r.1 r.2.1 r.2.2
  let nan := (canonNaN t, flagNV)
  match unpack t x with
  | .nan s => (canonNaN t, if s then flagNV else 0)
  | .inf n =>
    match f with
    | .exp2 => (if n then 0 else infBits t false, 0)
    | .log2 => if n then nan else (infBits t false, 0)
    | .rsq => if n then nan else (0, 0)
    | .sigm => if n then (0, 0) else exactFl t false 1 0
    | _ => exactFl t n 1 0
  | .fin n m e =>
    match f with
    | .exp2 =>
      if m = 0 then exactFl t false 1 0
      else if e < 0 ∧ m % 2 ^ (-e).toNat ≠ 0 then free n m e
      else
        -- an integer: exact where it is representable, by rounding beyond
        let k := if 12 ≤ (Nat.log2 m : Int) + e then 5000 else if e < 0 then m >>> (-e).toNat else m <<< e.toNat
        exactFl t false 1 (flInt n k)
    | .log2 =>
      if m = 0 then (infBits t true, flagDZ)
      else if n then nan
      else if m = 2 ^ Nat.log2 m then
        let k : Int := Nat.log2 m + e
        if k = 0 then (0, 0) else exactFl t (decide (k < 0)) k.natAbs 0
      else free false m e
    | .rsq =>
      if m = 0 then (infBits t n, flagDZ)
      else if n then nan
      else
        let r := specValue .rsq false m e
        -- an exact root: 2^k for an operand 2^-2k
        if m = 2 ^ Nat.log2 m ∧ ((Nat.log2 m : Int) + e) % 2 = 0 then
          let z := exactFl t false 1 (-(((Nat.log2 m : Int) + e) / 2))
          match Config.special 2 t x % 3 with
          | 0 => z
          | 1 => (z.1 + 1, flagNX)
          | _ => (z.1 - 1, flagNX)
        else specPick t 1 (Config.special 2 t x) false r.2.1 r.2.2
    | .sigm => if m = 0 then exactFl t false 1 (-1) else free n m e
    | _ => if m = 0 then (zeroBits t n, 0) else free n m e

end Sys2Proof.Machine
end

