-- ==== Sys2Proof/Machine/Vector.lean ====
section
/-!
DEFINITION. Engines V and F (16_vector_and_function_instructions; 12_arithmetic R295-R303, R309, R310): whole-row
words of a tile. Latencies are those of Table 16-4.
-/
namespace Sys2Proof.Machine

/-! ### Rows in and out -/

/-- The element type a vector name gives (R198, R379). -/
def elemType (i : Nat) : Exec Nat := do let m ← getOld; pure (m.nameType i)
/-- The lanes of a row as type `t` cuts them. -/
def laneList (t : Nat) (x : RowP) : List Nat := lanes (typeWidth t) (lanesOf t) x.v
/-- A word whose one destination is a row; a late operand leaves it zero and poisoned (R381). -/
def toRow (d lat : Nat) (e : Exec RowP) : Exec Unit := orLate (do let x ← e; wrV d x lat) (lateV d lat)
/-- A word whose one destination is a scalar. -/
def toScalar (d lat : Nat) (e : Exec SReg) : Exec Unit := orLate (do let x ← e; wrS d x lat) (lateS d lat)
/-- The row of lane results, their flags raised (R380). -/
def laneOut (t : Nat) (p : Bool) (xs : List (Nat × Nat × Bool)) : Exec RowP := do
  laneFlags (gather xs) p
  pure ⟨rowOf (typeWidth t) (gather xs).v, p⟩
/-- Lane results without flags. -/
def plain (x : Nat) : Nat × Nat × Bool := (x, 0, false)
def flagged (x : Nat × Nat) : Nat × Nat × Bool := (x.1, x.2, false)
/-- A scalar used as a count or lane index: late counts as poisoned (R381). -/
def rdCount (r : Nat) : Exec Dword := fun s =>
  match rdClean r s with
  | .error .late => raiseWord 0x04 s
  | x => x
/-- Lanes `base` on replaced by `vs`. -/
def putLanes (w : Nat) (r : Row) (base : Nat) (vs : List Nat) : Row :=
  let old := lanes w (2048 / w) r
  rowOf w (old.take base ++ vs ++ old.drop (base + vs.length))

/-- One source row, lane by lane. -/
def vUn (d a lat : Nat) (f : Nat → FCtl → Nat → Nat × Nat × Bool) : Exec Unit :=
  toRow d lat (do
    let t ← elemType d
    let c ← readFrm
    let x ← rdV a
    laneOut t x.p ((laneList t x).map (f t c)))
/-- Two source rows. -/
def vBin (d a b lat : Nat) (f : Nat → FCtl → Nat → Nat → Nat × Nat × Bool) : Exec Unit :=
  toRow d lat (do
    let t ← elemType d
    let c ← readFrm
    let x ← rdV a
    let y ← rdV b
    laneOut t (x.p || y.p) (List.zipWith (f t c) (laneList t x) (laneList t y)))
/-- Two source rows and the old destination. -/
def vTri (d a b lat : Nat) (f : Nat → FCtl → Nat → Nat → Nat → Nat × Nat × Bool) : Exec Unit :=
  toRow d lat (do
    let t ← elemType d
    let c ← readFrm
    let x ← rdV a
    let y ← rdV b
    let o ← rdOldV d
    laneOut t (x.p || y.p || o.p) (List.zipWith (fun p z => f t c p.1 p.2 z) ((laneList t x).zip (laneList t y)) (laneList t o)))
/-- Bits of whole rows (R385). -/
def vBits (d a b : Nat) (f : Row → Row → Row) : Exec Unit :=
  toRow d 1 (do
    let x ← rdV a
    let y ← rdV b
    pure ⟨f x.v y.v, x.p || y.p⟩)

/-! ### Lanes (R382-R384, R386-R388) -/

def wrapLane (t : Nat) (x : Int) : Nat × Nat × Bool := plain (wrapN (typeWidth t) x)
def addLane (t : Nat) (c : FCtl) (a b : Nat) : Nat × Nat × Bool :=
  if isFl t then flagged (laneAdd t c a b) else wrapLane t (a + b)
def subLane (t : Nat) (c : FCtl) (a b : Nat) : Nat × Nat × Bool :=
  if isFl t then flagged (laneSub t c a b) else wrapLane t ((a : Int) - b)
def mulLane (t : Nat) (c : FCtl) (a b : Nat) : Nat × Nat × Bool :=
  if isFl t then flagged (laneMul t c a b) else wrapLane t (a * b)
def fmaLane (sub : Bool) (t : Nat) (c : FCtl) (a b d : Nat) : Nat × Nat × Bool :=
  if isFl t then flagged (laneFma t c sub a b d)
  else wrapLane t (if sub then (d : Int) - a * b else (d : Int) + a * b)
def minMaxLane (mx : Bool) (t : Nat) (c : FCtl) (a b : Nat) : Nat × Nat × Bool :=
  if isFl t then flagged (laneMinMax t c mx a b)
  else
    let lt := decide (laneInt t a < laneInt t b)
    plain (if mx then (if lt then b else a) else (if lt then a else b))
def signLane (neg : Bool) (t : Nat) (_ : FCtl) (a : Nat) : Nat × Nat × Bool :=
  if isFl t then flagged (laneSign t neg a)
  else if neg then wrapLane t (-(a : Int))
  else wrapLane t (laneInt t a).natAbs
def shlLane (k : Nat) (t : Nat) (_ : FCtl) (a : Nat) : Nat × Nat × Bool := plain (a * 2 ^ k % 2 ^ typeWidth t)
def shrLane (k : Nat) (_ : Nat) (_ : FCtl) (a : Nat) : Nat × Nat × Bool := plain (a / 2 ^ k)
def sraLane (k : Nat) (t : Nat) (_ : FCtl) (a : Nat) : Nat × Nat × Bool :=
  wrapLane t (floorShift (sext (typeWidth t) a) k)
/-- Rnd of R387. -/
def rndShift (x : Int) (k : Nat) : Int := floorShift (x + (if k = 0 then 0 else 2 ^ (k - 1) : Nat)) k
/-- The relation code of VCMP. -/
def cmpLane (t : Nat) (_ : FCtl) (a b : Nat) : Nat × Nat × Bool :=
  if isFl t then
    let x := unpack t a
    let y := unpack t b
    if x.isNaN || y.isNaN then (8, flagNV, false)
    else plain (if flLt false x y then 1 else if flLt false y x then 4 else 2)
  else
    plain (if laneInt t a < laneInt t b then 1 else if laneInt t b < laneInt t a then 4 else 2)

/-! ### Words with rules of their own -/

/-- VRSHR (R387). -/
def vrshrWord (d a n k : Nat) : Exec Unit :=
  toRow d 4 (do
    let t ← elemType d
    if n = 0 then do
      let x ← rdV a
      laneOut t x.p ((laneList t x).map fun v => wrapLane t (rndShift (laneInt t v) k))
    else do
      let x ← rdV a
      let y ← rdV (a + 1)
      let w := 2 * typeWidth t
      let val := fun (v : Nat) => if isSigned t then sext w v else (v : Int)
      laneOut t (x.p || y.p) ((lanes w (2048 / w) x.v ++ lanes w (2048 / w) y.v).map fun v =>
        let r := satT t (rndShift (val v) k)
        (r.1, 0, r.2)))

/-- VBCAST and VIOTA (R390). -/
def vfillWord (d a : Nat) (iota : Bool) : Exec Unit :=
  toRow d 1 (do
    let t ← elemType d
    let x ← rdS a
    pure ⟨rowOf (typeWidth t) ((List.range (lanesOf t)).map fun i => if iota then x.v.toNat + i else x.v.toNat), x.p⟩)

/-- VEXT (R390): the index is a lane index. -/
def vextWord (d a b : Nat) : Exec Unit :=
  toScalar d 3 (do
    let t ← elemType a
    let k ← rdCount b
    let x ← rdV a
    let v := laneAt (typeWidth t) x.v (bits k 7 0 % lanesOf t)
    pure ⟨if isSigned t then dwInt (sext (typeWidth t) v) else dw v, x.p⟩)

/-- VINS. -/
def vinsWord (d a b : Nat) : Exec Unit :=
  toRow d 3 (do
    let t ← elemType d
    let k ← rdCount b
    let x ← rdS a
    let o ← rdOldV d
    pure ⟨putLanes (typeWidth t) o.v (bits k 7 0 % lanesOf t) [x.v.toNat % 2 ^ typeWidth t], o.p || x.p⟩)

/-- Lanes of a slide (R392). -/
def slideLanes (n k : Nat) (up : Bool) (a f : List Nat) : List Nat :=
  let at_ := fun (l : List Nat) (i : Nat) => (l[i]?).getD 0
  (List.range n).map fun i =>
    if up then
      if k ≤ i then at_ a (i - k) else if k ≤ i + n then at_ f (n + i - k) else 0
    else if i + k < n then at_ a (i + k)
    else if i + k < 2 * n then at_ f (i + k - n)
    else 0

/-- VSLIDE and VSLIDEI, their amount and flags known. -/
def slideRow (d a k : Nat) (up z : Bool) : Exec RowP := do
  let t ← elemType d
  let x ← rdV a
  let y ← if z then pure {} else rdV (a + 1)
  pure ⟨rowOf (typeWidth t) (slideLanes (lanesOf t) k up (laneList t x) (laneList t y)), x.p || y.p⟩
def vslideWord (d a b : Nat) : Exec Unit :=
  toRow d 3 (do
    let k ← rdCount b
    needWord (bit k 9 || decide (a ≤ 58)) 0x01
    slideRow d a (bits k 7 0) (bit k 8) (bit k 9))

/-- VPERM (R391). -/
def vpermWord (d a b : Nat) : Exec Unit :=
  toRow d 3 (do
    let t ← elemType d
    let x ← rdV a
    let y ← rdV b
    let src := laneList t x
    pure ⟨rowOf (typeWidth t) ((laneList t y).map fun i => (src[i]?).getD 0), x.p || y.p⟩)

/-- One level of the pairwise reduction (R393). -/
def pairUp (f : Nat × Nat × Bool → Nat × Nat × Bool → Nat × Nat × Bool) (xs : List (Nat × Nat × Bool)) :
    List (Nat × Nat × Bool) :=
  match xs with
  | a :: b :: t => f a b :: pairUp f t
  | l => l
def reduceTree (fuel : Nat) (f : Nat × Nat × Bool → Nat × Nat × Bool → Nat × Nat × Bool)
    (xs : List (Nat × Nat × Bool)) : Nat × Nat × Bool :=
  match fuel with
  | 0 => (xs.head?).getD (0, 0, false)
  | n + 1 => reduceTree n f (pairUp f xs)

/-- VRED (R393). -/
def vredWord (d a fn : Nat) : Exec Unit :=
  toScalar d 10 (do
    let t ← elemType a
    let c ← readFrm
    let x ← rdV a
    let ls := laneList t x
    if isFl t then do
      let op := fun (p q : Nat × Nat × Bool) =>
        let r := if fn = 0 then laneAdd t c.noFtz p.1 q.1 else laneMinMax t c.noFtz (fn == 2) p.1 q.1
        (r.1, p.2.1 ||| q.2.1 ||| r.2, false)
      let r := reduceTree 8 op (ls.map plain)
      laneFlags ⟨[], r.2.1, false⟩ x.p
      pure ⟨dw r.1, x.p⟩
    else
      let vs := ls.map (laneInt t)
      let v := if fn = 0 then vs.foldl (· + ·) 0
        else vs.foldl (fun m y => if fn = 1 then min m y else max m y) ((vs.head?).getD 0)
      pure ⟨dwInt v, x.p⟩)

/-- VMAC2 and VDOT4 (R394, R298): `n` products of lanes of `w` bits into each INT32 lane. -/
def vdotWord (d a b w n : Nat) : Exec Unit :=
  toRow d 4 (do
    let x ← rdV a
    let y ← rdV b
    let o ← rdOldV d
    let ps := List.zipWith (fun p q => sext w p * sext w q) (lanes w (2048 / w) x.v) (lanes w (2048 / w) y.v)
    laneOut 2 (x.p || y.p || o.p) ((lanes 32 64 o.v).zipIdx.map fun (c, i) =>
      let r := satT 2 (((ps.drop (n * i)).take n).foldl (· + ·) (sext 32 c))
      (r.1, 0, r.2)))

/-- VCVT (R395). -/
def vcvtWord (d a s h : Nat) : Exec Unit :=
  toRow d 4 (do
    let t ← elemType d
    let c ← readFrm
    let ws := typeWidth s
    let wd := typeWidth t
    let x ← rdV a
    let src := lanes ws (2048 / ws) x.v
    if wd < ws then do
      let o ← rdOldV d
      let r := gather (src.map (convert s t c))
      laneFlags r (x.p || o.p)
      pure ⟨putLanes wd o.v (h * (2048 / ws)) r.v, x.p || o.p⟩
    else laneOut t x.p (((src.drop (h * (2048 / wd))).take (2048 / wd)).map (convert s t c)))

/-- Stochastic rounding of an FP32 lane (R310; DEDUCED, log 62); `r` is Cg4[31:16]. Above 448 the neighbour of an E4M3 value is 512
(R293). An overflow gives what it gives under nearest-even, for FRM.RM is not used. -/
def stochLane (t : Nat) (sf : Bool) (r x : Nat) : Nat × Nat :=
  let c : FCtl := ⟨.ne, sf, false⟩
  match unpack 8 x with
  | .fin n m e =>
    if m = 0 then (zeroBits t n, 0)
    else
      let qu : Int := (Nat.log2 m : Int) + e - fracBits t
      let q0 := if qu < eMin t - fracBits t then eMin t - fracBits t else qu
      let cut := fun (q : Int) => if q ≤ e then (m <<< (e - q).toNat, 0, 1) else (m >>> (q - e).toNat, m % 2 ^ (q - e).toNat, 2 ^ (q - e).toNat)
      -- between 448 and 512 the unit is 64
      let q := if t = 4 ∧ q0 = 5 ∧ 14 ≤ (cut 5).1 then 6 else q0
      let k := cut q
      let d := k.2.1 * 65536 / k.2.2
      if k.2.1 = 0 ∧ q = q0 then roundFin t c n m e false
      else if q ≠ q0 then
        -- 448 and the distance to it, of 64
        let past := cut 5
        let d := ((past.1 - 14) * past.2.2 + past.2.1) * 65536 / (2 * past.2.2)
        if (past.1 - 14) * past.2.2 + past.2.1 = 0 then (maxFinite t n, 0)
        else if r < d then overflowOf t c n else (maxFinite t n, flagNX)
      else
        let y := if r < d then k.1 + 1 else k.1
        let nu := quantize .ne n m e qu false
        let tiny := decide ((Nat.log2 nu.1 : Int) + qu < eMin t)
        if beyond t y q then overflowOf t c n else (packFin t n y q, flagNX + if tiny then flagUF else 0)
  | v => convFl t c v

/-- The counter value the next lane of CG4 takes in this bundle (R309), and its advance by `n` lanes. -/
def rngBase : Exec (Nat × Nat × Nat) := do
  let m ← getOld
  let b ← getB
  let adv := match b with
    | some b => b.adv
    | none => 0
  pure ((m.csr 0x006).toNat + adv, (m.csr 0x004).toNat, (m.csr 0x005).toNat)
def rngAdvance (n : Nat) : Exec Unit := modB fun b => { b with adv := b.adv + n }

/-- VCVTS (R396). -/
def vcvtsWord (d a h : Nat) : Exec Unit :=
  orLate (do
    let t ← elemType d
    let c ← readFrm
    let g ← rngBase
    let x ← rdV a
    let o ← rdOldV d
    let r := gather ((lanes 32 64 x.v).zipIdx.map fun (v, i) =>
      flagged (stochLane t c.sf (cg4 g.1 g.2.1 g.2.2 i >>> 16) v))
    laneFlags r (x.p || o.p)
    rngAdvance 64
    wrV d ⟨putLanes (typeWidth t) o.v (64 * h) r.v, x.p || o.p⟩ 4) (do
    rngAdvance 64
    lateV d 4)

/-! ### Engine F -/

/-- The engine may still be busy with an FP64 word (R381). -/
def needF : Exec Unit := do
  let m ← getOld
  if m.core.ctl.cyc < m.core.ready rdyF then hold (m.core.ready rdyF) else pure ()
/-- Reciprocals and roots: 24 cycles on FP64, and the engine is busy for 4. -/
def rootWord (d a : Nat) (f : Nat → FCtl → Nat → Nat × Nat) : Exec Unit := do
  needF
  let t ← elemType d
  if t = 9 then setReady rdyF 4 else pure ()
  vUn d a (if t = 9 then 24 else 12) fun t c x => flagged (f t c x)
def specWord (d a : Nat) (f : SpecFn) : Exec Unit := do
  needF
  vUn d a 12 fun t _ x => flagged (laneSpecial f t x)
/-- Another word of engine F. -/
def fWord (e : Exec Unit) : Exec Unit := do needF; e

/-- RNG (R403). -/
def rngWord (d : Nat) : Exec Unit := do
  let t ← elemType d
  let g ← rngBase
  rngAdvance (lanesOf t)
  wrV d ⟨rowOf (typeWidth t) ((List.range (lanesOf t)).map fun i => cg4 g.1 g.2.1 g.2.2 i >>> (32 - typeWidth t)), false⟩ 4

/-- VPART (R404). -/
def vpartWord (d a b : Nat) : Exec Unit :=
  orLate (do
    let ts ← elemType a
    let td ← elemType d
    let x ← rdV a
    let ls := (laneList ts x).zipIdx
    let yes := (ls.filter fun p => p.1 != 0).map Prod.snd
    let no := (ls.filter fun p => p.1 == 0).map Prod.snd
    wrV d ⟨rowOf (typeWidth td) (yes ++ no), x.p⟩ 8
    wrS b ⟨dw yes.length, x.p⟩ 8) (do
    lateV d 8
    lateS b 8)

/-- Whether lane value `y` ranks above `x` as type `t` orders them; every NaN ranks below −∞ (R405). -/
def ranksAbove (t y x : Nat) : Bool :=
  if isFl t then
    let a := unpack t x
    let b := unpack t y
    if b.isNaN then false else if a.isNaN then true else flLt false a b
  else decide (laneInt t x < laneInt t y)
/-- One group of VTOPK: the numbers of its `k` highest lanes in order, then zeros. -/
def topGroup (t base k : Nat) (g : List Nat) : List Nat :=
  let ix := g.zipIdx
  let sel := (ix.filter fun p =>
    decide ((ix.filter fun o => ranksAbove t o.1 p.1 || (o.2 < p.2 && !ranksAbove t p.1 o.1)).length < k)).map
      fun p => base + p.2
  sel ++ List.replicate (g.length - sel.length) 0
def topGroups (fuel t base k n : Nat) (ls : List Nat) : List Nat :=
  match fuel with
  | 0 => []
  | f + 1 => if ls = [] then [] else topGroup t base k (ls.take n) ++ topGroups f t (base + n) k n (ls.drop n)
/-- VTOPK (R405). -/
def vtopkWord (d a k g : Nat) : Exec Unit :=
  toRow d 8 (do
    let t ← elemType a
    let x ← rdV a
    pure ⟨rowOf (typeWidth t) (topGroups 256 t 0 (k + 1) (2 ^ g) (laneList t x)), x.p⟩)

/-- FMINMAXN (R402): the lesser or greater number of a lane. -/
def numLane (mx : Bool) (t : Nat) (a b : Nat) : Nat × Nat × Bool :=
  let x := unpack t a
  let y := unpack t b
  let f := if x.isSig || y.isSig then flagNV else 0
  if x.isNaN && y.isNaN then (canonNaN t, f, false)
  else if x.isNaN then (b, f, false)
  else if y.isNaN then (a, f, false)
  else (if mx then (if flLt true x y then b else a) else (if flLt true y x then b else a), f, false)
def fminmaxnWord (d a b : Nat) : Exec Unit :=
  orLate (do
    let t ← elemType d
    let x ← rdV a
    let y ← rdV b
    let lo ← laneOut t (x.p || y.p) (List.zipWith (numLane false t) (laneList t x) (laneList t y))
    let hi ← laneOut t (x.p || y.p) (List.zipWith (numLane true t) (laneList t x) (laneList t y))
    wrV d lo 2
    wrV (d + 1) hi 2) (do
    lateV d 2
    lateV (d + 1) 2)

/-! ### Microscaling (R303, R406-R408) -/

/-- One value divided by 2^e and rounded to E2M1, magnitudes above 6 becoming 6: code, and whether inexact. -/
def toE2M1 (neg : Bool) (m : Nat) (e : Int) : Nat × Bool :=
  if m = 0 then (if neg then 8 else 0, false)
  else
    let qu : Int := (Nat.log2 m : Int) + e - 1
    let q := if qu < -1 then -1 else qu
    let r := quantize .ne neg m e q false
    if decide (7 ≤ r.1 * 2 ^ (q + 1).toNat / 2) then ((if neg then 15 else 7), true)
    else (packFin 10 neg r.1 q, r.2)

/-- A block of 32 FP32 values: scale, codes, NX. -/
def mxBlock (xs : List Nat) : Nat × List Nat × Bool :=
  let us := xs.map (unpack 8)
  let fins := us.filterMap fun u => match u with
    | .fin n m e => some (n, m, e)
    | _ => none
  if fins.length ≠ xs.length then (0xFF, xs.map fun _ => 0, false)
  else
    let nz := fins.filter fun f => f.2.1 != 0
    match nz with
    | [] => (0, fins.map fun f => if f.1 then 8 else 0, false)
    | f :: t =>
      let lg := fun (f : Bool × Nat × Int) => (Nat.log2 f.2.1 : Int) + f.2.2
      let top := t.foldl (fun k g => max k (lg g)) (lg f)
      let e := max (-127) (min 127 (top - 2))
      let qs := fins.map fun f => toE2M1 f.1 f.2.1 (f.2.2 - e)
      ((e + 127).toNat, qs.map Prod.fst, qs.any Prod.snd)

/-- MXQ (R407). -/
def mxqWord (d a h : Nat) : Exec Unit :=
  toRow d 6 (do
    let x ← rdV a
    let o ← rdOldV d
    let ls := lanes 32 64 x.v
    let b0 := mxBlock (ls.take 32)
    let b1 := mxBlock (ls.drop 32)
    laneFlags ⟨[], if b0.2.2 || b1.2.2 then flagNX else 0, false⟩ (x.p || o.p)
    let codes := putLanes 4 o.v (64 * h) (b0.2.1 ++ b1.2.1)
    pure ⟨putLanes 8 codes (128 + 2 * h) [b0.1, b1.1], x.p || o.p⟩)

/-- The value of an E2M1 code under a scale, as FP32. -/
def mxdLane (q s : Nat) : Nat × Nat × Bool :=
  if s = 0xFF then (canonNaN 8, 0, false)
  else
    match unpack 10 q with
    | .fin n m e => flagged (roundFl 8 ctlRNE (.fin n m (e + s - 127)))
    | _ => (canonNaN 8, 0, false)
/-- MXD (R408). -/
def mxdWord (d a h : Nat) : Exec Unit :=
  toRow d 4 (do
    let x ← rdV a
    let r := gather ((List.range 64).map fun i =>
      mxdLane (laneAt 4 x.v (64 * h + i)) (laneAt 8 x.v (128 + 2 * h + i / 32)))
    laneFlags r x.p
    pure ⟨rowOf 32 r.v, x.p⟩)

/-- VTYPE and VWIN (R397, R398): effective from the next bundle. -/
def vtypeWord (k t : Nat) : Exec Unit := modM fun m => m.setTag k t
def vwinWord (sel v : Nat) : Exec Unit := modM fun m => m.setCsr (0x010 + sel) (dw v)

/-! ### The words -/

/-- VADD (R382). -/
def execVadd (d : BitVec 6) (a : BitVec 6) (b : BitVec 6) (st : State) : Res := word (.vadd d a b) (vBin (fld d) (fld a) (fld b) 2 addLane) st
/-- VSUB (R382). -/
def execVsub (d : BitVec 6) (a : BitVec 6) (b : BitVec 6) (st : State) : Res := word (.vsub d a b) (vBin (fld d) (fld a) (fld b) 2 subLane) st
/-- VMUL (R382). -/
def execVmul (d : BitVec 6) (a : BitVec 6) (b : BitVec 6) (st : State) : Res := word (.vmul d a b) (vBin (fld d) (fld a) (fld b) 4 mulLane) st
/-- VFMA (R382). -/
def execVfma (d : BitVec 6) (a : BitVec 6) (b : BitVec 6) (st : State) : Res := word (.vfma d a b) (vTri (fld d) (fld a) (fld b) 4 (fmaLane false)) st
/-- VFMS (R382). -/
def execVfms (d : BitVec 6) (a : BitVec 6) (b : BitVec 6) (st : State) : Res := word (.vfms d a b) (vTri (fld d) (fld a) (fld b) 4 (fmaLane true)) st
/-- VMIN (R383). -/
def execVmin (d : BitVec 6) (a : BitVec 6) (b : BitVec 6) (st : State) : Res := word (.vmin d a b) (vBin (fld d) (fld a) (fld b) 2 (minMaxLane false)) st
/-- VMAX (R383). -/
def execVmax (d : BitVec 6) (a : BitVec 6) (b : BitVec 6) (st : State) : Res := word (.vmax d a b) (vBin (fld d) (fld a) (fld b) 2 (minMaxLane true)) st
/-- VABS (R384). -/
def execVabs (d : BitVec 6) (a : BitVec 6) (st : State) : Res := word (.vabs d a) (vUn (fld d) (fld a) 2 (signLane false)) st
/-- VNEG (R384). -/
def execVneg (d : BitVec 6) (a : BitVec 6) (st : State) : Res := word (.vneg d a) (vUn (fld d) (fld a) 2 (signLane true)) st
/-- VAND (R385). -/
def execVand (d : BitVec 6) (a : BitVec 6) (b : BitVec 6) (st : State) : Res := word (.vand d a b) (vBits (fld d) (fld a) (fld b) (· &&& ·)) st
/-- VOR (R385). -/
def execVor (d : BitVec 6) (a : BitVec 6) (b : BitVec 6) (st : State) : Res := word (.vor d a b) (vBits (fld d) (fld a) (fld b) (· ||| ·)) st
/-- VXOR (R385). -/
def execVxor (d : BitVec 6) (a : BitVec 6) (b : BitVec 6) (st : State) : Res := word (.vxor d a b) (vBits (fld d) (fld a) (fld b) (· ^^^ ·)) st
/-- VNOT (R385). -/
def execVnot (d : BitVec 6) (a : BitVec 6) (st : State) : Res := word (.vnot d a) (toRow (fld d) 1 (do let x ← rdV (fld a); pure ⟨~~~x.v, x.p⟩)) st
/-- VSHL (R386). -/
def execVshl (d : BitVec 6) (a : BitVec 6) (k : BitVec 6) (st : State) : Res := word (.vshl d a k) (vUn (fld d) (fld a) 1 (shlLane (fld k))) st
/-- VSHR (R386). -/
def execVshr (d : BitVec 6) (a : BitVec 6) (k : BitVec 6) (st : State) : Res := word (.vshr d a k) (vUn (fld d) (fld a) 1 (shrLane (fld k))) st
/-- VSRA (R386). -/
def execVsra (d : BitVec 6) (a : BitVec 6) (k : BitVec 6) (st : State) : Res := word (.vsra d a k) (vUn (fld d) (fld a) 1 (sraLane (fld k))) st
/-- VRSHR (R387). -/
def execVrshr (d : BitVec 6) (a : BitVec 6) (n : BitVec 1) (k : BitVec 5) (st : State) : Res := word (.vrshr d a n k) (vrshrWord (fld d) (fld a) (fld n) (fld k)) st
/-- VCMP (R388). -/
def execVcmp (d : BitVec 6) (a : BitVec 6) (b : BitVec 6) (st : State) : Res := word (.vcmp d a b) (vBin (fld d) (fld a) (fld b) 1 cmpLane) st
/-- VSEL (R389). -/
def execVsel (d : BitVec 6) (a : BitVec 6) (b : BitVec 6) (st : State) : Res := word (.vsel d a b) (vTri (fld d) (fld a) (fld b) 1 (fun _ _ x y o => plain (if o = 0 then y else x))) st
/-- VMOV (R385). -/
def execVmov (d : BitVec 6) (a : BitVec 6) (st : State) : Res := word (.vmov d a) (toRow (fld d) 1 (rdV (fld a))) st
/-- VZERO (R390). -/
def execVzero (d : BitVec 6) (st : State) : Res := word (.vzero d) (wrV (fld d) {} 1) st
/-- VBCAST (R390). -/
def execVbcast (d : BitVec 6) (a : BitVec 6) (st : State) : Res := word (.vbcast d a) (vfillWord (fld d) (fld a) false) st
/-- VEXT (R390). -/
def execVext (d : BitVec 6) (a : BitVec 6) (b : BitVec 6) (st : State) : Res := word (.vext d a b) (vextWord (fld d) (fld a) (fld b)) st
/-- VINS (R390). -/
def execVins (d : BitVec 6) (a : BitVec 6) (b : BitVec 6) (st : State) : Res := word (.vins d a b) (vinsWord (fld d) (fld a) (fld b)) st
/-- VSLIDE (R392). -/
def execVslide (d : BitVec 6) (a : BitVec 6) (b : BitVec 6) (st : State) : Res := word (.vslide d a b) (vslideWord (fld d) (fld a) (fld b)) st
/-- VSLIDEI (R392). -/
def execVslidei (d : BitVec 6) (a : BitVec 6) (r : BitVec 1) (z : BitVec 1) (k : BitVec 4) (st : State) : Res := word (.vslidei d a r z k) (toRow (fld d) 3 (slideRow (fld d) (fld a) (fld k + 1) (r == 1) (z == 1))) st
/-- VPERM (R391). -/
def execVperm (d : BitVec 6) (a : BitVec 6) (b : BitVec 6) (st : State) : Res := word (.vperm d a b) (vpermWord (fld d) (fld a) (fld b)) st
/-- VIOTA (R390). -/
def execViota (d : BitVec 6) (a : BitVec 6) (st : State) : Res := word (.viota d a) (vfillWord (fld d) (fld a) true) st
/-- VRED (R393). -/
def execVred (d : BitVec 6) (a : BitVec 6) (f : BitVec 2) (st : State) : Res := word (.vred d a f) (vredWord (fld d) (fld a) (fld f)) st
/-- VMAC2 (R394). -/
def execVmac2 (d : BitVec 6) (a : BitVec 6) (b : BitVec 6) (st : State) : Res := word (.vmac2 d a b) (vdotWord (fld d) (fld a) (fld b) 16 2) st
/-- VDOT4 (R394). -/
def execVdot4 (d : BitVec 6) (a : BitVec 6) (b : BitVec 6) (st : State) : Res := word (.vdot4 d a b) (vdotWord (fld d) (fld a) (fld b) 8 4) st
/-- VCVT (R395). -/
def execVcvt (d : BitVec 6) (a : BitVec 6) (t : BitVec 4) (h : BitVec 2) (st : State) : Res := word (.vcvt d a t h) (vcvtWord (fld d) (fld a) (fld t) (fld h)) st
/-- VCVTS (R396). -/
def execVcvts (d : BitVec 6) (a : BitVec 6) (h : BitVec 2) (st : State) : Res := word (.vcvts d a h) (vcvtsWord (fld d) (fld a) (fld h)) st
/-- VTYPE (R397). -/
def execVtype (k : BitVec 5) (t : BitVec 4) (st : State) : Res := word (.vtype k t) (vtypeWord (fld k) (fld t)) st
/-- VWIN (R398). -/
def execVwin (s : BitVec 2) (v : BitVec 5) (st : State) : Res := word (.vwin s v) (vwinWord (fld s) (fld v)) st
/-- FEXP2 (R399). -/
def execFexp2 (d : BitVec 6) (a : BitVec 6) (st : State) : Res := word (.fexp2 d a) (specWord (fld d) (fld a) .exp2) st
/-- FLOG2 (R399). -/
def execFlog2 (d : BitVec 6) (a : BitVec 6) (st : State) : Res := word (.flog2 d a) (specWord (fld d) (fld a) .log2) st
/-- FTANH (R399). -/
def execFtanh (d : BitVec 6) (a : BitVec 6) (st : State) : Res := word (.ftanh d a) (specWord (fld d) (fld a) .tanh) st
/-- FSIGM (R399). -/
def execFsigm (d : BitVec 6) (a : BitVec 6) (st : State) : Res := word (.fsigm d a) (specWord (fld d) (fld a) .sigm) st
/-- FERF (R399). -/
def execFerf (d : BitVec 6) (a : BitVec 6) (st : State) : Res := word (.ferf d a) (specWord (fld d) (fld a) .erf) st
/-- FRCP (R399). -/
def execFrcp (d : BitVec 6) (a : BitVec 6) (st : State) : Res := word (.frcp d a) (rootWord (fld d) (fld a) laneRcp) st
/-- FRSQ (R399). -/
def execFrsq (d : BitVec 6) (a : BitVec 6) (st : State) : Res := word (.frsq d a) (rootWord (fld d) (fld a) (fun t _ x => laneSpecial .rsq t x)) st
/-- FSQRT (R399). -/
def execFsqrt (d : BitVec 6) (a : BitVec 6) (st : State) : Res := word (.fsqrt d a) (rootWord (fld d) (fld a) laneSqrt) st
/-- RNG (R403). -/
def execRng (d : BitVec 6) (st : State) : Res := word (.rng d) (fWord (rngWord (fld d))) st
/-- VPART (R404). -/
def execVpart (d : BitVec 6) (a : BitVec 6) (b : BitVec 6) (st : State) : Res := word (.vpart d a b) (fWord (vpartWord (fld d) (fld a) (fld b))) st
/-- VTOPK (R405). -/
def execVtopk (d : BitVec 6) (a : BitVec 6) (k : BitVec 3) (s : BitVec 3) (st : State) : Res := word (.vtopk d a k s) (fWord (vtopkWord (fld d) (fld a) (fld k) (fld s))) st
/-- MXQ (R407). -/
def execMxq (d : BitVec 6) (a : BitVec 6) (h : BitVec 2) (st : State) : Res := word (.mxq d a h) (fWord (mxqWord (fld d) (fld a) (fld h))) st
/-- MXD (R408). -/
def execMxd (d : BitVec 6) (a : BitVec 6) (h : BitVec 2) (st : State) : Res := word (.mxd d a h) (fWord (mxdWord (fld d) (fld a) (fld h))) st
/-- FSCALE (R400). -/
def execFscale (d : BitVec 6) (a : BitVec 6) (b : BitVec 6) (st : State) : Res := word (.fscale d a b) (fWord (vBin (fld d) (fld a) (fld b) 4 fun t c x n => flagged (laneScale t c x (sext (typeWidth t) n)))) st
/-- FCLASS (R401). -/
def execFclass (d : BitVec 6) (a : BitVec 6) (st : State) : Res := word (.fclass d a) (fWord (vUn (fld d) (fld a) 1 fun t _ x => plain (laneClass t x))) st
/-- FMINMAXN (R402). -/
def execFminmaxn (d : BitVec 6) (a : BitVec 6) (b : BitVec 6) (st : State) : Res := word (.fminmaxn d a b) (fWord (fminmaxnWord (fld d) (fld a) (fld b))) st

end Sys2Proof.Machine
end

