-- ==== Sys2Proof/Machine/Window.lean ====
section
/-!
DEFINITION. Host registers: the error-log window (09 R237) and writes of the PF's management window and of a VF's doorbell
page (01 R4; 02 Tables 2-2, 2-7; 03 Tables 3-2, 3-3, 3-12; 04 Table 4-2, R103).
-/
namespace Sys2Proof.Machine

/-! ### The error-log window -/

def regELQSEL : Nat := 0x500
def elqBusy (m : Mach) : Bool := bit (m.reg regELQSEL) 63
def elqLog (m : Mach) : Nat := bits (m.reg regELQSEL) 5 0
def elqIdx (m : Mach) : Nat := bits (m.reg regELQSEL) 13 8
/-- ELQSEL: asks for an entry; ignored while BUSY, and for a LOG above 33. -/
def elqSelect (m : Mach) (v : Dword) : Mach :=
  if elqBusy m ∨ 33 < bits v 5 0 then m else m.setReg regELQSEL ((v &&& 0x3F3F) ||| 0x8000000000000000)
/-- The monitor answers: the entry, ELCNT, BUSY clear. Logs 32 and 33 are those of the I/O dies. -/
def elqAnswer (m : Mach) : Mach :=
  if elqBusy m then
    let l := (m.panel (elqLog m)).log
    let i := elqIdx m
    let m := (List.range 4).foldl (fun m k => m.setReg (0x508 + 8 * k) (l.data i k)) m
    (m.setReg 0x528 l.cnt).setReg regELQSEL (m.reg regELQSEL &&& 0x3F3F)
  else m
/-- ELQD3 is read: the entry shown is marked read. -/
def elqRead (m : Mach) : Mach := m.modPanel (elqLog m) fun p => { p with log := p.log.markRead (elqIdx m) }
/-- ELQCLR. -/
def elqClear (m : Mach) (v : Dword) : Mach :=
  if elqBusy m ∨ !bit v 0 then m else m.modPanel (elqLog m) fun p => { p with log := ElLog.clear }

/-! ### Register writes -/

/-- MCREQ: with GO, the operation (Table 4-3); OP is kept in any case unless a request is in progress. -/
def mcreq (m : Mach) (v : Dword) : Mach :=
  let op := bits v 7 0
  if monBusy m then m
  else if !bit v 63 then m.setReg regMCREQ (dw op)
  else
    match op with
    | 0x01 => monRequest op pcreate m
    | 0x02 => monRequest op pdestroy m
    | 0x03 => monRequest op psend m
    | 0x04 => monRequest op pmark m
    | 0x05 => monRequest op pfab m
    | 0x10 => monRequest op vfcreate m
    | 0x11 => monRequest op vfdestroy m
    | 0x12 => monRequest op vfquota m
    | 0x13 => monRequest op vfkey m
    | 0x14 => monRequest op vfalloc m
    | 0x15 => monRequest op vffree m
    | 0x20 => monRequest op mstart m
    | 0x21 => monRequest op msnap m
    | 0x22 => monRequest op mquiesce m
    | 0x23 => monRequest op mcut m
    | 0x24 => monRequest op msave m
    | 0x25 => monRequest op mrestore m
    | 0x26 => monRequest op mrelay m
    | 0x27 => monRequest op mfwdc m
    | 0x28 => monRequest op mabort m
    | _ => monRequest op (fun _ => .refused 2) m

/-- A write of the PF's management window. -/
def pfWrite (m : Mach) (off : Nat) (v : Dword) : Mach :=
  if off = 0x100 then
    let m := if bit v 0 then m.setBoot { m.boot with warm := false } else m
    if bit v 1 then bstatGo m else m
  else if off = 0x108 then if bit v 63 then wsreq m else m
  else if off = 0x200 then qbWrite m v
  else if off = 0x208 then m.setReg off (v &&& 0xFFFFFFFFFFFFFFC0)
  else if off = 0x300 then mcreq m v
  else if 0x308 ≤ off ∧ off ≤ 0x320 ∧ off % 8 = 0 then m.setReg off v
  else if 0x340 ≤ off ∧ off ≤ 0x378 ∧ off % 8 = 0 then m.setReg off v
  else if off = regEVBASE then m.setReg off (v &&& 0xFFFFFFFFFFFFF000)
  else if off = regEVCTL then lostEvent (m.setReg off (v &&& 0xFFFF011F))
  else if off = regEVCONS then lostEvent (m.setReg off (v &&& 0xFFFFFFFF))
  else if off = regELQSEL then elqSelect m v
  else if off = 0x530 then elqClear m v
  else if 0x100000 ≤ off ∧ off < 0x200000 ∧ off % 8 = 0 ∧ m.boot.phase = 1 then
    m.setBoot { m.boot with window := m.boot.window.writeNat (off - 0x100000) 8 v.toNat }
  else m
/-- A write of a VF's doorbell page. An HBLEN above 2^40 is kept and acts as written (log 70). -/
def vfWrite (m : Mach) (vfn off : Nat) (v : Dword) : Mach :=
  let x := m.vf vfn
  if off < 0x800 then if off % 0x100 = 0 then ringDoorbell m vfn (off / 0x100) false else m
  else if off = 0x8018 then handleCommit m vfn v
  else if !x.live then m
  else if off = 0x8000 then m.setVf vfn { x with hbidx := bits v 9 0 }
  else if off = 0x8008 then m.setVf vfn { x with hbbase := v }
  else if off = 0x8010 then m.setVf vfn { x with hblen := v }
  else m
/-- REGISTER_WRITE of a function's window: 0 the PF, else a VF. -/
def registerWrite (m : Mach) (fn off : Nat) (v : Dword) : Mach :=
  if fn = 0 then pfWrite m off v else if fn ≤ m.sys.vfCount then vfWrite m fn off v else m

/-! ### Register reads -/

/-- What the host reads in the management window: what stands in readable fields, PSMAP of each panel at 0x400 (R10), the recovery
window while the package waits for an image (R35); WO fields, reserved fields and offsets of no register read 0 (R4). -/
def pfRead (m : Mach) (off : Nat) : Dword :=
  if off % 8 ≠ 0 then 0
  else if off = 0x100 then bstat m
  else if off = 0x108 then wsreqRead m
  else if off = 0x200 ∨ off = 0x208 ∨ off = 0x210 ∨ (0x300 ≤ off ∧ off ≤ 0x328) ∨ (0x380 ≤ off ∧ off ≤ 0x3A0) then m.reg off
  else if 0x400 ≤ off ∧ off < 0x500 then m.psmap ((off - 0x400) / 8)
  else if 0x500 ≤ off ∧ off ≤ 0x528 then m.reg off
  else if 0x100000 ≤ off ∧ off < 0x200000 ∧ m.boot.phase = 1 then dw (m.boot.window.readNat (off - 0x100000) 8)
  else 0
/-- What the host reads in a VF's doorbell page: doorbells are write-only, a staged handle can be read back (Table 3-12). -/
def vfRead (m : Mach) (vfn off : Nat) : Dword :=
  let x := m.vf vfn
  if off = 0x8000 then dw x.hbidx else if off = 0x8008 then x.hbbase else if off = 0x8010 then x.hblen
  else if off = 0x8018 then x.hbctl else 0
/-- A host read of a function's window: its value, and the machine after it; reading ELQD3 marks the entry shown. -/
def registerRead (m : Mach) (fn off : Nat) : Dword × Mach :=
  if fn = 0 then (pfRead m off, if off = 0x520 then elqRead m else m)
  else (if fn ≤ m.sys.vfCount then vfRead m fn off else 0, m)

/-- ELQSEL_WRITE (R237). -/
def execElqselWrite (st : State) : Res := runEvent (fun x m => elqSelect m x.v) st
/-- LOG_QUERY_DONE (R237). -/
def execLogQueryDone (st : State) : Res := runEvent (fun _ m => elqAnswer m) st
/-- ELQD3_READ (R237). -/
def execElqd3Read (st : State) : Res := runEvent (fun _ m => elqRead m) st
/-- ELQCLR (R237). -/
def execElqclr (st : State) : Res := runEvent (fun x m => elqClear m x.v) st
/-- REGISTER_WRITE (R4). -/
def execRegisterWrite (st : State) : Res := runEvent (fun x m => registerWrite m x.a x.b x.v) st

end Sys2Proof.Machine
end

