-- ==== Sys2Proof/Machine/Dispatch.lean ====
section
/-!
DEFINITION. The one match from an instruction to its meaning: a direct call of a definition of its own for every
row of spec/opcode_table.json.
-/
namespace Sys2Proof.Machine

def exec (i : Instr) (s : State) : Host.Outcome State Fault Refusal :=
  match i with
  | .add d a b => Sys2Proof.Machine.execAdd d a b s
  | .addi d a k => Sys2Proof.Machine.execAddi d a k s
  | .sub d a b => Sys2Proof.Machine.execSub d a b s
  | .mul d a b => Sys2Proof.Machine.execMul d a b s
  | .mulh d a b => Sys2Proof.Machine.execMulh d a b s
  | .mulhu d a b => Sys2Proof.Machine.execMulhu d a b s
  | .div d a b => Sys2Proof.Machine.execDiv d a b s
  | .divu d a b => Sys2Proof.Machine.execDivu d a b s
  | .rem d a b => Sys2Proof.Machine.execRem d a b s
  | .remu d a b => Sys2Proof.Machine.execRemu d a b s
  | .and d a b => Sys2Proof.Machine.execAnd d a b s
  | .andi d a k => Sys2Proof.Machine.execAndi d a k s
  | .or d a b => Sys2Proof.Machine.execOr d a b s
  | .ori d a k => Sys2Proof.Machine.execOri d a k s
  | .xor d a b => Sys2Proof.Machine.execXor d a b s
  | .xori d a k => Sys2Proof.Machine.execXori d a k s
  | .shl d a b => Sys2Proof.Machine.execShl d a b s
  | .shli d a k => Sys2Proof.Machine.execShli d a k s
  | .shr d a b => Sys2Proof.Machine.execShr d a b s
  | .shri d a k => Sys2Proof.Machine.execShri d a k s
  | .sra d a b => Sys2Proof.Machine.execSra d a b s
  | .srai d a k => Sys2Proof.Machine.execSrai d a k s
  | .clz d a => Sys2Proof.Machine.execClz d a s
  | .popc d a => Sys2Proof.Machine.execPopc d a s
  | .min d a b => Sys2Proof.Machine.execMin d a b s
  | .max d a b => Sys2Proof.Machine.execMax d a b s
  | .minu d a b => Sys2Proof.Machine.execMinu d a b s
  | .maxu d a b => Sys2Proof.Machine.execMaxu d a b s
  | .sel d a n p => Sys2Proof.Machine.execSel d a n p s
  | .li d k => Sys2Proof.Machine.execLi d k s
  | .addx d a k => Sys2Proof.Machine.execAddx d a k s
  | .cmpEq p a b => Sys2Proof.Machine.execCmpEq p a b s
  | .cmpNe p a b => Sys2Proof.Machine.execCmpNe p a b s
  | .cmpLt p a b => Sys2Proof.Machine.execCmpLt p a b s
  | .cmpLe p a b => Sys2Proof.Machine.execCmpLe p a b s
  | .cmpLtu p a b => Sys2Proof.Machine.execCmpLtu p a b s
  | .cmpLeu p a b => Sys2Proof.Machine.execCmpLeu p a b s
  | .cmpiEq p a k => Sys2Proof.Machine.execCmpiEq p a k s
  | .cmpiNe p a k => Sys2Proof.Machine.execCmpiNe p a k s
  | .cmpiLt p a k => Sys2Proof.Machine.execCmpiLt p a k s
  | .cmpiLe p a k => Sys2Proof.Machine.execCmpiLe p a k s
  | .cmpiLtu p a k => Sys2Proof.Machine.execCmpiLtu p a k s
  | .cmpiLeu p a k => Sys2Proof.Machine.execCmpiLeu p a k s
  | .pset f d a b => Sys2Proof.Machine.execPset f d a b s
  | .pmov d a k => Sys2Proof.Machine.execPmov d a k s
  | .br k => Sys2Proof.Machine.execBr k s
  | .call k => Sys2Proof.Machine.execCall k s
  | .ret => Sys2Proof.Machine.execRet s
  | .jr d a => Sys2Proof.Machine.execJr d a s
  | .bq q t k => Sys2Proof.Machine.execBq q t k s
  | .loop a k e => Sys2Proof.Machine.execLoop a k e s
  | .loopi k n e => Sys2Proof.Machine.execLoopi k n e s
  | .csrr d c => Sys2Proof.Machine.execCsrr d c s
  | .csrw x c => Sys2Proof.Machine.execCsrw x c s
  | .csrs x c => Sys2Proof.Machine.execCsrs x c s
  | .csrc x c => Sys2Proof.Machine.execCsrc x c s
  | .ldb d a x k => Sys2Proof.Machine.execLdb d a x k s
  | .ldbu d a x k => Sys2Proof.Machine.execLdbu d a x k s
  | .ldh d a x k => Sys2Proof.Machine.execLdh d a x k s
  | .ldhu d a x k => Sys2Proof.Machine.execLdhu d a x k s
  | .ldw d a x k => Sys2Proof.Machine.execLdw d a x k s
  | .ldwu d a x k => Sys2Proof.Machine.execLdwu d a x k s
  | .ldd d a x k => Sys2Proof.Machine.execLdd d a x k s
  | .stb x a k => Sys2Proof.Machine.execStb x a k s
  | .sth x a k => Sys2Proof.Machine.execSth x a k s
  | .stw x a k => Sys2Proof.Machine.execStw x a k s
  | .std x a k => Sys2Proof.Machine.execStd x a k s
  | .ldv d a x k => Sys2Proof.Machine.execLdv d a x k s
  | .stv x a k => Sys2Proof.Machine.execStv x a k s
  | .amo d a f o => Sys2Proof.Machine.execAmo d a f o s
  | .cas d a o => Sys2Proof.Machine.execCas d a o s
  | .ownx a b => Sys2Proof.Machine.execOwnx a b s
  | .owna a => Sys2Proof.Machine.execOwna a s
  | .owns a k => Sys2Proof.Machine.execOwns a k s
  | .ownf a => Sys2Proof.Machine.execOwnf a s
  | .ownq d a => Sys2Proof.Machine.execOwnq d a s
  | .semsig a b => Sys2Proof.Machine.execSemsig a b s
  | .semwait a b => Sys2Proof.Machine.execSemwait a b s
  | .semtry d a b => Sys2Proof.Machine.execSemtry d a b s
  | .prefg a k => Sys2Proof.Machine.execPrefg a k s
  | .vadd d a b => Sys2Proof.Machine.execVadd d a b s
  | .vsub d a b => Sys2Proof.Machine.execVsub d a b s
  | .vmul d a b => Sys2Proof.Machine.execVmul d a b s
  | .vfma d a b => Sys2Proof.Machine.execVfma d a b s
  | .vfms d a b => Sys2Proof.Machine.execVfms d a b s
  | .vmin d a b => Sys2Proof.Machine.execVmin d a b s
  | .vmax d a b => Sys2Proof.Machine.execVmax d a b s
  | .vabs d a => Sys2Proof.Machine.execVabs d a s
  | .vneg d a => Sys2Proof.Machine.execVneg d a s
  | .vand d a b => Sys2Proof.Machine.execVand d a b s
  | .vor d a b => Sys2Proof.Machine.execVor d a b s
  | .vxor d a b => Sys2Proof.Machine.execVxor d a b s
  | .vnot d a => Sys2Proof.Machine.execVnot d a s
  | .vshl d a k => Sys2Proof.Machine.execVshl d a k s
  | .vshr d a k => Sys2Proof.Machine.execVshr d a k s
  | .vsra d a k => Sys2Proof.Machine.execVsra d a k s
  | .vrshr d a n k => Sys2Proof.Machine.execVrshr d a n k s
  | .vcmp d a b => Sys2Proof.Machine.execVcmp d a b s
  | .vsel d a b => Sys2Proof.Machine.execVsel d a b s
  | .vmov d a => Sys2Proof.Machine.execVmov d a s
  | .vzero d => Sys2Proof.Machine.execVzero d s
  | .vbcast d a => Sys2Proof.Machine.execVbcast d a s
  | .vext d a b => Sys2Proof.Machine.execVext d a b s
  | .vins d a b => Sys2Proof.Machine.execVins d a b s
  | .vslide d a b => Sys2Proof.Machine.execVslide d a b s
  | .vslidei d a r z k => Sys2Proof.Machine.execVslidei d a r z k s
  | .vperm d a b => Sys2Proof.Machine.execVperm d a b s
  | .viota d a => Sys2Proof.Machine.execViota d a s
  | .vred d a f => Sys2Proof.Machine.execVred d a f s
  | .vmac2 d a b => Sys2Proof.Machine.execVmac2 d a b s
  | .vdot4 d a b => Sys2Proof.Machine.execVdot4 d a b s
  | .vcvt d a t h => Sys2Proof.Machine.execVcvt d a t h s
  | .vcvts d a h => Sys2Proof.Machine.execVcvts d a h s
  | .vtype k t => Sys2Proof.Machine.execVtype k t s
  | .vwin x v => Sys2Proof.Machine.execVwin x v s
  | .fexp2 d a => Sys2Proof.Machine.execFexp2 d a s
  | .flog2 d a => Sys2Proof.Machine.execFlog2 d a s
  | .frcp d a => Sys2Proof.Machine.execFrcp d a s
  | .frsq d a => Sys2Proof.Machine.execFrsq d a s
  | .fsqrt d a => Sys2Proof.Machine.execFsqrt d a s
  | .ftanh d a => Sys2Proof.Machine.execFtanh d a s
  | .fsigm d a => Sys2Proof.Machine.execFsigm d a s
  | .ferf d a => Sys2Proof.Machine.execFerf d a s
  | .rng d => Sys2Proof.Machine.execRng d s
  | .vpart d a b => Sys2Proof.Machine.execVpart d a b s
  | .vtopk d a k x => Sys2Proof.Machine.execVtopk d a k x s
  | .mxq d a h => Sys2Proof.Machine.execMxq d a h s
  | .mxd d a h => Sys2Proof.Machine.execMxd d a h s
  | .fscale d a b => Sys2Proof.Machine.execFscale d a b s
  | .fclass d a => Sys2Proof.Machine.execFclass d a s
  | .fminmaxn d a b => Sys2Proof.Machine.execFminmaxn d a b s
  | .mcfgT a b => Sys2Proof.Machine.execMcfgT a b s
  | .mcfgW a => Sys2Proof.Machine.execMcfgW a s
  | .mlda n a b => Sys2Proof.Machine.execMlda n a b s
  | .mgath n a b => Sys2Proof.Machine.execMgath n a b s
  | .mma k n => Sys2Proof.Machine.execMma k n s
  | .mmaz k n => Sys2Proof.Machine.execMmaz k n s
  | .mmask r c => Sys2Proof.Machine.execMmask r c s
  | .mdrain k n => Sys2Proof.Machine.execMdrain k n s
  | .mzero k t => Sys2Proof.Machine.execMzero k t s
  | .mspill k a => Sys2Proof.Machine.execMspill k a s
  | .mfill k a t => Sys2Proof.Machine.execMfill k a t s
  | .mwait k x => Sys2Proof.Machine.execMwait k x s
  | .mstat d => Sys2Proof.Machine.execMstat d s
  | .sload n a => Sys2Proof.Machine.execSload n a s
  | .sgo n => Sys2Proof.Machine.execSgo n s
  | .sstop n => Sys2Proof.Machine.execSstop n s
  | .swait n => Sys2Proof.Machine.execSwait n s
  | .qbind n p c o => Sys2Proof.Machine.execQbind n p c o s
  | .qflush n => Sys2Proof.Machine.execQflush n s
  | .qstat d n => Sys2Proof.Machine.execQstat d n s
  | .cpy d a c => Sys2Proof.Machine.execCpy d a c s
  | .cpyp d a c => Sys2Proof.Machine.execCpyp d a c s
  | .cpym d a c => Sys2Proof.Machine.execCpym d a c s
  | .cwait n a x => Sys2Proof.Machine.execCwait n a x s
  | .cwpos d n => Sys2Proof.Machine.execCwpos d n s
  | .seamo d a => Sys2Proof.Machine.execSeamo d a s
  | .seamg h t a => Sys2Proof.Machine.execSeamg h t a s
  | .seamp h t a => Sys2Proof.Machine.execSeamp h t a s
  | .seamcClose d h => Sys2Proof.Machine.execSeamcClose d h s
  | .seamcSettle t h => Sys2Proof.Machine.execSeamcSettle t h s
  | .seams d h t => Sys2Proof.Machine.execSeams d h t s
  | .wpop d n b => Sys2Proof.Machine.execWpop d n b s
  | .wpopQ n b m => Sys2Proof.Machine.execWpopQ n b m s
  | .wpush d a n b => Sys2Proof.Machine.execWpush d a n b s
  | .wclose n => Sys2Proof.Machine.execWclose n s
  | .coll d a => Sys2Proof.Machine.execColl d a s
  | .collw d a b => Sys2Proof.Machine.execCollw d a b s
  | .life a b c x => Sys2Proof.Machine.execLife a b c x s
  | .refr a b => Sys2Proof.Machine.execRefr a b s
  | .ageq d a => Sys2Proof.Machine.execAgeq d a s
  | .dmaq d a b => Sys2Proof.Machine.execDmaq d a b s
  | .nop => Sys2Proof.Machine.execNop s
  | .bar v => Sys2Proof.Machine.execBar v s
  | .barq d v => Sys2Proof.Machine.execBarq d v s
  | .fence c => Sys2Proof.Machine.execFence c s
  | .chk k r n => Sys2Proof.Machine.execChk k r n s
  | .chkt k r => Sys2Proof.Machine.execChkt k r s
  | .pclr k r => Sys2Proof.Machine.execPclr k r s
  | .trap n => Sys2Proof.Machine.execTrap n s
  | .tret => Sys2Proof.Machine.execTret s
  | .yield => Sys2Proof.Machine.execYield s
  | .swpt k => Sys2Proof.Machine.execSwpt k s
  | .done => Sys2Proof.Machine.execDone s
  | .waite d a m => Sys2Proof.Machine.execWaite d a m s
  | .brk n => Sys2Proof.Machine.execBrk n s
  | .gcond a b => Sys2Proof.Machine.execGcond a b s
  | .ecall => Sys2Proof.Machine.execEcall s
  | .frz d a y => Sys2Proof.Machine.execFrz d a y s
  | .thaw d a b => Sys2Proof.Machine.execThaw d a b s
  | .park d a => Sys2Proof.Machine.execPark d a s
  | .pmpw n a b => Sys2Proof.Machine.execPmpw n a b s
  | .tlbi a b => Sys2Proof.Machine.execTlbi a b s
  | .keyl a b => Sys2Proof.Machine.execKeyl a b s
  | .slotb d a b => Sys2Proof.Machine.execSlotb d a b s
  | .siteq d a => Sys2Proof.Machine.execSiteq d a s
  | .sitec d a b => Sys2Proof.Machine.execSitec d a b s
  | .qcbb d a b => Sys2Proof.Machine.execQcbb d a b s
  | .halt => Sys2Proof.Machine.execHalt s
  | .bh x v p t => Sys2Proof.Machine.execBh x v p t s
  | .kx k => Sys2Proof.Machine.execKx k s
  | .coldStart => Sys2Proof.Machine.execColdStart s
  | .bstatGo => Sys2Proof.Machine.execBstatGo s
  | .wsreqGo => Sys2Proof.Machine.execWsreqGo s
  | .warmStartDecision => Sys2Proof.Machine.execWarmStartDecision s
  | .dieReady => Sys2Proof.Machine.execDieReady s
  | .calibrationComplete => Sys2Proof.Machine.execCalibrationComplete s
  | .svnupWrite => Sys2Proof.Machine.execSvnupWrite s
  | .attestationRequest => Sys2Proof.Machine.execAttestationRequest s
  | .certificateRequest => Sys2Proof.Machine.execCertificateRequest s
  | .ucieLinkFailure => Sys2Proof.Machine.execUcieLinkFailure s
  | .ualinkLaneFailure => Sys2Proof.Machine.execUalinkLaneFailure s
  | .launchPacket => Sys2Proof.Machine.execLaunchPacket s
  | .launchPacketRecheck => Sys2Proof.Machine.execLaunchPacketRecheck s
  | .forwardedWrite => Sys2Proof.Machine.execForwardedWrite s
  | .forwardEnd => Sys2Proof.Machine.execForwardEnd s
  | .remoteWrite => Sys2Proof.Machine.execRemoteWrite s
  | .remoteRead => Sys2Proof.Machine.execRemoteRead s
  | .sensorSample => Sys2Proof.Machine.execSensorSample s
  | .clockRestart => Sys2Proof.Machine.execClockRestart s
  | .doorbell => Sys2Proof.Machine.execDoorbell s
  | .nopCommand => Sys2Proof.Machine.execNopCommand s
  | .invoke => Sys2Proof.Machine.execInvoke s
  | .loadslot => Sys2Proof.Machine.execLoadslot s
  | .unloadslot => Sys2Proof.Machine.execUnloadslot s
  | .swapweights => Sys2Proof.Machine.execSwapweights s
  | .graph => Sys2Proof.Machine.execGraph s
  | .copyh => Sys2Proof.Machine.execCopyh s
  | .signal => Sys2Proof.Machine.execSignal s
  | .wait => Sys2Proof.Machine.execWait s
  | .fenceCommand => Sys2Proof.Machine.execFenceCommand s
  | .mark => Sys2Proof.Machine.execMark s
  | .waitSatisfied => Sys2Proof.Machine.execWaitSatisfied s
  | .waitTimeout => Sys2Proof.Machine.execWaitTimeout s
  | .cconsPoll => Sys2Proof.Machine.execCconsPoll s
  | .copyhDone => Sys2Proof.Machine.execCopyhDone s
  | .pageRequestResponse => Sys2Proof.Machine.execPageRequestResponse s
  | .slotLoadDone => Sys2Proof.Machine.execSlotLoadDone s
  | .generationRetired => Sys2Proof.Machine.execGenerationRetired s
  | .bind => Sys2Proof.Machine.execBind s
  | .rebind => Sys2Proof.Machine.execRebind s
  | .detach => Sys2Proof.Machine.execDetach s
  | .release => Sys2Proof.Machine.execRelease s
  | .handleCommit => Sys2Proof.Machine.execHandleCommit s
  | .pcreate => Sys2Proof.Machine.execPcreate s
  | .pdestroy => Sys2Proof.Machine.execPdestroy s
  | .psend => Sys2Proof.Machine.execPsend s
  | .pmark => Sys2Proof.Machine.execPmark s
  | .pfab => Sys2Proof.Machine.execPfab s
  | .vfcreate => Sys2Proof.Machine.execVfcreate s
  | .vfdestroy => Sys2Proof.Machine.execVfdestroy s
  | .vfquota => Sys2Proof.Machine.execVfquota s
  | .vfkey => Sys2Proof.Machine.execVfkey s
  | .vfalloc => Sys2Proof.Machine.execVfalloc s
  | .vfallocZeroed => Sys2Proof.Machine.execVfallocZeroed s
  | .vffree => Sys2Proof.Machine.execVffree s
  | .mstart => Sys2Proof.Machine.execMstart s
  | .msnap => Sys2Proof.Machine.execMsnap s
  | .mquiesce => Sys2Proof.Machine.execMquiesce s
  | .quiesceComplete => Sys2Proof.Machine.execQuiesceComplete s
  | .mquiesceTimeout => Sys2Proof.Machine.execMquiesceTimeout s
  | .mcut => Sys2Proof.Machine.execMcut s
  | .msave => Sys2Proof.Machine.execMsave s
  | .mrestore => Sys2Proof.Machine.execMrestore s
  | .mrelay => Sys2Proof.Machine.execMrelay s
  | .mfwdc => Sys2Proof.Machine.execMfwdc s
  | .mabort => Sys2Proof.Machine.execMabort s
  | .vfCountLowered => Sys2Proof.Machine.execVfCountLowered s
  | .watchdogExpiry => Sys2Proof.Machine.execWatchdogExpiry s
  | .wdack => Sys2Proof.Machine.execWdack s
  | .temptabWrite => Sys2Proof.Machine.execTemptabWrite s
  | .slctlWrite => Sys2Proof.Machine.execSlctlWrite s
  | .ptrootWrite => Sys2Proof.Machine.execPtrootWrite s
  | .fltrSupply => Sys2Proof.Machine.execFltrSupply s
  | .fltrRefuse => Sys2Proof.Machine.execFltrRefuse s
  | .pageWalk => Sys2Proof.Machine.execPageWalk s
  | .schedulerSelection => Sys2Proof.Machine.execSchedulerSelection s
  | .reservationRetry => Sys2Proof.Machine.execReservationRetry s
  | .sliceBoundary => Sys2Proof.Machine.execSliceBoundary s
  | .residencyRotation => Sys2Proof.Machine.execResidencyRotation s
  | .yieldDeadline => Sys2Proof.Machine.execYieldDeadline s
  | .yieldComplete => Sys2Proof.Machine.execYieldComplete s
  | .barrierArrival => Sys2Proof.Machine.execBarrierArrival s
  | .graphNodeRun => Sys2Proof.Machine.execGraphNodeRun s
  | .graphDeadlineOverrun => Sys2Proof.Machine.execGraphDeadlineOverrun s
  | .scanOutComplete => Sys2Proof.Machine.execScanOutComplete s
  | .inboxHeldDelivery => Sys2Proof.Machine.execInboxHeldDelivery s
  | .packetResend => Sys2Proof.Machine.execPacketResend s
  | .streamRowTransfer => Sys2Proof.Machine.execStreamRowTransfer s
  | .copyChannelTransfer => Sys2Proof.Machine.execCopyChannelTransfer s
  | .postArrival => Sys2Proof.Machine.execPostArrival s
  | .latchFill => Sys2Proof.Machine.execLatchFill s
  | .matrixOpComplete => Sys2Proof.Machine.execMatrixOpComplete s
  | .lifetimeTick => Sys2Proof.Machine.execLifetimeTick s
  | .rowGroupExpiry => Sys2Proof.Machine.execRowGroupExpiry s
  | .refreshQueued => Sys2Proof.Machine.execRefreshQueued s
  | .rowGroupRefresh => Sys2Proof.Machine.execRowGroupRefresh s
  | .rowGroupClear => Sys2Proof.Machine.execRowGroupClear s
  | .eld3Read => Sys2Proof.Machine.execEld3Read s
  | .elclr => Sys2Proof.Machine.execElclr s
  | .einjcWrite => Sys2Proof.Machine.execEinjcWrite s
  | .elqselWrite => Sys2Proof.Machine.execElqselWrite s
  | .logQueryDone => Sys2Proof.Machine.execLogQueryDone s
  | .elqd3Read => Sys2Proof.Machine.execElqd3Read s
  | .elqclr => Sys2Proof.Machine.execElqclr s
  | .ownershipReply => Sys2Proof.Machine.execOwnershipReply s
  | .gateRecordArrival => Sys2Proof.Machine.execGateRecordArrival s
  | .putArrival => Sys2Proof.Machine.execPutArrival s
  | .seamResend => Sys2Proof.Machine.execSeamResend s
  | .seamTimeout => Sys2Proof.Machine.execSeamTimeout s
  | .slotRelease => Sys2Proof.Machine.execSlotRelease s
  | .seamRefill => Sys2Proof.Machine.execSeamRefill s
  | .collectiveComplete => Sys2Proof.Machine.execCollectiveComplete s
  | .taskDone => Sys2Proof.Machine.execTaskDone s
  | .waiteTimeout => Sys2Proof.Machine.execWaiteTimeout s
  | .registerWrite => Sys2Proof.Machine.execRegisterWrite s
  | .memoryResponse => Sys2Proof.Machine.execMemoryResponse s
  | .fabricTransportFailure => Sys2Proof.Machine.execFabricTransportFailure s
  | .sriovVfEnable => Sys2Proof.Machine.execSriovVfEnable s

end Sys2Proof.Machine
end

