-- ==== Sys2Proof/Machine/Due.lean ====
section
/-!
DEFINITION. Background work that is ready to be done while the next bundle of the issuing agent waits: the order in which
the model lets it happen (a choice of time that the spec leaves open; log 12), and whether the machine runs at all.
-/
namespace Sys2Proof.Machine

/-- Sets of the running task's launch that stand spilled: lead panel and set index (R285). -/
def spilledSets (m : Mach) : List (Nat × Nat) :=
  match m.core.ctl.task with
  | some t => (m.sys.sets.filter fun e => e.2.isOpen && e.2.spl && e.2.launch == t.launch).map fun e =>
      (e.1 / 4096 % 32, e.1 / 256 % 16)
  | none => []

/-- What the tile's own engines have to do. -/
def ownWork (m : Mach) : List Input :=
  let a := m.me
  let c := m.core
  let one := fun (b : Bool) (i : Instr) => if b then [(⟨i, { a := a }⟩ : Input)] else []
  let open_ := fun (o : Option OwnReq) => match o with
    | some r => r.reply.isNone && r.sent.isSome
    | none => false
  let fabric := fun (x : CCmd) => x.op == 0 && bits x.src 63 60 == 1 && x.asked
  one (c.ctl.resp != []) .memoryResponse ++ one (open_ c.ctl.own) .ownershipReply ++
    one ((match c.eng.mq with
      | o :: _ => o.isGlobal
      | [] => false) && !c.eng.mhalt) .matrixOpComplete ++
    (c.eng.ch.filter fun e => !e.2.halted && (match e.2.cmds with
      | x :: _ => !fabric x
      | [] => false)).map (fun e => ⟨.copyChannelTransfer, { a := a, b := e.1 }⟩) ++
    (c.eng.se.filter fun e => e.2.st == 2 && !e.2.halted).map (fun e => ⟨.streamRowTransfer, { a := a, b := e.1 }⟩) ++
    one (m.netOf a != []) .postArrival ++
    one (!c.eng.ihalt && ((c.ctl.task.map (heldFor m)).getD []).any fun p => p.seq == seqNext (c.rcvd p.srcKey)) .inboxHeldDelivery ++ one (c.eng.posts != []) .packetResend ++
    c.ctl.arrReq.map (fun x => ⟨.barrierArrival, { a := a, b := x.1 }⟩) ++ one (c.ctl.wait == .done) .taskDone ++
    one (c.eng.pkts.any fun p => p.again) .seamResend ++
    (c.mem.ag.filter fun e => e.2.clr).map (fun e => ⟨.rowGroupClear, { a := a, b := e.1 }⟩) ++
    (c.mem.wg.filter fun e => e.2.clr).map (fun e => ⟨.rowGroupClear, { a := a, b := 1024 + e.1 }⟩)
/-- What the seam units of panels have to do: packets in, releases out. -/
def seamWork (m : Mach) : List Input :=
  (m.sys.panels.filter fun e => e.2.inq != []).flatMap (fun e =>
    (if e.2.inq.any fun k => k.kind == 1 then [⟨.gateRecordArrival, { a := e.1 }⟩] else []) ++
      (if e.2.inq.any fun k => k.kind == 2 then [⟨.putArrival, { a := e.1 }⟩] else [])) ++
    m.sys.panels.flatMap fun e => e.2.setOf.flatMap fun i =>
      let s := m.set_ (i.2 - 1)
      let here := s.slots.filter fun x => s.panelFor (x.1 / 65536) == e.1
      (here.filter fun x => x.2.st == 1 && x.2.timer == some 0).map (fun x => ⟨.seamTimeout, { a := e.1, b := i.1, c := x.1 }⟩) ++
        (here.filter fun x => x.2.st == 4).map fun x => ⟨.slotRelease, { a := e.1, b := i.1, c := x.1 }⟩

/-- The step that carries a monitor request on. -/
def opEvent (op : Nat) : Option Instr :=
  match op with
  | 0x10 => some .vfcreate
  | 0x11 => some .vfdestroy
  | 0x12 => some .vfquota
  | 0x13 => some .vfkey
  | 0x14 => some .vfalloc
  | 0x15 => some .vffree
  | 0x20 => some .mstart
  | 0x21 => some .msnap
  | 0x22 => some .mquiesce
  | 0x23 => some .mcut
  | 0x24 => some .msave
  | 0x25 => some .mrestore
  | 0x26 => some .mrelay
  | 0x28 => some .mabort
  | _ => none
/-- What the monitor has to do: a bind request in progress, a request that waited and may go on, VFs to be destroyed (R53, R88, R91). -/
def monWork (m : Mach) : List Input :=
  let qb := m.reg regQBREQ
  (if qbBusy m && !monHolds m (bits qb 41 32) then
    match bits qb 49 48 with
    | 0 => [⟨.bind, { v := qb }⟩]
    | 1 => [⟨.rebind, { v := qb }⟩]
    | 2 => [⟨.detach, { v := qb }⟩]
    | _ => [⟨.release, { v := qb }⟩]
  else []) ++
    (match monPending m with
      | some op => if monReady m op then ((opEvent op).map fun i => (⟨i, {}⟩ : Input)).toList else []
      | none => []) ++
    match m.sys.vfLow with
    | some n => if m.sys.vfs.any fun e => e.2.live && decide (n < e.1) && !vfHeld m e.1 then [⟨.vfCountLowered, { a := n }⟩] else []
    | none => []

/-- Packets on their way to a site where no task issues: the park inbox takes them, or they follow the task (R165, R172). -/
def netWork (m : Mach) : List Input :=
  (m.sys.net.filter fun e => e.2 != [] && !m.seated e.1 && m.clocked (dieOf e.1)).map fun e => ⟨.postArrival, { a := e.1 }⟩

/-- The fill and the operation of the matrix engine whose time has come (Table 17-5), at most `n` in all. -/
def timedWork (n : Nat) (m : Mach) : Mach :=
  match n with
  | 0 => m
  | n + 1 =>
    let c := m.core
    let fill := match c.eng.fills with
      | f :: _ => decide (f.fin ≤ c.ctl.cyc) && !c.eng.ghalt
      | [] => false
    let op := if c.eng.mhalt then none else opDue c c.ctl.cyc
    if fill || op.isSome then
      let m := if fill then completeFill m m.me else m
      timedWork n (match op with
        | some i => opStep m m.me i
        | none => m)
    else m
/-- All work of the issuing agent's engines whose time has come: answers held while it was stopped (R286), the matrix engine, and rows of
stream engines (R193). -/
def engineWork (m : Mach) : Mach := streamWork 64 (timedWork 8 (seamHandOver m))

/-- The next step of background work, each kind in its turn; a die whose clock stands has none but its restart. -/
def dueStep (m : Mach) : Option Input :=
  let d := dieOfAgent m.me
  if (m.die d).pend.isSome then some ⟨.clockRestart, { a := d }⟩
  else
    match if m.isTile then spilledSets m else [] with
    | s :: _ => some ⟨.seamRefill, { a := s.1, b := s.2 }⟩
    | [] =>
    let l := (if m.isTile then ownWork m else []) ++ seamWork m ++ netWork m ++ monWork m
    l[(m.core.ctl.cyc + m.core.ctl.cyc / 16) % max 1 l.length]?

/-- After a bundle has issued: at every sixteenth cycle the background work that is ready comes next, so that none of it waits
for ever on an agent that never waits (log 12). -/
def afterIssue (s : State) : State :=
  if s.inputs = [] ∧ s.m.core.ctl.cyc % 16 = 0 then { s with inputs := (dueStep s.m).toList } else s

/-- Whether the agent can issue at all: the package runs a monitor and is not shut down, the die's clock runs; a tile whose
task is RUNNING or YIELDING and whose launch has no spilled set, a command core. -/
def canIssue (m : Mach) : Bool :=
  decide (2 ≤ m.sys.boot.phase) && !m.sys.boot.trip && (m.die (dieOfAgent m.me)).pend.isNone &&
    (if m.isTile then ((m.site m.me).tst == 1 || (m.site m.me).tst == 2) && spilledSets m == [] else true)

/-- Whether a step from outside reaches the machine: after a thermal trip only a cold start does (R32). -/
def takesInput (m : Mach) (i : Instr) : Bool := !m.sys.boot.trip || i == .coldStart

end Sys2Proof.Machine
end

