-- ==== Sys2Proof/Machine/Step.lean ====
section
/-!
DEFINITION. One step of the machine: a step from outside or of a background unit if one waits, else the next agent's
turn if one is listed, else the next bundle of the issuing agent (13_instruction_encoding R313-R321). And where the
host puts an instruction so that the next step runs it.
-/
namespace Sys2Proof.Machine

/-- Execute the words of a schedule one after another; a word that ends the bundle (a trap, a wait) leaves none. -/
def runWords (ws : List (Nat × Word32)) (s : State) : Host.Outcome State Fault Refusal :=
  match ws with
  | [] => .next s
  | p :: t =>
    match s.bundle with
    | none => .next s
    | some _ =>
      match decode p.2 with
      | .error _ => .next s
      | .ok w =>
        match exec w.instr (atWord s p) with
        | .next s' => runWords t (pastWord s' p.2)
        | .fault f => .fault f
        | .refused r => .refused r

/-- Close the bundle, if its words have not ended it. -/
def closeState (s : State) : State :=
  match s.bundle with
  | some b => closeBundle s b
  | none => s

/-- The agent's bundle does not issue yet: its engines go on, or a cycle passes. -/
def idle (s : State) : Host.Outcome State Fault Refusal :=
  match dueStep s.m with
  | some i => exec i.what { s with arg := i.arg, bundle := none }
  | none => .next s

/-- The overrun that a word of a stamped bundle would be, before any trap of its words (R320 step 5). -/
def overrun (s : State) (ws : List Word32) : Option (Nat × Dword) :=
  let o := openBundle s ws
  match runWords (schedule s.m ws) { o with bundle := o.bundle.map fun b => { b with probe := true } } with
  | .next s' => s'.bundle.bind fun b => b.overdue
  | _ => none

/-- Issue the bundle of the words `ws`, which the checks of steps 1 to 5 have passed. -/
def issue (s : State) (ws : List Word32) : Host.Outcome State Fault Refusal :=
  match runWords (schedule s.m ws) (openBundle s ws) with
  | .next s' =>
    match s'.bundle with
    | some b =>
      match b.own with
      | some r => .next (ownPend s r)
      | none => .next (afterIssue (closeState s'))
    | none => if s'.m.core.ctl.blockAt.isSome && s'.m.me == s.m.me then idle s' else .next s'
  | .fault f => .fault f
  | .refused r => .refused r

/-- The words of the bundle at the program counter. -/
def bundleAt (m : Mach) : List Word32 := fetchWords m m.pcb 8

/-- Wait until cycle `t`. -/
def waitCycle (s : State) (t : Nat) : State := { s with m := blockUntil s.m t }

/-- The bundle of the words fetched: the checks of steps 1 to 5, its stamp or its guards, then it issues. -/
def fetchedBundle (s : State) (ws : List Word32) : Host.Outcome State Fault Refusal :=
  match earlyTrap s.m s.m.pcb ws with
  | some f => .next (trapState s f)
  | none =>
    match stampOf s.m ws with
    | some t =>
      if sfcOf s.m < t then idle (waitCycle s (s.m.core.ctl.sfc0 + t))
      else
        match overrun s ws with
        | some o => .next (trapState s ⟨0x08, o.1, o.2⟩)
        | none => issue s ws
    | none =>
      if s.m.core.ctl.cyc < guardsReady s.m ws then idle (waitCycle s (guardsReady s.m ws)) else issue s ws

/-- The next bundle of the issuing agent. -/
def nextBundle (s : State) : Host.Outcome State Fault Refusal :=
  match pendingTrap s.m with
  | some f => .next (trapState (dropPending s) f)
  | none =>
    let ws := bundleAt s.m
    let s := { s with m := fetched s.m ws }
    if fetchFails s.m ws then .next { s with bundle := none, m := ccRestart s.m (s.m.me - 1152) 1 }
    else fetchedBundle s ws

/-- A bundle that has issued and waits for the answer to its ownership word (R368, R369): the request is sent, the answer waited
for, and then its words take effect. -/
def ownWait (s : State) (r : OwnReq) : Host.Outcome State Fault Refusal :=
  if r.reply.isSome then issue s (bundleAt s.m)
  else
    let s := { s with m := sendOwn s.m }
    if s.m.isTile && !s.m.seated s.m.me then .next s else idle (waitCycle s 0)

/-- The next bundle, or the one that waits for its ownership word. -/
def bundleStep (s : State) : Host.Outcome State Fault Refusal :=
  match s.m.core.ctl.own with
  | some r => ownWait s r
  | none => nextBundle s

/-- One step. -/
def step (s : State) : Host.Outcome State Fault Refusal :=
  match s.inputs with
  | i :: rest =>
    let s := { s with inputs := rest, arg := i.arg, bundle := none }
    if isEvent i.what && takesInput s.m i.what then exec i.what s else .next s
  | [] =>
    match s.turns with
    | a :: rest =>
      if agentOk a then .next { s with turns := rest, m := s.m.focus a } else .next { s with turns := rest }
    | [] =>
      if !agentOk s.m.me then .fault .noAgent
      else if !canIssue s.m then idle { s with bundle := none }
      else
        let r := endWait (engineWork s.m)
        if r.2 then bundleStep { s with m := r.1, bundle := none }
        else idle (waitCycle { s with m := r.1, bundle := none } 0)

/-- `s` with one instruction stored where `step` fetches next; a row of the table without bits has no word to store. -/
def State.withFetchWord (s : State) (nbits w : Nat) : State :=
  if nbits = 32 then placeWord s (BitVec.ofNat 32 w) else s

end Sys2Proof.Machine
end

