-- ==== Sys2Proof/Safety.lean ====
section
/-!
DEFINITION. The terms in which claims about the machine are stated: a run that goes on, when an operand reads and a result
writes, and what a word leaves unchanged.
-/
namespace Sys2Proof.Safety
open Sys2Proof.Machine

/-- The next step from `s` answers a state. -/
def goesOn (s : State) : Bool :=
  match step s with
  | .next _ => true
  | .fault _ => false
  | .refused _ => false

/-! ### Operands and results (13_instruction_encoding R318, R324; 08_the_tile R202) -/

/-- The checks of step 3 of R320 pass: the word is well formed where it stands, its level and features suffice, its element
types are allowed. -/
def Legal (i : Instr) (s : State) : Prop := trap3 i s.old = none

/-- Scalar operand `r` is ready and reads as `x`; `t` is the state after the read (a port has given up its item). -/
def ReadsS (r : BitVec 6) (s : State) (x : SReg) (t : State) : Prop := rdS r.toNat s = .ok (x, t)
/-- The same, with the value free of poison. -/
def ReadsC (r : BitVec 6) (s : State) (v : Dword) (t : State) : Prop := ReadsS r s ⟨v, false⟩ t
/-- Predicate operand `r` is ready and reads as `x`. -/
def ReadsP {w : Nat} (r : BitVec w) (s : State) (x : PReg) (t : State) : Prop := rdP r.toNat s = .ok (x, t)
/-- Vector name `r` is ready and reads as the row `x`. -/
def ReadsV (r : BitVec 6) (s : State) (x : RowP) (t : State) : Prop := rdV r.toNat s = .ok (x, t)
/-- The old value of a vector destination (R380). -/
def ReadsOld (r : BitVec 6) (s : State) (x : RowP) (t : State) : Prop := rdOldV r.toNat s = .ok (x, t)
/-- Scalar destination `r` takes `x`, usable `lat` cycles later; `t` is the state after the write. -/
def WritesS (r : BitVec 6) (x : SReg) (lat : Nat) (s t : State) : Prop := wrS r.toNat x lat s = .ok ((), t)
/-- The same for a predicate and for a vector name. -/
def WritesP (r : Nat) (x : PReg) (lat : Nat) (s t : State) : Prop := wrP r x lat s = .ok ((), t)
def WritesV (r : BitVec 6) (x : RowP) (lat : Nat) (s t : State) : Prop := wrV r.toNat x lat s = .ok ((), t)

/-- The KX payload before the word (R316). -/
def kxOf (s : State) : Option (BitVec 26) := s.bundle.bind fun b => b.ext
/-- A signed immediate field, with its KX when there is one (R316). -/
def immOf {w : Nat} (f : BitVec w) (s : State) : Int :=
  match kxOf s with
  | none => f.toInt
  | some k => (k ++ f).toInt

/-- The address of the first word of the bundle, and the address after its last word (R348). -/
def bundlePc (s : State) : Nat := s.old.core.rf.pc.toNat
def bundleNext (s : State) : Dword := s.old.core.rf.npc

/-! ### Frames -/

/-- Queue `n` is bound to the port that register or vector name `r` stands for (Table 8-8). -/
def OnPort (s : State) (scalar : Bool) (r n : Nat) : Prop :=
  60 ≤ r ∧ (s.m.hq n).bound = true ∧ (s.m.hq n).port = r - 60 ∧ decide (12 ≤ n) = scalar

/-- No injection is armed on the panel (R238). -/
def Unarmed (m : Mach) (p : Nat) : Prop := (m.ccCsr p csrEINJC).getLsbD 63 = false
/-- The issuing agent holds no word and no queue item with an error, and no injection is armed on its panel: what a word meets or
leaves behind in other states is a log entry, an error corrected or an injection spent (R234, R235, R238), beside what it does. -/
def Faultless (s : State) : Prop :=
  s.m.core.mem.err = [] ∧ Unarmed s.m (panelOf s.m.me) ∧ ∀ n, ∀ i ∈ (s.m.hq n).items, i.err = none

/-- `t` is `s` but for the scalars `sr`, the predicates `pr`, the rows of C `vr`, the control registers `cr`, the items
of the queues `qs`, the next address, race-check bits, and when results can be used: every other register, every byte of S, A, W, I, of
command-core memory, of HBM and of host memory, every other agent and every unit of the package are as before. -/
structure Kept (s t : State) (sr pr vr cr : List Nat) (qs : Nat → Prop) : Prop where
  faultless : Faultless t
  agent : t.m.me = s.m.me
  scalars : ∀ r, r ∉ sr → t.m.core.s r = s.m.core.s r
  preds : ∀ p, p ∉ pr → t.m.core.p p = s.m.core.p p
  rows : ∀ r, r ∉ vr → t.m.core.row r = s.m.core.row r
  csrs : ∀ n, n ∉ cr → t.m.csr n = s.m.csr n
  pc : t.m.core.rf.pc = s.m.core.rf.pc
  queues : ∀ n, ¬ qs n → t.m.hq n = s.m.hq n
  bindings : ∀ n, (t.m.hq n).bound = (s.m.hq n).bound ∧ (t.m.hq n).port = (s.m.hq n).port
  engines : t.m.core.eng = { s.m.core.eng with hq := t.m.core.eng.hq }
  bytesS : ∀ a, t.m.core.mem.sm.read a = s.m.core.mem.sm.read a
  bytesA : ∀ a, t.m.core.mem.am.read a = s.m.core.mem.am.read a
  bytesW : ∀ a, t.m.core.mem.wm.read a = s.m.core.mem.wm.read a
  bytesI : ∀ a, t.m.core.mem.im.read a = s.m.core.mem.im.read a
  groups : t.m.core.mem.ag = s.m.core.mem.ag ∧ t.m.core.mem.wg = s.m.core.mem.wg
  control : t.m.core.ctl = { s.m.core.ctl with rdy := t.m.core.ctl.rdy, resp := t.m.core.ctl.resp }
  others : t.m.rest = s.m.rest
  package : t.m.sys = s.m.sys ∧ t.m.free = s.m.free
  pending : t.inputs = s.inputs ∧ t.turns = s.turns
  context : (t.bundle.map fun b => (b.start, b.widx, b.word, b.ext, b.stamp, b.prof)) =
    s.bundle.map fun b => (b.start, b.widx, b.word, b.ext, b.stamp, b.prof)
/-- The frame of a word: where it meets no error and no injection, it keeps everything but what is named. -/
def SameBut (s t : State) (sr pr vr cr : List Nat) (qs : Nat → Prop) : Prop := Faultless s → Kept s t sr pr vr cr qs
/-- The bundle takes effect, and is not only tried for overruns (R320). -/
def Issuing (s : State) : Prop := ∀ b, s.bundle = some b → b.probe = false

/-! ### The end of a bundle of one word (13 R320, R321) -/

/-- What follows the word `c` of a bundle of `s`, in state `t`: an ownership word has its bundle wait for the home (R368); else the bundle
closes; after a wait the agent idles, after a trap nothing more happens. -/
def wordDone (s : State) (c : Word32) (t : State) : Res :=
  match t.bundle with
  | some b =>
    match b.own with
    | some r => .next (ownPend s r)
    | none => .next (afterIssue (closeState (pastWord t c)))
  | none => if t.m.core.ctl.blockAt.isSome && t.m.me == s.m.me then idle t else .next t
/-- The same after whatever the word answers. -/
def afterWord (s : State) (c : Word32) (r : Res) : Res :=
  match r with
  | .next t => wordDone s c t
  | .fault f => .fault f
  | .refused r => .refused r

/-! ### Registers that can be written now, transfers -/

/-- No earlier result is on its way to scalar `r`, or the bundle is stamped and drops it (R338). -/
def FreeS (s : State) (r : Nat) : Prop :=
  s.stamped = true ∨ (s.old.core.pendS r = false ∧ s.old.core.ready (rdyS r) ≤ s.old.core.ctl.cyc)
/-- The same for row `r` of C; no issued M operation reads or writes it (R381). -/
def FreeRow (s : State) (r : Nat) : Prop :=
  (s.old.core.eng.mq.any fun o => o.touches r) = false ∧
    (s.stamped = true ∨ (s.old.core.pendRow r = false ∧ s.old.core.ready (rdyRow r) ≤ s.old.core.ctl.cyc))

/-- Scalar destination `d` can take a result: s0 discards it, a port's queue is bound for pushing and has room (R202), another register is
free. -/
def TakesS (s : State) (d : BitVec 6) : Prop :=
  if s.old.isTile = true ∧ 60 ≤ d.toNat then
    ∃ n, s.m.core.portQueue true (d.toNat - 60) = some n ∧ (s.m.hq n).prod = 8 ∧ (s.m.hq n).items.length < hqDepth n
  else d ≠ 0 → FreeS s d.toNat
/-- The same for a result that comes later: beside the results already on their way to the port there is room. -/
def TakesLater (s : State) (d : BitVec 6) : Prop :=
  TakesS s d ∧ (s.old.isTile = true → 60 ≤ d.toNat → ∀ n, s.m.core.portQueue true (d.toNat - 60) = some n →
    portFull s.m.core true (d.toNat - 60) n = false)
/-- `i` completes from `s` and writes `v` to scalar `d` as the result of a machine `m`: the next state is `m` with that register written. -/
def Gives (i : Instr) (s : State) (d : BitVec 6) (v : Dword) (s' : State) : Prop :=
  ∃ u, exec i s = .next u ∧ WritesS d ⟨v, false⟩ 1 s' u
/-- Where the result of a global access of a task goes, as `Resp` names it. -/
def destOf (d : BitVec 6) : Nat × Nat := if 60 ≤ d.toNat then (3, d.toNat - 60) else if d = 0 then (4, 0) else (0, d.toNat)

/-- `s` with issue to continue at `target` (R348): a transfer of engine C that is taken. -/
def taken (s : State) (target : Dword) : State :=
  { s with m := s.m.modRf fun r => { r with npc := target }, bundle := s.bundle.map fun b => { b with taken := true } }
/-- An address in I, or in the memory of a command core (R321, R352). -/
def InStore (s : State) (target : Dword) : Prop := target.toNat < if s.old.isTile then 0x10000 else 0x40000

/-! ### Families of engine C, with the arithmetic of Tables 14-3 and 14-4 and the latencies of Table 14-2 -/

/-- Two sources. -/
def c3Of (d a b : BitVec 6) : List (Instr × Nat × (Dword → Dword → Dword)) :=
  [(.add d a b, 1, fun x y => x + y), (.sub d a b, 1, fun x y => x - y), (.mul d a b, 3, fun x y => x * y),
   (.mulh d a b, 3, fun x y => BitVec.ofInt 64 (x.toInt * y.toInt / 2 ^ 64)),
   (.mulhu d a b, 3, fun x y => BitVec.ofNat 64 (x.toNat * y.toNat / 2 ^ 64)),
   (.div d a b, 20, fun x y => if y = 0 then BitVec.allOnes 64 else x.sdiv y),
   (.divu d a b, 20, fun x y => if y = 0 then BitVec.allOnes 64 else x / y),
   (.rem d a b, 20, fun x y => if y = 0 then x else x.srem y),
   (.remu d a b, 20, fun x y => if y = 0 then x else x % y),
   (.and d a b, 1, fun x y => x &&& y), (.or d a b, 1, fun x y => x ||| y), (.xor d a b, 1, fun x y => x ^^^ y),
   (.shl d a b, 1, fun x y => BitVec.ofNat 64 (x.toNat * 2 ^ (y.extractLsb' 0 6).toNat)),
   (.shr d a b, 1, fun x y => BitVec.ofNat 64 (x.toNat / 2 ^ (y.extractLsb' 0 6).toNat)),
   (.sra d a b, 1, fun x y => BitVec.ofInt 64 (x.toInt / 2 ^ (y.extractLsb' 0 6).toNat)),
   (.min d a b, 1, fun x y => if x.sle y then x else y), (.max d a b, 1, fun x y => if x.sle y then y else x),
   (.minu d a b, 1, fun x y => if x ≤ y then x else y), (.maxu d a b, 1, fun x y => if x ≤ y then y else x)]

/-- One source, and the immediate `i` of the word. -/
def c2Of (i : Dword) (k d a : BitVec 6) : List (Instr × (Dword → Dword)) :=
  [(.addi d a k, fun x => x + i), (.andi d a k, fun x => x &&& i), (.ori d a k, fun x => x ||| i), (.xori d a k, fun x => x ^^^ i),
   (.shli d a k, fun x => BitVec.ofNat 64 (x.toNat * 2 ^ k.toNat)), (.shri d a k, fun x => BitVec.ofNat 64 (x.toNat / 2 ^ k.toNat)),
   (.srai d a k, fun x => BitVec.ofInt 64 (x.toInt / 2 ^ k.toNat)),
   (.clz d a, fun x => BitVec.ofNat 64 (((List.range 64).find? fun n => x.getLsbD (63 - n)).getD 64)),
   (.popc d a, fun x => BitVec.ofNat 64 ((List.range 64).countP fun n => x.getLsbD n))]

/-- The compares of two registers and of a register with an immediate (R344). -/
def cmpOf (p : BitVec 3) (a b : BitVec 6) : List (Instr × (Dword → Dword → Bool)) :=
  [(.cmpEq p a b, fun x y => x == y), (.cmpNe p a b, fun x y => x != y), (.cmpLt p a b, fun x y => x.slt y),
   (.cmpLe p a b, fun x y => x.sle y), (.cmpLtu p a b, fun x y => x.ult y), (.cmpLeu p a b, fun x y => x.ule y)]
def cmpiOf (p : BitVec 3) (a k : BitVec 6) : List (Instr × (Dword → Dword → Bool)) :=
  [(.cmpiEq p a k, fun x y => x == y), (.cmpiNe p a k, fun x y => x != y), (.cmpiLt p a k, fun x y => x.slt y),
   (.cmpiLe p a k, fun x y => x.sle y), (.cmpiLtu p a k, fun x y => x.ult y), (.cmpiLeu p a k, fun x y => x.ule y)]

/-! ### Memory -/

/-- What a load or a store of the issuing agent reaches, after the checks of Table 15-3: nothing, for a speculative load
that one of them fails. -/
def Reaches (s : State) (ea : SReg) (n align acc : Nat) (use : Use) (spec row : Bool) (w : Option Reach) (t : State) : Prop :=
  reach ea n align acc use spec row s = .ok (w, t)
/-- What AMO and CAS reach (R359): the memory of a command core, or global memory. -/
def ReachesAtom (s : State) (x : Dword) (w : Reach) (t : State) : Prop :=
  if s.m.isTile then
    tagOfAddr x = 0 ∧ inSpace x 8 = true ∧ x.toNat % 8 = 0 ∧ reachGlobal x 8 accAtomic .atomic false s = .ok (some w, t)
  else reachCC ⟨x, false⟩ 8 8 accAtomic false s = .ok (some w, t)
/-- The result of a global access goes on its way to scalar `d`, or to vector name `d` (R193, R363). -/
def ComesS (d : BitVec 6) (x : SReg) (s t : State) : Prop := laterS d.toNat x s = .ok ((), t)
def ComesV (d : BitVec 6) (x : RowP) (s t : State) : Prop := laterV d.toNat x s = .ok ((), t)
/-- Effective address of a load or store with access size `n` (R358). -/
def eaOf {w : Nat} (b : SReg) (k : BitVec w) (n : Nat) (s : State) : SReg := ⟨b.v + BitVec.ofInt 64 (immOf k s * n), b.p⟩
/-- A value of `n` little-endian bytes, extended to 64 bits (R3, Table 15-2). -/
def loaded (n : Nat) (signed : Bool) (v : Nat) : Dword :=
  if signed then (BitVec.ofNat (8 * n) v).signExtend 64 else (BitVec.ofNat (8 * n) v).setWidth 64

/-- `mem'` is `mem` with the bytes `bs` stored from address `o`, every other byte as before. -/
def Stored (mem mem' : Memory) (o : Nat) (bs : List Byte) : Prop :=
  (∀ j (h : j < bs.length), mem'.read (o + j) = bs[j]) ∧ ∀ a, a < o ∨ o + bs.length ≤ a → mem'.read a = mem.read a
/-- `s` with other contents of S (of a command core's own memory). -/
def withS (s : State) (mem : Memory) : State := { s with m := s.m.modMem fun x => { x with sm := mem } }
/-- `s` with other contents of A and of its row groups. -/
def withA (s : State) (mem : Memory) (g : SMap Group) : State := { s with m := s.m.modMem fun x => { x with am := mem, ag := g } }

/-- No word that a read of the agent's array `ary` touches holds an error; no injection is armed for a write (R234, R238). -/
def NoError (s : State) (ary o n : Nat) : Prop := errIn s.m.core ary o n = 0
def NoInjection (s : State) (ary o n : Nat) : Prop := injHits s.m (panelOf s.m.me) ary (localSite s.m.me) o n = false

/-- The scalar loads with their sizes (Table 15-2), and the stores. -/
def loadOf (d a : BitVec 6) (sp : BitVec 1) (k : BitVec 5) : List (Instr × Nat × Bool) :=
  [(.ldb d a sp k, 1, true), (.ldbu d a sp k, 1, false), (.ldh d a sp k, 2, true), (.ldhu d a sp k, 2, false),
   (.ldw d a sp k, 4, true), (.ldwu d a sp k, 4, false), (.ldd d a sp k, 8, false)]
def storeOf (x a k : BitVec 6) : List (Instr × Nat) := [(.stb x a k, 1), (.sth x a k, 2), (.stw x a k, 4), (.std x a k, 8)]

/-- The functions of AMO by FN (R365). -/
def amoOf : List (Dword → Dword → Dword) :=
  [fun old x => old + x, fun old x => old &&& x, fun old x => old ||| x, fun old x => old ^^^ x,
   fun old x => if old.sle x then old else x, fun old x => if old.sle x then x else old,
   fun old x => if old ≤ x then old else x, fun old x => if old ≤ x then x else old, fun _ x => x]

/-- The semaphore that the registers of a semaphore word name: through the VF's map on a tile, directly on a command core
above level 0 (R371, R374). -/
def NamesSem (s : State) (a : Dword) (p i : Nat) : Prop :=
  if s.m.isTile then a.toNat < 4096 ∧ semOf s.m s.m.core.ctl.part s.m.core.ctl.vf a.toNat = some (p, i)
  else 0 < s.m.level ∧ a.toNat < 2 ^ 17 ∧ p = a.toNat / 4096 ∧ i = a.toNat % 4096 ∧
    ∃ k, s.m.partOf s.m.me = some k ∧ Nat.testBit (s.m.partn k).mask p = true


/-! ### Engines V and F (16 R379-R408) -/

/-- The word raises the FFLAGS bits `ff` and, with `sat`, SATF; a poisoned source raises none (R295, R300, R380). -/
def FlagsRaised (ff : Nat) (sat p : Bool) (s t : State) : Prop := laneFlags ⟨[], ff, sat⟩ p s = .ok ((), t)
/-- The row of C that a vector destination names, when it names one. -/
def dstRow (d : BitVec 6) (s : State) : List Nat := if d.toNat < 60 then [s.old.rowOf d.toNat] else []
/-- Element type of a vector name (R198), its width, its lanes, and the rounding controls the word reads (R318). -/
def typeOf (d : BitVec 6) (s : State) : Nat := s.old.nameType d.toNat
def widthOf (d : BitVec 6) (s : State) : Nat := typeWidth (typeOf d s)
def lanesBy (w : Nat) (x : RowP) : List Nat := lanes w (2048 / w) x.v
def frmOf (s : State) : FCtl := fctlOf (s.old.csr 0x002)
/-- Lane integers as a row of lanes of `w` bits, modulo 2^w. -/
def intRow (w : Nat) (xs : List Int) : Row := rowOf w (xs.map fun x => (x % 2 ^ w).toNat)
/-- The OR of the lanes' flags. -/
def orAll (xs : List (Nat × Nat)) : Nat := xs.foldl (fun f x => f ||| x.2) 0
/-- Engine F can take a word (R381). -/
def FreeF (s : State) : Prop := s.old.core.ready rdyF ≤ s.old.core.ctl.cyc

/-- Words of two rows on integer lanes, and on floating-point lanes (R382, R383, R388, R400). -/
def vInt2Of (d a b : BitVec 6) : List (Instr × Nat × (Nat → Nat → Nat → Int)) :=
  [(.vadd d a b, 2, fun _ x y => x + y), (.vsub d a b, 2, fun _ x y => (x : Int) - y), (.vmul d a b, 4, fun _ x y => x * y),
   (.vmin d a b, 2, fun t x y => min (laneInt t x) (laneInt t y)), (.vmax d a b, 2, fun t x y => max (laneInt t x) (laneInt t y)),
   (.vcmp d a b, 1, fun t x y => if laneInt t x < laneInt t y then 1 else if laneInt t x = laneInt t y then 2 else 4)]
def vFl2Of (d a b : BitVec 6) : List (Instr × Nat × (Nat → FCtl → Nat → Nat → Nat × Nat)) :=
  [(.vadd d a b, 2, laneAdd), (.vsub d a b, 2, laneSub), (.vmul d a b, 4, laneMul),
   (.vmin d a b, 2, fun t c => laneMinMax t c false), (.vmax d a b, 2, fun t c => laneMinMax t c true),
   (.vcmp d a b, 1, fun t _ x y =>
     if (unpack t x).isNaN ∨ (unpack t y).isNaN then (8, flagNV)
     else if flLt false (unpack t x) (unpack t y) then (1, 0) else if flLt false (unpack t y) (unpack t x) then (4, 0) else (2, 0)),
   (.fscale d a b, 4, fun t c x n => laneScale t c x (BitVec.ofNat (typeWidth t) n).toInt)]
/-- Words of one row on integer lanes, which are patterns of `w` bits (R384, R386). -/
def vInt1Of (d a k : BitVec 6) : List (Instr × Nat × (Nat → Nat → Int)) :=
  [(.vabs d a, 2, fun t x => (laneInt t x).natAbs), (.vneg d a, 2, fun _ x => -x), (.vshl d a k, 1, fun _ x => x * 2 ^ k.toNat),
   (.vshr d a k, 1, fun _ x => x / 2 ^ k.toNat), (.vsra d a k, 1, fun t x => (BitVec.ofNat (typeWidth t) x).toInt / 2 ^ k.toNat)]
/-- Words of one row on floating-point lanes, engine F's among them (R384, R399, R401): latency on 16 and 32 bits. -/
def vFl1Of (d a : BitVec 6) : List (Instr × Nat × (Nat → FCtl → Nat → Nat × Nat)) :=
  [(.vabs d a, 2, fun t _ => laneSign t false), (.vneg d a, 2, fun t _ => laneSign t true), (.fclass d a, 1, fun t _ x => (laneClass t x, 0)),
   (.fexp2 d a, 12, fun t _ => laneSpecial .exp2 t), (.flog2 d a, 12, fun t _ => laneSpecial .log2 t),
   (.ftanh d a, 12, fun t _ => laneSpecial .tanh t), (.fsigm d a, 12, fun t _ => laneSpecial .sigm t),
   (.ferf d a, 12, fun t _ => laneSpecial .erf t), (.frcp d a, 12, laneRcp), (.frsq d a, 12, fun t _ => laneSpecial .rsq t),
   (.fsqrt d a, 12, laneSqrt)]
/-- Bits of whole rows (R385). -/
def vBits2Of (d a b : BitVec 6) : List (Instr × (Row → Row → Row)) :=
  [(.vand d a b, fun x y => x &&& y), (.vor d a b, fun x y => x ||| y), (.vxor d a b, fun x y => x ^^^ y)]
/-- A row with the lanes from `base` on replaced. -/
def laneSet (w : Nat) (o : RowP) (base : Nat) (vs : List Nat) : Row :=
  rowOf w ((lanesBy w o).take base ++ vs ++ (lanesBy w o).drop (base + vs.length))

/-! ### Lanes that move, reductions, random numbers, lists (R309, R391-R393, R396, R402-R405) -/

/-- Lane `i` of a slide by `k` over a row of `n` lanes and its neighbour (R392). -/
def slidLane (n : Nat) (up : Bool) (k : Nat) (a f : List Nat) (i : Nat) : Nat :=
  let j : Int := if up then (i : Int) - k else i + k
  if 0 ≤ j ∧ j < n then a.getD j.toNat 0
  else if n ≤ j ∧ j < 2 * n then f.getD (j - n).toNat 0
  else if -n ≤ j ∧ j < 0 then f.getD (n + j).toNat 0
  else 0
/-- The pairwise tree of R393 over 2^n lanes: a value and the OR of the flags. -/
def treeOf (op : Nat → Nat → Nat × Nat) : Nat → List Nat → Nat × Nat
  | 0, xs => (xs.headD 0, 0)
  | n + 1, xs =>
    let l := treeOf op n (xs.take (2 ^ n))
    let r := treeOf op n (xs.drop (2 ^ n))
    let z := op l.1 r.1
    (z.1, l.2 ||| r.2 ||| z.2)
/-- A number clamped to the range of an integer type, and whether it lay outside (R297). -/
def clamped (t : Nat) (v : Int) : Int := max (typeMin t) (min (typeMax t) v)
def outside (t : Nat) (v : Int) : Bool := decide (v < typeMin t ∨ typeMax t < v)
/-- The counter from which the next random lanes of this bundle are taken, and the bundle after `n` more (R309). -/
def ctrOf (s : State) : Nat := (s.old.csr 0x006).toNat + ((s.bundle.map fun b => b.adv).getD 0)
def withAdv (s : State) (n : Nat) : State := { s with bundle := s.bundle.map fun b => { b with adv := b.adv + n } }
def rngLane (s : State) (i : Nat) : Nat := cg4 (ctrOf s) (s.old.csr 0x004).toNat (s.old.csr 0x005).toNat i
/-- Whether lane value `y` ranks above `x` (R405). -/
def ranks (t y x : Nat) : Bool :=
  if isFl t then !(unpack t y).isNaN && ((unpack t x).isNaN || flLt false (unpack t x) (unpack t y))
  else decide (laneInt t x < laneInt t y)
/-- The lane list of VTOPK: group by group of `g`, the lanes with fewer than `k` others of the group above them, then zeros. -/
def topLanes (t k g : Nat) (xs : List Nat) : List Nat :=
  (List.range (xs.length / g)).flatMap fun q =>
    let ix := (List.range g).map (q * g + ·)
    let sel := ix.filter fun i => decide ((ix.filter fun j => ranks t (xs.getD j 0) (xs.getD i 0) ||
      (decide (j < i) && !ranks t (xs.getD i 0) (xs.getD j 0))).length < k)
    sel ++ List.replicate (g - sel.length) 0

/-! ### Engines and other agents -/

/-- `s` with other engines of the issuing tile. -/
def withEng (s : State) (f : Engs → Engs) : State := { s with m := s.m.modEng f }
/-- Agent `a` holds no word with an error, and no injection is armed on its panel (R234, R238). -/
def Sound (m : Mach) (a : Nat) : Prop := (m.agent a).mem.err = [] ∧ Unarmed m (panelOf a)
/-- Every row group of A (of W) that the bytes touch is valid (R225, R231). -/
def GroupsValid (c : Core) (w : Bool) (off n : Nat) : Prop := ∀ g ∈ groupsOf off n, (c.group w g).v = true
/-- MCFG as the bundle found it, and its fields (Table 17-3). -/
def mcfgOf (s : State) : Dword := s.old.csr 0x01A
def atypeOf (cfg : Dword) : Nat := (cfg.extractLsb' 0 4).toNat
def btypeOf (cfg : Dword) : Nat := (cfg.extractLsb' 4 4).toNat
def rlimOf (cfg : Dword) : Nat := (cfg.extractLsb' 8 6).toNat
def climOf (cfg : Dword) : Nat := (cfg.extractLsb' 16 7).toNat
def wptrOf (cfg : Dword) : Nat := (cfg.extractLsb' 32 22).toNat
/-- A step's profile: the bundle's, else that of NUMP (R305). -/
def profOf (s : State) : Nat := (s.bundle.bind fun b => b.prof).getD ((s.old.csr 0x003).extractLsb' 0 8).toNat
/-- An operation as an M word issues it; place and cycles apart. -/
def IsOp (o : MOp) (kind tile buf : Nat) (cfg : Dword) (prof type : Nat) (addr : Dword) (late : Bool) : Prop :=
  o = { kind, tile, buf, cfg, prof, type, addr, row := 0, late, seq := o.seq, start := o.start, fin := o.fin }

/-! ### Streams, queues, copies, work queues -/

/-- `s` with another state of stream engine `n`, of queue `n`, of copy channel `n`, of a work queue. -/
def withSe (s : State) (n : Nat) (e : SEng) : State := { s with m := s.m.modCore fun c => c.setSe n e }
def withHq (s : State) (n : Nat) (q : HQ) : State := { s with m := s.m.setHq n q }
def withChan (s : State) (n : Nat) (c : Chan) : State := { s with m := s.m.modCore fun k => k.setChan n c }
def withWq (s : State) (k : Nat) (q : WQ) : State := { s with m := s.m.setWq k q }
/-- What a word that waits leaves: the bundle as it was, a cycle or more later; in a stamped bundle the stamp-overrun trap
(R202, R216, R412). -/
def waits (s : State) : State :=
  stopState (if s.stamped then .overdue (BitVec.ofNat 64 (sfcOf s.old)) else .hold 0 id) s
/-- No race in the bytes of S, and no word of S with an error. -/
def CleanS (s : State) (off n : Nat) : Prop := raceAtIf s.old.core.raceOn s.m.core 1 off n = none ∧ s.m.core.mem.err = []
/-- The rights of a copy over one of its sides hold, and the regions it then keeps (R253, R428). -/
def CopySide (a : Dword) (len acc : Nat) (u : Use) (s : State) (rs : List Nat) (t : State) : Prop :=
  copyRights a len acc u s = .ok (rs, t)
/-- The work queue holds no error, and no injection is armed for its words, which lie in the lead panel (R234, R238). -/
def QueueSound (s : State) (k : Nat) : Prop := (s.m.wq k).err = none ∧ Unarmed s.m (s.m.partn s.m.myPart).lead
/-- The queue has nothing for a task that asks now (R137): no item that is not due to an earlier one, and it is open. -/
def NothingFor (q : WQ) : Prop := (q.items = [] → q.closed = false) ∧ (q.items ≠ [] → q.poppers ≠ [])
/-- Nothing that a pop of this queue waited for stands ready for the issuing task. -/
def NotGiven (s : State) (k : Nat) : Prop := ∀ g, s.m.core.eng.wgot = some g → g.1 ≠ k

/-! ### The seam buffer, collectives, lifetimes -/

/-- The handle `h` names the open set `set` under `key` for the issuing task, and its tile knows it (R267, R433). -/
def KnowsSet (s : State) (h : Dword) (key : Nat) (set : SeamSet) : Prop :=
  handleState s.m s.m.myTask.launch h = .opened key set ∧ key ∈ s.m.core.eng.handles
/-- `s` once the tile has used the handle again. -/
def usedHandle (s : State) (key : Nat) : State :=
  withEng s fun e => { e with handles := (key :: e.handles.filter (· != key)).take 16 }
/-- What a packet not yet answered carries: panel, kind, handle, token, expert, slab, data. -/
def carried (p : SPkt) : Nat × Nat × Dword × Nat × Nat × Nat × List Nat :=
  (p.panel, p.kind, p.handle, p.token, p.expert, p.slab, p.data)
/-- A range of A or W that a lifetime word names (R439): its buffer and its row groups. -/
def LifeRange (x : Dword) (n : Nat) (w : Bool) (ks : List Nat) : Prop :=
  tagOfAddr x = (if w then tagW else tagA) ∧ inSpace x (max 1 n) = true ∧ ks = if n = 0 then [] else groupsOf (offOf x) n
/-- `n` bytes at a device address of a partition lie in one physical piece. -/
def OnePiece (m : Mach) (part va n acc pa : Nat) : Prop := collPieces m part (va % 2 ^ 49) n acc = some [(pa, n)]

/-! ### System words -/

/-- The file of a poison check: 0 scalar, 1 vector name, 2 predicate. Register `r` of file `k` is ready, poisoned or not. -/
def ReadsPoison (k : BitVec 2) (r : BitVec 6) (s : State) (p : Bool) (t : State) : Prop :=
  (k = 0 ∧ ∃ v, ReadsS r s ⟨v, p⟩ t) ∨ (k = 1 ∧ ∃ v, ReadsV r s ⟨v, p⟩ t) ∨ (k = 2 ∧ ∃ v, ReadsP r s ⟨v, p⟩ t)
/-- A transfer of engine S: `s` with issue to continue at `target`, and no other transfer of the bundle to prevail (R348). -/
def takenS (s : State) (target : Dword) : State :=
  { s with m := s.m.modRf fun r => { r with npc := target }, bundle := s.bundle.map fun b => { b with sNext := true } }
/-- `s` with its agent waiting from its next bundle on. -/
def waiting (s : State) (w : Wait) : State := { s with m := s.m.modCtl fun c => { c with wait := w } }
/-- The agent has nothing to wait for. -/
def NoWait (s : State) : Prop := s.m.core.ctl.wait = .none
/-- Registers, memory, engines but for the count that orders what is issued, other agents and the package are as before. -/
structure SameCore (s t : State) : Prop where
  regs : t.m.core.rf = s.m.core.rf
  mem : t.m.core.mem = s.m.core.mem
  eng : t.m.core.eng = { s.m.core.eng with seq := t.m.core.eng.seq }
  rest : t.m.rest = s.m.rest
  sys : t.m.sys = s.m.sys
/-- The present word's place in its bundle, and the words of the bundle. -/
def wordIdx (s : State) : Nat := (s.bundle.map fun b => b.widx).getD 0
def wordCount (s : State) : Nat := (s.bundle.map fun b => b.count).getD 1
/-- The count that the next completion of barrier level `v` brings (R444, R446). -/
def phaseNext (s : State) (v : BitVec 2) : Nat := ((s.old.csr (0x034 + v.toNat)).toNat % 2 ^ 32 + 1) % 2 ^ 32
/-- The executing task may use barrier level `v` (R444). -/
def HasLevel (s : State) (v : BitVec 2) : Prop := v = 3 → (s.old.launch s.old.myTask.launch).img.domid ≠ 0xFFFF
/-- The privileged words with their lowest level (R108). -/
def privOf (d a b : BitVec 6) (y : BitVec 1) (n : BitVec 4) : List (Instr × Nat) :=
  [(.frz d a y, 1), (.thaw d a b, 1), (.park d a, 1), (.tlbi a b, 1), (.slotb d a b, 1), (.siteq d a, 1), (.sitec d a b, 1),
   (.qcbb d a b, 1), (.pmpw n a b, 1), (.dmaq d a b, 1), (.keyl a b, 2), (.halt, 2)]

/-! ### Privileged words (18 R461-R470) -/

/-- No packet held in an inbox has an error, and no injection is armed (Table 9-9, R238). -/
def SoundInboxes (m : Mach) : Prop := ∀ p, Unarmed m p ∧ ∀ q ∈ (m.panel p).inbox, q.err = none
/-- A well-formed gang name: INVID bits and gang index, no other bit (R461). -/
def GangForm (x : Dword) : Prop := x.toNat < 2 ^ 40
/-- The value of THAW's second operand (R462), and the place SITEQ, SITEC and it name: die, row, column. -/
def ThawForm (y : Dword) : Prop :=
  y.toNat % 4096 = 0 ∧ y.toNat % 2 ^ 63 < 2 ^ 23 ∧ (y.getLsbD 63 = true → bits y 19 16 ≤ 11 ∧ bits y 15 12 ≤ 11)
def placeDie (x : Dword) : Nat := (x.extractLsb' 20 3).toNat
def placeRow (x : Dword) : Nat := (x.extractLsb' 16 4).toNat
def placeCol (x : Dword) : Nat := (x.extractLsb' 12 4).toNat
/-- The gang is on its sites again. -/
def Resumed (m : Mach) (k g : Nat) : Prop :=
  ((m.launch k).gang g).st = 1 ∧ ∀ a ∈ (m.launch k).gangSites g, (m.site a).rst = 2 ∧ (m.site a).tst = 1
/-- The rectangle of SITEC (R463), its form, and whether it lies on the die within the core's partition. -/
def rectOf (x : Dword) : List Nat :=
  (List.range (((x.extractLsb' 8 4).toNat + 1) * ((x.extractLsb' 4 4).toNat + 1))).map fun i =>
    siteOf (placeDie x) (placeRow x + i / ((x.extractLsb' 8 4).toNat + 1)) (placeCol x + i % ((x.extractLsb' 8 4).toNat + 1))
def RectForm (x : Dword) : Prop :=
  x.toNat < 2 ^ 23 ∧ x.toNat % 16 = 0 ∧ placeRow x ≤ 11 ∧ placeCol x ≤ 11 ∧ bits x 11 8 ≤ 11 ∧ bits x 7 4 ≤ 11
def RectIn (m : Mach) (x : Dword) : Prop :=
  placeRow x + bits x 7 4 ≤ 11 ∧ placeCol x + bits x 11 8 ≤ 11 ∧
    ∃ p, m.corePart = some p ∧ ∀ a ∈ rectOf x, (m.panel (panelOfSite a)).part = some p ∧ siteOn m a = true
/-- The core holds the site in state `r`, with no gang on it. -/
def HoldsSite (m : Mach) (r a : Nat) : Prop := (m.site a).rst = r ∧ (m.site a).holder = ccHolder m.me ∧ (m.site a).occ = none
/-- `n` bytes of the core's own memory at `x`, which its level reaches and which hold no error. -/
def OwnBytes (s : State) (x : Dword) (n : Nat) : Prop :=
  tagOfAddr x = 8 ∧ x.toNat % n = 0 ∧ offOf x + n ≤ (if s.m.level = 2 then 0x40000 else 0x30000) ∧ NoError s 9 (offOf x) n
def ownRead (s : State) (x : Dword) (n : Nat) : List Byte := s.m.core.mem.sm.readList (offOf x) n


/-! ### Seam and collective events -/

/-- The clock of panel `p`'s die runs (06 R149). -/
def ClockedPanel (m : Mach) (p : Nat) : Prop := m.clocked (dieOfAgent (ccOf p)) = true
/-- The set that the first packet of `kind` at panel `p` names; the packet is the next of its source. -/
def NextAtPanel (m : Mach) (p kind : Nat) (k : Pkt) (rest : List Pkt) (sk : Nat) (set : SeamSet) : Prop :=
  ClockedPanel m p ∧ takeKind kind (m.panel p).inq = some (k, rest) ∧ m.hasLaunch k.task.launch = true ∧
    k.seq = seqNext (SMap.get (fun _ => 0) (m.panel p).last (taskKey k.task)) ∧
    handleState m k.task.launch k.addr = .opened sk set ∧ set.spl = false
/-- Fields of a seam packet: token, expert, slab. -/
def seamToken (k : Pkt) : Nat := bits k.ctl 31 0
def seamExpert (k : Pkt) : Nat := bits k.ctl 47 32
def seamSlab (k : Pkt) : Nat := bits k.ctl 55 48
/-- Bytes that meet no region table of any partition. -/
def OffTables (m : Mach) (pa n : Nat) : Prop :=
  pa + n ≤ hbmEnd ∧ ∀ P, pa + n ≤ m.maBase P ∨ m.maBase P + 16 * 196608 ≤ pa


/-! ### Host queues, launches and slots -/

/-- The 64-byte entry `b` at the head of queue `qidx` of a function may start a command; FLAGS is in range (R52, R58, R59). -/
def AtHead (m : Mach) (vfn qidx : Nat) (b : List Byte) : Prop :=
  vfn ≤ 512 ∧ qidx < 8 ∧ (m.queue (queueKey vfn qidx)).dbl = false ∧ headOf m (queueKey vfn qidx) = some b ∧ byteAt b 1 < 4
/-- The command is no longer outstanding; its record stands at CPROD, with PHASE, unless NOCPL holds and all went well (R51,
R58, R60). The ring has room, and lies apart from the queue's control block. -/
def Recorded (m m' : Mach) (k : Nat) (c : Cmd) (status detail wgen inv : Nat) : Prop :=
  let q := m.queue k
  let q' := m'.queue k
  q.full = false → q.recs = [] → q'.started = (q.started.filter fun d => d.cnt != c.cnt) ∧
    if Nat.testBit c.flags 0 = true ∧ status = 0 then q'.cprod = q.cprod else
      q'.cprod = (q.cprod + 1) % 2 ^ 32 ∧
      (q.cplb + 32 * 2 ^ q.csize ≤ q.qcba ∨ q.qcba + 64 ≤ q.cplb →
        m'.sys.host.readList (q.cplb + 32 * (q.cprod % 2 ^ q.csize)) 32 =
          recBytes m.sys.ns c status detail wgen inv ++ [if q.cprod / 2 ^ q.csize % 2 = 0 then 1 else 0])
/-- The command at the head ended: HEAD moved past its `n` entries, and it is recorded. -/
def Ended (m m' : Mach) (k n : Nat) (c : Cmd) (status detail wgen inv : Nat) : Prop :=
  (m'.queue k).head = ((m.queue k).head + n) % 2 ^ 32 ∧ (m'.queue k).tail = (m.queue k).tail ∧
    Recorded m m' k c status detail wgen inv
/-- The command at the head started and runs on. -/
def Started (m m' : Mach) (k : Nat) (c : Cmd) : Prop :=
  (m'.queue k).head = ((m.queue k).head + 1) % 2 ^ 32 ∧ (m'.queue k).started = (m.queue k).started ++ [c]
/-- The fields of the bind request that the monitor is to carry out: the one in progress, else one written now (R53). -/
def bindWord (s : State) : Dword := if qbBusy s.m then s.m.reg 0x200 else s.arg.v
/-- A bind request, in progress or with GO, for operation `op` on a queue that exists; no earlier monitor request on its VF is in
progress (R53, R55, R88). -/
def BindReq (m : Mach) (v : Dword) (op k part : Nat) : Prop :=
  (qbBusy m = true ∨ v.getLsbD 63 = true) ∧ monHolds m (bits v 41 32) = false ∧ bits v 49 48 = op ∧ k = queueKey (bits v 41 32) (bits v 3 0) ∧ part = bits v 20 16 ∧ bits v 3 0 < 8 ∧
    bits v 41 32 ≤ 512 ∧ (bits v 41 32 = 0 → (m.partn part).used = true) ∧
    (bits v 41 32 ≠ 0 → (m.vf (bits v 41 32)).live = true ∧ bits v 3 0 < bits (m.vf (bits v 41 32)).vqa 53 50)
/-- The condition of a WAIT on a word (Table 3-9): at least, equal, not equal. -/
def WordCond (b : List Byte) (x : Nat) : Prop :=
  let v := leAt b 16 8
  match nbits (argOf b) 2 1 with
  | 0 => v ≤ x
  | 1 => x = v
  | 2 => x ≠ v
  | _ => False
/-- No WAIT that a migration restored stands at the queue (R113). -/
def NotRestored (m : Mach) (k : Nat) : Prop := ∀ f ∈ (m.partn (queuePart m k)).fwds, f.state = 2 → f.q ≠ k
/-- Region `r` of a partition is held for a copy or by slot logic. -/
def HeldRegion (m : Mach) (part r : Nat) : Prop := (m.region part r).st = 5 ∧ (m.region part r).hold = 1
/-- A packet of an authorised sender, next in sequence, well formed, for a resident slot of a live VF with room (R26, R27). -/
def PacketOk (m : Mach) (b : List Byte) : Prop :=
  let vfn := pktVf b
  let p := m.partn (pktPart b)
  pktSeq b = (p.lastOf (pktSender b) + 1) % 2 ^ 32 ∧ pktForm b = true ∧ 0 < vfn ∧ vfn ≤ 512 ∧ (m.vf vfn).live = true ∧
    (m.vf vfn).part = pktPart b ∧ (m.vf vfn).mig < 4 ∧ vfClosing m vfn = false ∧ residency m vfn (2 ^ 64 - 1) (pktSlot b) = .ok ∧ remoteCount m vfn < 32 ∧
    m.hasLaunch (launchKey (pktPart b) ((p.inv + 1) % 2 ^ 64)) = false


/-! ### Monitor requests and migration -/

/-- The machine in which the work of request `op` begins: neither another request nor a bind request is in progress, MCREQ holds it (R88). -/
def asked (s : State) (op : Nat) : Mach := s.m.setReg 0x300 (BitVec.ofNat 64 op)
def NotBusy (s : State) : Prop := bits (s.m.reg 0x328) 1 0 ≠ 1 ∧ s.m.sys.mc.length < 6 ∧ qbBusy s.m = false
/-- The operations of the monitor with the events that carry them out (Table 4-3), and the argument bits that each names. -/
def monOps : List (Instr × Nat × List Dword) :=
  let quota : List Dword := [0xFFFFFFFFFFFF0000, vfArgMask, 0xFF000000FFFFFFFF, 0xFFFFFFFFFFFC0000]
  [(.pcreate, 1, [0xFFFFFFFF, 0xFF011F]), (.pdestroy, 2, [0, 0x1F]), (.psend, 3, [argAll, 0x10F1F]), (.pmark, 4, [0, 0x11F]),
   (.pfab, 5, [argAll, 0x87FF001F]), (.vfcreate, 0x10, quota), (.vfdestroy, 0x11, [0, argVfn]), (.vfquota, 0x12, quota),
   (.vfkey, 0x13, [0, 0x103FF0000]), (.vfalloc, 0x14, [argAll, argVfn, argAll]), (.vffree, 0x15, [argAll, argVfn, argAll]),
   (.mstart, 0x20, [0, argVfn]), (.msnap, 0x21, [argBuf, argVfn]), (.mquiesce, 0x22, [0, argVfn, 0xFFFFFFFF]),
   (.mcut, 0x23, [0, argVfn]), (.msave, 0x24, [argBuf, argVfn]), (.mrestore, 0x25, [argBuf, argVfn, argAll]),
   (.mrelay, 0x26, [0, argVfn, argAll, 0x1F]), (.mfwdc, 0x27, [0xFFFFFFFF]), (.mabort, 0x28, [0, argVfn])]
/-- MCSTAT once a request is done with a RESULT (Table 4-3). -/
def doneStat (result : Nat) : Dword := BitVec.ofNat 64 (result % 2 ^ 32 * 2 ^ 32 + 2)
/-- A request is done with a RESULT, and the machine then satisfies `p`. -/
def Done (i : Instr) (s : State) (result : Nat) (p : Mach → Prop) : Prop :=
  ∃ t, exec i s = .next t ∧ t.m.reg 0x328 = doneStat result ∧ p t.m
/-- A request is refused with a cause and changes nothing but MCREQ and MCSTAT. -/
def Turned (i : Instr) (s : State) (op cause : Nat) : Prop :=
  ∃ t, exec i s = .next t ∧ t.m = (asked s op).setReg 0x328 (BitVec.ofNat 64 (cause * 256 + 3))
/-- VF MCARG1[25:16] of a request. -/
def argVf (s : State) : Nat := bits (s.m.arg 1) 25 16
/-- A migration request that its VF's state allows, with the argument bits it names (R111). -/
def MigAsk (s : State) (ok : List Dword) (states : List Nat) : Prop :=
  NotBusy s ∧ argsOk s.m ok = true ∧ (s.m.vf (argVf s)).live = true ∧ (s.m.vf (argVf s)).mig ∈ states
/-- The event ring keeps off `n` host bytes from `a` on. -/
def EventsOff (m : Mach) (a n : Nat) : Prop :=
  let ring := bits (m.reg 0x380) 63 12 * 4096
  ring + 32 * 2 ^ bits (m.reg 0x388) 4 0 ≤ a ∨ a + n ≤ ring
/-- A request on VF `vfn` waits, its arguments kept: MCSTAT says that it is in progress (R88, R252). -/
def Pends (i : Instr) (s : State) (op vfn : Nat) : Prop :=
  ∃ t, exec i s = .next t ∧ t.m.reg 0x328 = 1 ∧ t.m.vf vfn = s.m.vf vfn ∧
    t.m.sys.mc = [op, vfn, (s.m.arg 0).toNat, (s.m.arg 1).toNat, (s.m.arg 2).toNat, (s.m.arg 3).toNat]
/-- Every command of a VF's queues is gone, and each queue but for records that wait for room (R97). -/
def QueuesGone (m : Mach) (vfn : Nat) : Prop := ∀ q, q < 16 → let x := m.queue (queueKey vfn q)
  x.st = 0 ∧ x.started = [] ∧ x.waitCmd = none ∧ (x.recs = [] → x = {})


/-! ### Scheduling -/

/-- Gang `g` of a launch stands at origin `o` (die, y, x): each of its sites runs its task in the launch's VF (R123, Table 5-13). -/
def Placed (m m' : Mach) (key g : Nat) (o : Nat × Nat × Nat) : Prop :=
  let l := (m.launch key).setGang g { st := 1, die := o.1, oy := o.2.1, ox := o.2.2 }
  (l.gangSites g).Nodup → ∀ i ∈ l.gangTasks g,
    m'.site (l.siteFor i) = { rst := 2, tst := 1, holder := key * 2 ^ 16 + g, occ := some ⟨key, i⟩, last := l.vf } ∧
    (m'.agent (l.siteFor i)).ctl.task = some ⟨key, i⟩
/-- Every site of the rectangle a launch would take at an origin is FREE. -/
def SitesFree (m : Mach) (key : Nat) (o : Nat × Nat × Nat) : Prop :=
  ∀ a ∈ rectSites (m.launch key).img.w (m.launch key).img.h o, (m.site a).rst = 0
/-- No inbox holds a packet for a task of gang `g`. -/
def NoneHeld (m : Mach) (key g : Nat) : Prop := ∀ i ∈ (m.launch key).gangTasks g, heldFor m ⟨key, i⟩ = []
/-- A graph run's node `k` is ready and may start (R140): what it reads lies on stacks that take requests. -/
def NodeReady (m : Mach) (rid k : Nat) : Prop :=
  ((m.run rid).node k).st = 1 ∧ (m.run rid).fail = 0 ∧ (m.vf (m.run rid).vf).mig ≤ 1 ∧ nodeStalled m (m.run rid) k = false ∧
    (m.run rid).desc ≠ []

end Sys2Proof.Safety
end

