-- ==== Sys2Proof/Certificates/Slice0/Obligations.lean ====
section
/-!
DEFINITION. What is claimed of the machine, for the provers: encodings, the step, operands, the effect and the frame of
each instruction, traps, levels, and the steps that no word asks for.
-/
open Sys2Proof Sys2Proof.Machine Sys2Proof.Safety

/-! ### Encoding -/

/-- 13 R314, R315, R322, Tables 13-1 to 13-16: every well-formed word has 32 bits, and those bits are read back as the same
word, with its L bit, its guard and every operand at every value the encoding admits. A step that no word asks for has no
bits. -/
def Obligations.EncodedWordIsReadBack : Prop :=
  ∀ w : Word, w.wellFormed = true → isEvent w.instr = false → ∃ c, encode w = some c ∧ decode c = .ok w

/-- The other direction: 32 bits that the decoder reads as a word are the bits of that word and of no other, so no bit of a
legal encoding is dropped or ignored (13 R315, R327). -/
def Obligations.DecodedWordHasThoseBits : Prop :=
  ∀ (c : Word32) (w : Word), decode c = .ok w → encode w = some c

/-- Words that the spec spells out bit by bit beside their assembly: Table 14-5, the examples of 15, 16 and 17, and Tables
20-4 and 20-11; one or more of every engine. -/
def Obligations.SpelledOutWordsDecode : Prop :=
  decode 0x10786001 = .ok ⟨true, 0, .li 6 1⟩ ∧ decode 0xF4000004 = .ok ⟨true, 0, .kx 4⟩ ∧
  decode 0x0904B2CA = .ok ⟨false, 9, .add 11 11 10⟩ ∧ decode 0x303C2143 = .ok ⟨true, 0, .cas 2 5 3⟩ ∧
  decode 0x5046812F = .ok ⟨true, 0, .vrshr 40 4 1 15⟩ ∧ decode 0xB02E808A = .ok ⟨true, 0, .vtopk 40 2 1 2⟩ ∧
  decode 0x70194500 = .ok ⟨true, 0, .mmask 20 40⟩ ∧ decode 0x90141550 = .ok ⟨true, 0, .qbind 0 5 5 1⟩ ∧
  decode 0xD43165C0 = .ok ⟨true, 4, .waite 22 23 0⟩

/-! ### Steps -/

/-- 13 R317-R320: with no input waiting and no other agent's turn, an agent that waits for nothing and has no recorded trap
issues the bundle at its program counter. Where that bundle is one word, all its checks pass and its guard is ready and
true, the step is `exec` of the word that the decoder reads there: in the context of its bundle, with `npc` past it, and
closed by `closeBundle` (a cycle passes, the pc takes `npc`) unless the word itself ended the bundle (a trap, a wait) or asks a home
(10 R368). Where the guard is false the word does nothing and the bundle closes. A bundle whose ownership word has its answer
takes effect in the same way. `engineWork` and `endWait` are what the engines and a wait that is over did by this cycle, `fetched` what
the fetch finds of errors in I (09 R234); `afterIssue` notes background work (log 12). -/
def Obligations.StepRunsTheDecodedWord : Prop :=
  ∀ (s : State) (m : Mach) (c : Word32) (w : Word),
    s.inputs = [] → s.turns = [] → agentOk s.m.me = true → canIssue s.m = true →
    endWait (engineWork s.m) = (m, true) → bundleAt m = [c] → decode c = .ok w →
    (m.core.ctl.own = none → m.core.ctl.ptraps = [] → let m1 := fetched m [c]
      fetchFails m1 [c] = false → earlyTrap m1 m1.pcb [c] = none → m1.core.ready (rdyP w.guard.toNat) ≤ m1.core.ctl.cyc →
      let s1 : State := { s with m := m1, bundle := none }
      let s0 := openBundle s1 [c]
      ((m1.core.p w.guard.toNat).v = true → step s = afterWord s1 c (exec w.instr (atWord s0 (0, c)))) ∧
      ((m1.core.p w.guard.toNat).v = false → step s = .next (afterIssue (closeState s0)))) ∧
    (∀ r, m.core.ctl.own = some r → r.reply.isSome = true → (m.core.p w.guard.toNat).v = true →
      let s1 : State := { s with m := m, bundle := none }
      step s = afterWord s1 c (exec w.instr (atWord (openBundle s1 [c]) (0, c))))

/-- 13 R318: the words of a longer bundle act one after another, each by `exec` on the state its predecessor left, in the order
of their engines; every word of engines 0 to 6 whose guard is true acts, one whose guard is false does not; a word that ends
the bundle (a trap, a wait) ends it for the words after it. -/
def Obligations.WordsActInEngineOrder : Prop :=
  (∀ (p : Nat × Word32) (rest : List (Nat × Word32)) (s t : State) (w : Word) (b : Bundle),
    s.bundle = some b → decode p.2 = .ok w → exec w.instr (atWord s p) = .next t →
    runWords (p :: rest) s = runWords rest (pastWord t p.2)) ∧
  (∀ (ws : List (Nat × Word32)) (s : State), s.bundle = none → runWords ws s = .next s) ∧
  (∀ (m : Mach) (ws : List Word32) (i : Nat) (c : Word32), wordEng c < 7 →
    ((i, c) ∈ schedule m ws ↔ ws[i]? = some c ∧ (m.core.p (wordGuard c).toNat).v = true)) ∧
  (∀ (m : Mach) (ws : List Word32), (schedule m ws).Pairwise fun p q =>
    wordEng p.2 < 7 → wordEng q.2 < 7 → wordEng p.2 ≤ wordEng q.2)

/-- Between steps no bundle is in progress: a bundle has all its effects or, at a trap or a wait, those the spec gives (13
R320). -/
def Obligations.NoBundleBetweenSteps : Prop :=
  ∀ s t : State, s.bundle = none → step s = .next t → t.bundle = none

/-- After reset no bundle is in progress. -/
def Obligations.NoBundleAtReset : Prop := State.reset.bundle = none ∧ agentOk State.reset.m.me = true

/-- The machine never stops: from every state whose issuing agent is one of the package's 1,152 tiles and 32 command cores,
whatever the instruction, the step answers a state. -/
def Obligations.EveryStepAnswersAState : Prop :=
  ∀ s : State, agentOk s.m.me = true → ∃ t, step s = .next t

/-- 02 R45, Table 2-5, and the reset columns of Tables 4-8, 8-6, 9-6, 12-5, 13-7 and 17-3, after a cold start: every
register, predicate and poison bit, S, C, I, the hardware queues and race-check bits, HBM, semaphores and error logs are
zero; row groups are invalid; TLBs hold nothing; no partition, VF, key slot or queue exists; control registers hold their
reset values. That the package starts as command core 0 at level 2, its clock at zero and all else idle, is the model's
choice of instant (log 2). -/
def Obligations.ResetState : Prop :=
  let m := State.reset.m
  (∀ a r, (m.agent a).s r = {} ∧ (0 < r → (m.agent a).p r = {}) ∧ (m.agent a).row r = {} ∧ (m.agent a).hq r = {}) ∧
  (∀ a x, let c := m.agent a; c.mem.sm.read x = 0 ∧ c.mem.am.read x = 0 ∧ c.mem.wm.read x = 0 ∧ c.mem.im.read x = 0) ∧
  (∀ a, (m.agent a).mem.ag = [] ∧ (m.agent a).mem.wg = [] ∧ (m.agent a).mem.race = [] ∧ (m.agent a).eng.tlb = []) ∧
  (∀ a n, (m.agent a).csr true n = csrReset true n ∧ (m.agent a).csr false n = csrReset false n) ∧
  (∀ x, m.sys.hbm.read x = 0) ∧ (∀ p i, m.sem p i = {} ∧ (m.panel p).log = {} ∧ (m.partn p).used = false) ∧
  m.sys.keys = [] ∧ m.sys.vfs = [] ∧ m.sys.queues = [] ∧
  csrReset true 0x002 = 8 ∧ csrReset true 0x014 = 0x8888888888888888 ∧ csrReset true 0x01A = 0x402077 ∧
  csrReset true 0x024 = 0x7FFE ∧ csrReset false 0x814 = 1000 ∧ m.csr 0x800 = 0xA

/-! ### Operands and results -/

/-- 13 R318, R324; 08 R202: what a scalar operand reads as. s0 reads zero; a register whose result is usable reads as the
bundle found it; on a tile s60 to s63 pop the oldest item of the queue bound to the port.
13 R324, 14 R336-R338; 08 R202: what writing a scalar result does. s0 discards it; a register that is free holds value
and poison and can be used `lat` cycles after the bundle; on a tile s60 to s63 push it as the last item of the queue bound
to the port, which has room. Nothing else changes. An item with an uncorrectable error is found poisoned (09 Table 9-9).
13 R324: p0 reads true without poison and discards what is written; another predicate that is ready reads as the bundle
found it, and holds what is written, usable `lat` cycles later. Nothing else changes. -/
def Obligations.RegisterReadsAndWrites : Prop :=
  (((∀ s : State, ReadsS 0 s ⟨0, false⟩ s) ∧
  (∀ (s : State) (r : BitVec 6), r ≠ 0 → (s.old.isTile = true → r.toNat < 60) → s.old.core.pendS r.toNat = false →
    s.old.core.ready (rdyS r.toNat) ≤ s.old.core.ctl.cyc → ReadsS r s (s.old.core.s r.toNat) s) ∧
  (∀ (s : State) (r : BitVec 6) (n : Nat) (i : QItem) (rest : List QItem), s.old.isTile = true → 60 ≤ r.toNat →
    s.m.core.portQueue true (r.toNat - 60) = some n → (s.m.hq n).cons = 5 → (s.m.hq n).items = i :: rest →
    ∃ t, ReadsS r s ⟨i.row.v.setWidth 64, i.row.p || i.err.any ItemErr.ue⟩ t ∧ t.m.hq n = { s.m.hq n with items := rest } ∧
      SameBut s t [] [] [] [] (· = n))) ∧
  ((∀ (s : State) (x : SReg) (lat : Nat), WritesS 0 x lat s s) ∧
  (∀ (s : State) (r : BitVec 6) (x : SReg) (lat : Nat), r ≠ 0 → (s.old.isTile = true → r.toNat < 60) → FreeS s r.toNat →
    ∃ t, WritesS r x lat s t ∧ t.m.core.s r.toNat = x ∧ t.m.core.ready (rdyS r.toNat) = s.m.core.ctl.cyc + lat ∧
      SameBut s t [r.toNat] [] [] [] fun _ => False) ∧
  (∀ (s : State) (r : BitVec 6) (x : SReg) (lat n : Nat), s.old.isTile = true → 60 ≤ r.toNat →
    s.m.core.portQueue true (r.toNat - 60) = some n → (s.m.hq n).prod = 8 → (s.m.hq n).items.length < hqDepth n →
    ∃ t, WritesS r x lat s t ∧ (Unarmed s.m (panelOf s.m.me) → t.m.hq n = { s.m.hq n with
        items := (s.m.hq n).items ++ [⟨⟨x.v.setWidth 2048, x.p⟩, 0, none⟩], pos := (s.m.hq n).pos + 1 }) ∧
      SameBut s t [] [] [] [] (· = n)))) ∧
  ((∀ (s : State) (x : PReg) (lat : Nat), ReadsP (0 : BitVec 4) s ⟨true, false⟩ s ∧ WritesP 0 x lat s s) ∧
  (∀ (s : State) (r : BitVec 4), r ≠ 0 → s.old.core.ready (rdyP r.toNat) ≤ s.old.core.ctl.cyc →
    ReadsP r s (s.old.core.p r.toNat) s) ∧
  (∀ (s : State) (r : BitVec 4) (x : PReg) (lat : Nat), r ≠ 0 → ∃ t, WritesP r.toNat x lat s t ∧ t.m.core.p r.toNat = x ∧
    t.m.core.ready (rdyP r.toNat) = s.m.core.ctl.cyc + lat ∧ SameBut s t [] [r.toNat] [] [] fun _ => False))

/-- 08 R197, R202, 13 R318, 16 R381: a vector name below 60 reads the row of C that the windows give it, as the bundle found
it, and writes it when no result is pending and no issued M operation reads or writes it; v60 to v63 pop and push rows.
09 R234, R238, Table 9-9: a row that holds an uncorrectable error is found poisoned, and the error is noted; a write ends it. -/
def Obligations.VectorNameReadsAndWrites : Prop :=
  (∀ (s : State) (r : BitVec 6), r.toNat < 60 → let n := s.old.rowOf r.toNat
    s.old.core.pendRow n = false → (s.old.core.eng.mq.any fun o => o.writes n) = false →
    s.old.core.ready (rdyRow n) ≤ s.old.core.ctl.cyc →
    let x := s.old.core.row n
    ReadsV r s ⟨x.v, x.p || decide (2 ≤ errIn s.old.core 1 (256 * n) 256)⟩ { s with m := noteRead s.m s.m.me 1 (256 * n) 256 } ∧
      (errIn s.m.core 1 (256 * n) 256 = 0 → noteRead s.m s.m.me 1 (256 * n) 256 = s.m)) ∧
  (∀ (s : State) (r : BitVec 6) (n : Nat) (i : QItem) (rest : List QItem), 60 ≤ r.toNat →
    s.m.core.portQueue false (r.toNat - 60) = some n → (s.m.hq n).cons = 5 → (s.m.hq n).items = i :: rest →
    ∃ t, ReadsV r s ⟨i.row.v, i.row.p || i.err.any ItemErr.ue⟩ t ∧ t.m.hq n = { s.m.hq n with items := rest } ∧ SameBut s t [] [] [] [] (· = n)) ∧
  (∀ (s : State) (r : BitVec 6) (x : RowP) (lat : Nat), r.toNat < 60 → let n := s.old.rowOf r.toNat
    FreeRow s n → ∃ t, WritesV r x lat s t ∧
      (NoInjection s 1 (256 * n) 256 → t.m.core.row n = x ∧ errIn t.m.core 1 (256 * n) 256 = 0) ∧
      t.m.core.ready (rdyRow n) = s.m.core.ctl.cyc + lat ∧ SameBut s t [] [] [n] [] fun _ => False) ∧
  (∀ (s : State) (r : BitVec 6) (x : RowP) (lat n : Nat), 60 ≤ r.toNat →
    s.m.core.portQueue false (r.toNat - 60) = some n → (s.m.hq n).prod = 8 → (s.m.hq n).items.length < hqDepth n →
    ∃ t, WritesV r x lat s t ∧ (Unarmed s.m (panelOf s.m.me) → t.m.hq n = { s.m.hq n with
        items := (s.m.hq n).items ++ [⟨x, 0, none⟩], pos := (s.m.hq n).pos + 1 }) ∧
      SameBut s t [] [] [] [] (· = n))

/-- 08 R216, 14 R337: an operand that is not ready. In a stamped bundle the word writes its destination with zero bits and
poison; otherwise the bundle waits: it has no effect, its pc stays, a cycle or more passes. For the words of two sources. -/
def Obligations.LateOperandPoisonsOrWaits : Prop :=
  ∀ (s : State) (d a b : BitVec 6) (i : Instr) (lat : Nat) (f : Dword → Dword → Dword),
    (i, lat, f) ∈ c3Of d a b → Legal i s → a ≠ 0 → (s.old.isTile = true → a.toNat < 60) →
    (s.old.core.pendS a.toNat = true ∨ s.old.core.ctl.cyc < s.old.core.ready (rdyS a.toNat)) →
    (s.stamped = true → ∀ t, WritesS d ⟨0, true⟩ lat s t → exec i s = .next t) ∧
    (s.stamped = false → Issuing s → ∃ t, exec i s = .next t ∧ t.bundle = none ∧ t.m.core.rf = s.old.core.rf ∧
      t.m.core.mem = s.old.core.mem ∧ t.m.core.eng = s.old.core.eng ∧ t.m.rest = s.old.rest ∧ t.m.sys = s.old.sys ∧
      s.old.core.ctl.cyc < t.m.core.ctl.cyc)

/-! ### Engine C -/

/-- 14 R336, R337, R339, R340, R341, Tables 14-2, 14-3, 14-4: the words of two scalar sources. The destination takes the value of
the table, modulo 2^64, with the OR of the sources' poison; no flag, no control register, no predicate and no byte changes.
14 R336, R339, R340, 13 R316: the words of one scalar source, with a signed immediate (extended by a KX), a shift amount, or
nothing more. -/
def Obligations.ScalarArithmeticWords : Prop :=
  (∀ (s s1 s2 t : State) (d a b : BitVec 6) (x y : SReg) (i : Instr) (lat : Nat) (f : Dword → Dword → Dword),
    (i, lat, f) ∈ c3Of d a b → Legal i s → ReadsS a s x s1 → ReadsS b s1 y s2 →
    WritesS d ⟨f x.v y.v, x.p || y.p⟩ lat s2 t →
    exec i s = .next t ∧
      SameBut s t [d.toNat] [] [] [] fun n => OnPort s true a.toNat n ∨ OnPort s true b.toNat n ∨ OnPort s true d.toNat n) ∧
  (∀ (s s1 t : State) (d a k : BitVec 6) (x : SReg) (i : Instr) (f : Dword → Dword),
    (i, f) ∈ c2Of (BitVec.ofInt 64 (immOf k s)) k d a → Legal i s → ReadsS a s x s1 →
    WritesS d ⟨f x.v, x.p⟩ 1 s1 t →
    exec i s = .next t ∧ SameBut s t [d.toNat] [] [] [] fun n => OnPort s true a.toNat n ∨ OnPort s true d.toNat n)

/-- 14 R342, R343, R347: LI writes its signed immediate (12 bits, 38 with a KX); ADDX adds a source times 2^k to the old
destination; SEL keeps or replaces the old destination by a predicate, whose poison poisons the result.
14 R344, R336: CMP and CMPI write the condition and its negation to a predicate pair, with the poison of the sources; the
immediate of CMPI is sign-extended before every condition. -/
def Obligations.ScalarMovesAndCompares : Prop :=
  ((∀ (s t : State) (d : BitVec 6) (k : BitVec 12), Legal (.li d k) s →
    WritesS d ⟨BitVec.ofInt 64 (immOf k s), false⟩ 1 s t →
    exec (.li d k) s = .next t ∧ SameBut s t [d.toNat] [] [] [] (OnPort s true d.toNat)) ∧
  (∀ (s s1 s2 t : State) (d a k : BitVec 6) (x y : SReg), Legal (.addx d a k) s → ReadsS d s x s1 → ReadsS a s1 y s2 →
    WritesS d ⟨BitVec.ofNat 64 (x.v.toNat + y.v.toNat * 2 ^ k.toNat), x.p || y.p⟩ 1 s2 t →
    exec (.addx d a k) s = .next t ∧
      SameBut s t [d.toNat] [] [] [] fun n => OnPort s true a.toNat n ∨ OnPort s true d.toNat n) ∧
  (∀ (s s1 s2 t : State) (d a : BitVec 6) (n : BitVec 1) (p : BitVec 4) (x y : SReg) (c : PReg), Legal (.sel d a n p) s →
    ReadsS a s x s1 → ReadsS d s1 y s2 → ReadsP p s2 c s2 →
    WritesS d (if c.v = (n == 0) then ⟨x.v, x.p || c.p⟩ else ⟨y.v, y.p || c.p⟩) 1 s2 t →
    exec (.sel d a n p) s = .next t ∧
      SameBut s t [d.toNat] [] [] [] fun n => OnPort s true a.toNat n ∨ OnPort s true d.toNat n)) ∧
  ((∀ (s s1 s2 s3 t : State) (p : BitVec 3) (a b : BitVec 6) (x y : SReg) (i : Instr) (f : Dword → Dword → Bool),
    (i, f) ∈ cmpOf p a b → Legal i s → ReadsS a s x s1 → ReadsS b s1 y s2 →
    WritesP (2 * p.toNat) ⟨f x.v y.v, x.p || y.p⟩ 1 s2 s3 → WritesP (2 * p.toNat + 1) ⟨!f x.v y.v, x.p || y.p⟩ 1 s3 t →
    exec i s = .next t ∧
      SameBut s t [] [2 * p.toNat, 2 * p.toNat + 1] [] [] fun n => OnPort s true a.toNat n ∨ OnPort s true b.toNat n) ∧
  (∀ (s s1 s2 t : State) (p : BitVec 3) (a k : BitVec 6) (x : SReg) (i : Instr) (f : Dword → Dword → Bool),
    (i, f) ∈ cmpiOf p a k → Legal i s → ReadsS a s x s1 → let y := BitVec.ofInt 64 (immOf k s)
    WritesP (2 * p.toNat) ⟨f x.v y, x.p⟩ 1 s1 s2 → WritesP (2 * p.toNat + 1) ⟨!f x.v y, x.p⟩ 1 s2 t →
    exec i s = .next t ∧ SameBut s t [] [2 * p.toNat, 2 * p.toNat + 1] [] [] (OnPort s true a.toNat)))

/-- 14 R345, R346: PSET combines two predicates by its function; PMOV moves predicate to predicate, scalar to predicate (not
zero) and predicate to scalar (1 or 0), with the poison of what it reads. -/
def Obligations.PredicateWords : Prop :=
  (∀ (s t : State) (f : BitVec 2) (d a b : BitVec 4) (x y : PReg), Legal (.pset f d a b) s → ReadsP a s x s → ReadsP b s y s →
    WritesP d.toNat ⟨if f = 0 then x.v && y.v else if f = 1 then x.v || y.v else if f = 2 then x.v ^^ y.v else x.v && !y.v,
      x.p || y.p⟩ 1 s t →
    exec (.pset f d a b) s = .next t ∧ SameBut s t [] [d.toNat] [] [] fun _ => False) ∧
  (∀ (s t : State) (d a : BitVec 4) (x : PReg), let i := Instr.pmov (d.setWidth 6) (a.setWidth 6) 0
    Legal i s → ReadsP a s x s → WritesP d.toNat x 1 s t →
    exec i s = .next t ∧ SameBut s t [] [d.toNat] [] [] fun _ => False) ∧
  (∀ (s s1 t : State) (d : BitVec 4) (a : BitVec 6) (x : SReg), let i := Instr.pmov (d.setWidth 6) a 1
    Legal i s → ReadsS a s x s1 → WritesP d.toNat ⟨decide (x.v ≠ 0), x.p⟩ 1 s1 t →
    exec i s = .next t ∧ SameBut s t [] [d.toNat] [] [] (OnPort s true a.toNat)) ∧
  (∀ (s t : State) (d : BitVec 6) (a : BitVec 4) (x : PReg), let i := Instr.pmov d (a.setWidth 6) 2
    Legal i s → ReadsP a s x s → WritesS d ⟨if x.v then 1 else 0, x.p⟩ 1 s t →
    exec i s = .next t ∧ SameBut s t [d.toNat] [] [] [] (OnPort s true d.toNat))

/-- 14 R348-R352: BR and CALL continue at the address of the bundle plus four times their offset (18 bits, 44 with a KX), CALL
with the successor's address in s59; JR and RET at the value of their register, which lies in the store and is a multiple of
four, JR with the successor's address in its destination; BQ pops an item and branches on it or goes on. A target outside the
store makes BR trap with cause 0x0B. -/
def Obligations.Transfers : Prop :=
  (∀ (s : State) (k : BitVec 18), let g := BitVec.ofInt 64 ((bundlePc s : Int) + 4 * immOf k s)
    (Legal (.br k) s → InStore s g → exec (.br k) s = .next (taken s g) ∧ SameBut s (taken s g) [] [] [] [] fun _ => False) ∧
    (Legal (.br k) s → ¬InStore s g → exec (.br k) s = .next (stopState (.trap 0x0B g) s)) ∧
    (∀ t, Legal (.call k) s → InStore s g → WritesS 59 ⟨bundleNext s, false⟩ 1 (taken s g) t →
      exec (.call k) s = .next t ∧ SameBut s t [59] [] [] [] fun _ => False)) ∧
  (∀ (s s1 t : State) (d a : BitVec 6) (v : Dword), Legal (.jr d a) s → ReadsC a s v s1 → InStore s v → v.toNat % 4 = 0 →
    WritesS d ⟨bundleNext s, false⟩ 1 (taken s1 v) t →
    exec (.jr d a) s = .next t ∧
      SameBut s t [d.toNat] [] [] [] fun n => OnPort s true a.toNat n ∨ OnPort s true d.toNat n) ∧
  (∀ (s : State) (v : Dword), Legal .ret s → ReadsC 59 s v s → InStore s v → v.toNat % 4 = 0 →
    exec .ret s = .next (taken s v) ∧ SameBut s (taken s v) [] [] [] [] fun _ => False) ∧
  (∀ (s s1 : State) (q t : BitVec 2) (k : BitVec 14) (v : Dword), s.old.isTile = true → Legal (.bq q t k) s →
    ReadsC (60 + q.setWidth 6) s v s1 → let g := BitVec.ofInt 64 ((bundlePc s : Int) + 4 * k.toInt)
    let c := if t = 0 then v ≠ 0 else if t = 1 then v = 0 else if t = 2 then v.toInt < 0 else 0 ≤ v.toInt
    (c → InStore s g → exec (.bq q t k) s = .next (taken s1 g) ∧
      SameBut s (taken s1 g) [] [] [] [] (OnPort s true (60 + q.toNat))) ∧
    (¬c → exec (.bq q t k) s = .next s1 ∧ SameBut s s1 [] [] [] [] (OnPort s true (60 + q.toNat))))

/-- 14 R353, 08 R212: LOOP and LOOPI start the loop engine on the kernel from the successor to the address of the bundle plus
four times E: p8 set, p9 to p15 clear, the count and the stages kept; with a count of zero issue continues at the kernel
end and the predicates and the engine are unchanged. -/
def Obligations.LoopStarts : Prop :=
  ∀ (s s1 : State) (i : Instr) (n k e : Nat),
    ((∃ a kk ee v, i = .loop a kk ee ∧ ReadsC a s v s1 ∧ v.toNat < 2 ^ 32 ∧ n = v.toNat ∧ k = kk.toNat + 1 ∧ e = ee.toNat) ∨
     (∃ kk nn ee, i = .loopi kk nn ee ∧ s1 = s ∧ n = nn.toNat ∧ k = kk.toNat + 1 ∧ e = ee.toNat)) →
    Legal i s → s.old.core.ctl.loop = none → (bundleNext s).toNat < bundlePc s + 4 * e →
    (n = 0 → exec i s = .next { s1 with m := s1.m.modRf fun r => { r with npc := BitVec.ofNat 64 (bundlePc s + 4 * e) } }) ∧
    (0 < n → ∃ t, exec i s = .next t ∧
      t.m.core.p 8 = ⟨true, false⟩ ∧
      (∀ p, 9 ≤ p → p ≤ 15 → t.m.core.p p = ⟨false, false⟩) ∧ t.m.core.rf.npc = s.m.core.rf.npc ∧
      SameBut { s1 with m := s1.m.modCtl fun c => { c with
          loop := some ⟨(bundleNext s).toNat, bundlePc s + 4 * e, n, k, 1, false⟩ } }
        t [] [8, 9, 10, 11, 12, 13, 14, 15] [] [] fun _ => False)

/-! ### Control registers -/

/-- 14 R356, R357, 13 R325, 08 R199: CSRR writes the value of the register as the bundle found it, without poison; for a register that
hardware does not compute this is the value stored. On a tile CSRW, CSRS and CSRC leave A, the old value or A, the old value
and not A in the register, read-only bits as they read; the register's own refusals (R199, R305, R326, R413) do not apply. -/
def Obligations.ControlRegisterWords : Prop :=
  (∀ (s t : State) (d : BitVec 6) (c : BitVec 12), Legal (.csrr d c) s → (s.old.isTile = false → c ≠ 0x875) →
    WritesS d ⟨csrRead s.old c.toNat, false⟩ 1 s t →
    exec (.csrr d c) s = .next t ∧ SameBut s t [d.toNat] [] [] [] (OnPort s true d.toNat)) ∧
  (∀ (s : State) (c : Nat), s.old.isTile = true → c ∉ [0x017, 0x040, 0x041, 0x042, 0x043] → csrRead s.old c = s.old.csr c) ∧
  (∀ (s s1 : State) (a : BitVec 6) (c : BitVec 12) (x v : Dword) (i : Instr), s.old.isTile = true → s.m.isTile = true →
    (i, v) ∈ [(Instr.csrw a c, x), (Instr.csrs a c, csrRead s.old c.toNat ||| x), (Instr.csrc a c, csrRead s.old c.toNat &&& ~~~x)] →
    Legal i s → ReadsC a s x s1 → tileRefuses s.old c.toNat v = none → c ≠ 0x019 → c ≠ 0x024 →
    ∃ t, exec i s = .next t ∧ t.m.csr c.toNat = v &&& tileMask c.toNat ∧ SameBut s t [] [] [] [c.toNat] (OnPort s true a.toNat))

/-- 04 R106, 14 R356: the CSR words on a command core, which write `ccWrite` of the value: TVEC, TEPC, MVEC and MEPC keep bits
[17:2], TCAUSE and MCAUSE bits [10:0], VFSEL bits [9:0], WDLIM at least 10; CSRR of ELD3 marks the entry it shows read
(09 R235). -/
def Obligations.CommandCoreRegisterWords : Prop :=
  (∀ (s s1 : State) (a : BitVec 6) (c : BitVec 12) (x v : Dword) (i : Instr), s.old.isTile = false →
    (i, v) ∈ [(Instr.csrw a c, x), (Instr.csrs a c, csrRead s.old c.toNat ||| x), (Instr.csrc a c, csrRead s.old c.toNat &&& ~~~x)] →
    Legal i s → ReadsC a s x s1 → exec i s = .next { s1 with m := ccWrite s1.m (s1.m.me - 1152) c.toNat v }) ∧
  (∀ (m : Mach) (n : Nat) (mask v : Dword), isTileAgent m.me = false → 1152 ≤ m.me →
    (n, mask) ∈ [(0x020, 0x3FFFC), (0x022, 0x3FFFC), (0x810, 0x3FFFC), (0x811, 0x3FFFC), (0x021, 0x7FF), (0x812, 0x7FF),
      (0x803, 0x3FF), (0x023, BitVec.allOnes 64), (0x813, BitVec.allOnes 64)] →
    (ccWrite m (m.me - 1152) n v).csr n = v &&& mask ∧ ∀ k, k ≠ n → (ccWrite m (m.me - 1152) n v).csr k = m.csr k) ∧
  (∀ (s t : State) (d : BitVec 6), s.old.isTile = false → Legal (.csrr d 0x875) s →
    WritesS d ⟨csrRead s.old 0x875, false⟩ 1 { s with m := eld3Mark s.m (s.m.me - 1152) } t → exec (.csrr d 0x875) s = .next t)

/-! ### Engine L -/

/-- 15 R358-R360, Table 15-3, in its order for a task on a tile: a poisoned address, a tag or an offset that the word may not
use, an EA that is no multiple of the alignment, a race in S. The first that fails raises its trap with TVAL EA (the granule
for a race), or gives a speculative load nothing; an access that passes reaches S, A (rows only) or, by translation and
rights, HBM. One of global memory whose mapping is missing issues and stays to be carried out once the gang has been frozen and thawed (07
R178, R179); so does one of a stack that takes no requests (06 R159), and each that follows such a one (15 R363). -/
def Obligations.TaskAccessChecks : Prop :=
  ∀ (s : State) (ea : Dword) (n align acc : Nat) (u : Use) (spec row : Bool), s.m.isTile = true →
    let fails := fun (p : Bool) (code : Nat) (v : Dword) => reach ⟨ea, p⟩ n align acc u spec row s =
      if spec then .ok (none, s) else .error (.trap code v)
    let tag := tagOfAddr ea
    let tagOk := (tag = tagS ∨ (row = true ∧ tag = tagA) ∨ tag = 0) ∧ inSpace ea n = true
    fails true 0x04 ea ∧
    (¬tagOk → fails false 0x0B ea) ∧
    (tagOk → ea.toNat % align ≠ 0 → fails false 0x0B ea) ∧
    (tagOk → ea.toNat % align = 0 →
      (tag = tagA → Reaches s ⟨ea, false⟩ n align acc u spec row (some (.aOff (offOf ea))) s) ∧
      (tag = tagS → (∀ g, raceAtIf s.old.core.raceOn s.m.core 1 (offOf ea) n = some g → fails false 0x09 (granuleAddr g)) ∧
        (raceAtIf s.old.core.raceOn s.m.core 1 (offOf ea) n = none → Reaches s ⟨ea, false⟩ n align acc u spec row (some (.sOff (offOf ea))) s)) ∧
      (tag = 0 → ∀ ps m, translateWord s.old s.m (offOf ea) n acc = (.ok ps, m) →
        if rightsOk s.m s.m.core.ctl.part s.m.core.ctl.vf s.m.myTask u ps then
          Reaches s ⟨ea, false⟩ n align acc u spec row
            (some (if s.m.stalled ps || s.m.core.hasTodo then .later else .phys ps)) { s with m := m }
        else fails false 0x05 ea) ∧
      (tag = 0 → ∀ v w m, translateWord s.old s.m (offOf ea) n acc = (.error (v, w), m) →
        if spec then Reaches s ⟨ea, false⟩ n align acc u spec row none s
        else Reaches s ⟨ea, false⟩ n align acc u spec row (some .later)
          { s with bundle := s.bundle.map fun b => { b with fault := some (v, acc, w) } }))

/-- 08 R193, 15 R363: the result of a global access. On a tile it goes on its way to its register, or to the queue of its port,
and the agent goes on; a command core has it at once. MEMORY_RESPONSE brings the oldest one to its register, row or queue; where none is
there, it carries the oldest access out that still has to be (07 R179). -/
def Obligations.GlobalResultsComeLater : Prop :=
  (∀ (s : State) (x : SReg), s.old.isTile = true → ComesS 0 x s s) ∧
  (∀ (s : State) (d : BitVec 6) (x : SReg), s.old.isTile = true → d ≠ 0 → d.toNat < 60 → FreeS s d.toNat →
    ∃ t, ComesS d x s t ∧ t.m.core.ctl.resp.getLast? = some ⟨0, d.toNat, ⟨x.v.setWidth 2048, x.p⟩, none⟩ ∧
      SameBut s t [] [] [] [] fun _ => False) ∧
  (∀ (s : State) (d : BitVec 6) (x : SReg) (n : Nat), s.old.isTile = true → 60 ≤ d.toNat →
    s.m.core.portQueue true (d.toNat - 60) = some n → (s.m.hq n).prod = 8 → portFull s.m.core true (d.toNat - 60) n = false →
    ∃ t, ComesS d x s t ∧ t.m.core.ctl.resp = s.m.core.ctl.resp ++ [⟨3, d.toNat - 60, ⟨x.v.setWidth 2048, x.p⟩, none⟩] ∧
      SameBut s t [] [] [] [] fun _ => False) ∧
  (∀ (s t : State) (d : BitVec 6) (x : SReg), s.old.isTile = false → WritesS d x 1 s t → ComesS d x s t) ∧
  (∀ (s : State) (d : BitVec 6) (x : RowP), d.toNat < 60 → let n := s.old.rowOf d.toNat
    FreeRow s n → ∃ t, ComesV d x s t ∧ t.m.core.ctl.resp.getLast? = some ⟨1, n, x, none⟩ ∧ SameBut s t [] [] [] [] fun _ => False) ∧
  (∀ (s : State) (d : BitVec 6) (x : RowP) (n : Nat), 60 ≤ d.toNat → s.m.core.portQueue false (d.toNat - 60) = some n →
    (s.m.hq n).prod = 8 → portFull s.m.core false (d.toNat - 60) n = false →
    ∃ t, ComesV d x s t ∧ t.m.core.ctl.resp = s.m.core.ctl.resp ++ [⟨2, d.toNat - 60, x, none⟩] ∧
      SameBut s t [] [] [] [] fun _ => False) ∧
  (∀ (s : State) (r : Resp) (rest : List Resp), s.arg.a = s.m.me → s.m.core.ctl.resp = r :: rest →
    (s.m.isTile = true → s.m.runs s.m.me = true) →
    (r.kind ≤ 1 → r.todo = none → ∃ t, exec .memoryResponse s = .next t ∧ t.m.core.ctl.resp = rest ∧
      (r.kind = 0 → r.dst ≠ 0 → t.m.core.s r.dst = ⟨r.row.v.setWidth 64, r.row.p⟩) ∧
      (r.kind = 1 → NoInjection s 1 (256 * r.dst) 256 → t.m.core.row r.dst = r.row)) ∧
    (∀ (td : Todo) (ps : List (Nat × Nat)) (m : Mach), r.todo = some td → td.op = 0 → r.kind ≠ 4 → (∀ q ∈ rest, q.todo.isSome = true) →
      s.m.core.eng.thalt = false → let k := s.m.core.ctl
      translateAll s.m s.m.me k.part 0 accRead (pageSpans (offOf td.ea) td.n) = (.ok ps, m) → s.m.stalled ps = false →
      rightsOk s.m k.part k.vf (k.task.getD ⟨0, 0⟩) .read ps = true →
      ∃ t, exec .memoryResponse s = .next t ∧
        t.m.core.ctl.resp = { r with row := ⟨td.value (hbmRead m ps).1, (hbmRead m ps).2⟩, todo := none } :: rest))

/-- 15 R358, R359, R362, Table 15-2, 08 R193: the scalar loads. From S the value is in the register four cycles later, from a command core's
own memory one later; from global memory the value goes on its way to the register (`ComesS`);
a speculative load that a check fails writes zero with poison. Little-endian, extended by sign or by zero. An access that has to wait
for its mapping or its stack issues, and stays to be carried out (07 R179).
15 R358, R362, Table 15-2: the scalar stores write the low bytes of their register, little-endian, at EA and nowhere
else: in S (with the writer's mark, R213), in a command core's own memory, or in HBM at the pieces the access reaches. No
register changes. -/
def Obligations.ScalarLoadsAndStores : Prop :=
  (∀ (s s1 s2 : State) (d a : BitVec 6) (sp : BitVec 1) (k : BitVec 5) (b : SReg) (i : Instr) (n : Nat) (sg : Bool) (w : Option Reach),
    (i, n, sg) ∈ loadOf d a sp k → Legal i s → ReadsS a s b s1 →
    Reaches s1 (eaOf b k n s) n n accRead .read (sp == 1) false w s2 →
    let port := fun q => OnPort s true a.toNat q ∨ OnPort s true d.toNat q
    (∀ o t, w = some (.sOff o) → NoError s2 0 o n →
      WritesS d ⟨loaded n sg (s.m.core.mem.sm.readNat o n), false⟩ 4 s2 t → exec i s = .next t ∧ SameBut s t [d.toNat] [] [] [] port) ∧
    (∀ o t, w = some (.core o) → NoError s2 9 o n →
      WritesS d ⟨loaded n sg (s.m.core.mem.sm.readNat o n), false⟩ 1 s2 t → exec i s = .next t ∧ SameBut s t [d.toNat] [] [] [] port) ∧
    (∀ t, w = none → WritesS d ⟨0, true⟩ 4 s2 t → exec i s = .next t) ∧
    (∀ ps t, w = some (.phys ps) → s2.m.sys.hbmErr = [] →
      ComesS d ⟨loaded n sg (leAt (ps.flatMap fun p => s2.m.sys.hbm.readList p.1 p.2) 0 n),
        ps.any fun p => keyErased s2.m p.1⟩ s2 t → exec i s = .next t) ∧
    (w = some .later → s.old.isTile = true → TakesLater s2 d → ∃ t, exec i s = .next t ∧
      t.m.core.ctl.resp.getLast? = some ⟨(destOf d).1, (destOf d).2, {},
        some { op := 0, ea := (eaOf b k n s).v, n := n, fn := if sg then 1 else 0, spec := sp == 1 }⟩ ∧ SameBut s2 t [] [] [] [] fun _ => False)) ∧
  (∀ (s s1 s2 s3 : State) (x a k : BitVec 6) (b v : SReg) (i : Instr) (n : Nat) (w : Option Reach),
    (i, n) ∈ storeOf x a k → Legal i s → ReadsS a s b s1 → ReadsS x s1 v s2 → let ea := eaOf b k n s
    Reaches s2 ⟨ea.v, ea.p || v.p⟩ n n accWrite .write false false w s3 →
    let port := fun q => OnPort s true a.toNat q ∨ OnPort s true x.toNat q
    (∀ o, w = some (.sOff o) → NoInjection s3 0 o n → ∃ t mem, exec i s = .next t ∧
      Stored s.m.core.mem.sm mem o (leBytes v.v.toNat n) ∧ SameBut (withS s mem) t [] [] [] [] port) ∧
    (∀ o, w = some (.core o) → NoInjection s3 9 o n → ∃ t mem, exec i s = .next t ∧
      Stored s.m.core.mem.sm mem o (leBytes v.v.toNat n) ∧ SameBut (withS s mem) t [] [] [] [] port) ∧
    (∀ pa, w = some (.phys [(pa, n)]) → keyErased s3.m pa = false → injHits s3.m (panelOfPa pa) 10 0 pa n = false →
      ∃ t, exec i s = .next t ∧ t.m.core = s3.m.core ∧ t.m.rest = s3.m.rest ∧
        Stored s3.m.sys.hbm t.m.sys.hbm pa (leBytes v.v.toNat n)) ∧
    (w = some .later → ∃ t, exec i s = .next t ∧ t.m.core.ctl.resp = s3.m.core.ctl.resp ++
      [⟨4, 0, {}, some { op := 1, ea := ea.v, n := n, data := leBytes v.v.toNat n }⟩] ∧ SameBut s3 t [] [] [] [] fun _ => False))

/-- 15 R364, 09 R225: LDV and STV of a row in S, A or global memory. LDV writes all 2,048 bits with their latency (Table 8-5), without poison, when no
byte lies in an invalid row group and no word holds an error; STV stores the 256 bytes, in A making each row group it
touches valid with class and extend bit of LCTL as the bundle found it (13 R318). From global memory the row comes later; a speculative LDV that a check fails
writes zero with poison. -/
def Obligations.RowLoadsAndStores : Prop :=
  (∀ (s s1 s2 t : State) (d a : BitVec 6) (sp : BitVec 1) (k : BitVec 5) (b : SReg) (o : Nat),
    Legal (.ldv d a sp k) s → ReadsS a s b s1 →
    ((Reaches s1 (eaOf b k 256 s) 256 32 accRead .read (sp == 1) true (some (.sOff o)) s2 ∧ NoError s2 0 o 256 ∧
        WritesV d ⟨BitVec.ofNat 2048 (s.m.core.mem.sm.readNat o 256), false⟩ 6 s2 t) ∨
      (Reaches s1 (eaOf b k 256 s) 256 32 accRead .read (sp == 1) true (some (.aOff o)) s2 ∧ s2.m.core.mem.err = [] ∧
        (∀ g ∈ groupsOf o 256, (s2.m.core.group false g).v = true) ∧
        WritesV d ⟨BitVec.ofNat 2048 (s.m.core.mem.am.readNat o 256), false⟩ 4 s2 t)) →
    exec (.ldv d a sp k) s = .next t ∧ SameBut s t [] [] (if d.toNat < 60 then [s2.old.rowOf d.toNat] else []) []
      fun q => OnPort s true a.toNat q ∨ OnPort s false d.toNat q) ∧
  (∀ (s s1 s2 t : State) (d a : BitVec 6) (sp : BitVec 1) (k : BitVec 5) (b : SReg), Legal (.ldv d a sp k) s → ReadsS a s b s1 →
    (Reaches s1 (eaOf b k 256 s) 256 32 accRead .read (sp == 1) true none s2 → WritesV d ⟨0, true⟩ 4 s2 t →
      exec (.ldv d a sp k) s = .next t) ∧
    (∀ ps, Reaches s1 (eaOf b k 256 s) 256 32 accRead .read (sp == 1) true (some (.phys ps)) s2 → s2.m.sys.hbmErr = [] →
      ComesV d ⟨BitVec.ofNat 2048 (leAt (ps.flatMap fun p => s2.m.sys.hbm.readList p.1 p.2) 0 256),
        ps.any fun p => keyErased s2.m p.1⟩ s2 t → exec (.ldv d a sp k) s = .next t) ∧
    (Reaches s1 (eaOf b k 256 s) 256 32 accRead .read (sp == 1) true (some .later) s2 → d.toNat < 60 →
      FreeRow s2 (s2.old.rowOf d.toNat) → ∃ t, exec (.ldv d a sp k) s = .next t ∧
        t.m.core.ctl.resp.getLast? = some ⟨1, s2.old.rowOf d.toNat, {},
          some { op := 0, ea := (eaOf b k 256 s).v, n := 256, spec := sp == 1 }⟩ ∧ SameBut s2 t [] [] [] [] fun _ => False)) ∧
  (∀ (s s1 s2 s3 : State) (x a k : BitVec 6) (b : SReg) (v : RowP) (w : Option Reach),
    Legal (.stv x a k) s → ReadsS a s b s1 → ReadsV x s1 v s2 → let ea := eaOf b k 256 s
    Reaches s2 ⟨ea.v, ea.p || v.p⟩ 256 32 accWrite .write false true w s3 →
    let port := fun q => OnPort s true a.toNat q ∨ OnPort s false x.toNat q
    (∀ o, w = some (.sOff o) → NoInjection s3 0 o 256 → ∃ t mem, exec (.stv x a k) s = .next t ∧
      Stored s.m.core.mem.sm mem o (leBytes v.v.toNat 256) ∧ SameBut (withS s mem) t [] [] [] [] port) ∧
    (∀ o, w = some (.aOff o) → NoInjection s3 3 o 256 → (∀ g ∈ groupsOf o 256, (s3.m.core.group false g).clr = false) →
      ∃ t mem gs, exec (.stv x a k) s = .next t ∧ Stored s.m.core.mem.am mem o (leBytes v.v.toNat 256) ∧
        (∀ g, t.m.core.group false g = if g ∈ groupsOf o 256 then
          { v := true, x := bit (s3.old.csr 0x018) 2, cls := bits (s3.old.csr 0x018) 1 0, age := 0 } else s3.m.core.group false g) ∧
        SameBut (withA s mem gs) t [] [] [] [] port) ∧
    (∀ ps, w = some (.phys ps) → (∀ p ∈ ps, injHits s3.m (panelOfPa p.1) 10 0 p.1 p.2 = false) →
      ∃ t, exec (.stv x a k) s = .next t ∧ t.m.core = s3.m.core ∧
        t.m.sys.hbm = (hbmWriteAll s3.m s3.m.myPart ps (leBytes v.v.toNat 256)).sys.hbm) ∧
    (w = some .later → ∃ t, exec (.stv x a k) s = .next t ∧ t.m.core.ctl.resp = s3.m.core.ctl.resp ++
      [⟨4, 0, {}, some { op := 1, ea := ea.v, n := 256, data := leBytes v.v.toNat 256 }⟩] ∧ SameBut s3 t [] [] [] [] fun _ => False))

/-- 15 R365, R366, R367: AMO stores its function of the old value and D, CAS its new value when the old one equals E, at EA, as one
step, and both give the old value: in a command core's own memory, or in HBM where the access reaches (on a task, an ATOMIC
region). On a command core the destination holds it at once; on a task it comes back like that of a global load, and an acquire waits
for it. One that has to wait for its mapping or its stack issues, and stays to be carried out (07 R179). A release goes first when
every earlier access is performed. -/
def Obligations.AtomicWords : Prop :=
  ∀ (s s1 s2 s3 s4 : State) (d a : BitVec 6) (fn : BitVec 4) (o : BitVec 2) (x y z : Dword) (i : Instr) (f : Dword → Option Dword)
      (w : Reach) (td : Todo),
    ((i = .amo d a fn o ∧ s3 = s2 ∧ td = { op := 2, ea := x, n := 8, fn := fn.toNat, x := y } ∧
        ∃ g, amoOf[fn.toNat]? = some g ∧ f = fun old => some (g old y)) ∨
      (i = .cas d a o ∧ ReadsC (d + 1) s2 z s3 ∧ td = { op := 3, ea := x, n := 8, x := y, y := z } ∧
        f = fun old => if old = y then some z else none)) →
    Legal i s → s.old.isTile = s.m.isTile → ReadsC a s x s1 → ReadsC d s1 y s2 → ReachesAtom s3 x w s4 → TakesLater s4 d →
    (o.getLsbD 1 = true → s4.m.core.globalQuiet = true) →
    let stored := fun old => ((f old).map fun v => leBytes v.toNat 8).getD []
    (∀ off, w = .core off → NoError s4 9 off 8 → NoInjection s4 9 off 8 → let old := BitVec.ofNat 64 (s4.m.core.mem.sm.readNat off 8)
      ∃ t, exec i s = .next t ∧ Stored s4.m.core.mem.sm t.m.core.mem.sm off (stored old) ∧
        t.m.core.s d.toNat = (if d = 0 then {} else ⟨old, false⟩) ∧
        SameBut (withS s4 t.m.core.mem.sm) t [d.toNat] [] [] [] fun _ => False) ∧
    (∀ pa, w = .phys [(pa, 8)] → s4.m.sys.hbmErr = [] → keyErased s4.m pa = false → injHits s4.m (panelOfPa pa) 10 0 pa 8 = false →
      let old := BitVec.ofNat 64 (s4.m.sys.hbm.readNat pa 8)
      ∃ t, exec i s = .next t ∧ Stored s4.m.sys.hbm t.m.sys.hbm pa (stored old) ∧ t.m.core.mem = s4.m.core.mem ∧
        t.m.core.eng = s4.m.core.eng ∧ t.m.rest = s4.m.rest ∧ (∀ r, r ≠ d.toNat → t.m.core.s r = s4.m.core.s r) ∧
        (s.old.isTile = false → t.m.core.s d.toNat = (if d = 0 then {} else ⟨old, false⟩)) ∧
        (s.old.isTile = true → (d ≠ 0 → t.m.core.ctl.resp.getLast? = some ⟨(destOf d).1, (destOf d).2, ⟨old.setWidth 2048, false⟩, none⟩) ∧
          t.m.core.ctl.wait = if o.getLsbD 0 = true ∧ d ≠ 0 then .resp else s4.m.core.ctl.wait)) ∧
    (w = .later → ∃ t, exec i s = .next t ∧
      t.m.core.ctl.resp.getLast? = some ⟨(destOf d).1, (destOf d).2, {}, some td⟩ ∧ t.m.core.mem = s4.m.core.mem ∧
      t.m.core.eng = s4.m.core.eng ∧ t.m.sys = s4.m.sys ∧
      t.m.core.ctl.wait = if o.getLsbD 0 = true then .resp else s4.m.core.ctl.wait)

/-- 15 R368-R370, 10 R253, R255, Table 10-7: an ownership word whose address is global makes its bundle ask the home, once its other
words have passed their checks: the request leaves when a release's earlier accesses are performed, and takes its place in the order
of arrival; when the home has agreed, the word completes with its bundle (OWNQ writes the state word the home gave); when the home has
refused, it raises 0x05 with the home's TVAL. -/
def Obligations.OwnershipWords : Prop :=
  (∀ (s s1 s2 : State) (d a b : BitVec 6) (k : BitVec 1) (x u : Dword) (i : Instr) (op arg : Nat),
    (i, op, arg) ∈ [(Instr.owna a, ownA, 0), (.owns a k, ownS, k.toNat), (.ownf a, ownF, 0), (.ownq d a, ownQ, 0),
      (.ownx a b, ownX, u.toNat)] →
    Legal i s → ReadsC a s x s1 →
    (if i = .ownx a b then ReadsC b s1 u s2 ∧ u.toNat < bits (s2.m.csr 0x032) 39 20 else s2 = s1) →
    (∀ r v, s2.m.core.ctl.own = some r → r.reply = some (false, v) →
      let s3 := { s2 with m := s2.m.modCtl fun c => { c with own := none } }
      (i ≠ .ownq d a → exec i s = .next s3) ∧
      (∀ t, i = .ownq d a → WritesS d ⟨v, false⟩ 1 s3 t → exec i s = .next t)) ∧
    (∀ r v, s2.m.core.ctl.own = some r → r.reply = some (true, v) → exec i s = .next (stopState (.trap 0x05 v) s)) ∧
    (s2.m.core.ctl.own = none → tagOfAddr x = 0 → inSpace x 1 = true →
      exec i s = .next { s2 with bundle := s2.bundle.map fun b => { b with own := some { op := op, ea := x, arg := arg } } })) ∧
  (∀ (m m' : Mach) (r : OwnReq) (pa : Nat), m.core.ctl.own = some r → r.sent = none →
    translate m m.me m.myPart 0 (offOf r.ea) accEither = (.ok pa, m') →
    (r.op = ownA ∨ r.op = ownQ ∨ m.core.globalQuiet = true → 
      (sendOwn m).core.ctl.own = some { r with sent := some m.sys.seq, reg := pa / 0x200000 } ∧ (sendOwn m).sys.seq = m.sys.seq + 1) ∧
    (r.op ≠ ownA → r.op ≠ ownQ → m.core.globalQuiet = false → sendOwn m = m)) ∧
  (∀ (m m' : Mach) (r : OwnReq) (w : Nat), m.core.ctl.own = some r → r.sent = none → r.op = ownQ →
    translate m m.me m.myPart 0 (offOf r.ea) accEither = (.error w, m') →
    (sendOwn m).core.ctl.own = some { r with sent := some m.sys.seq, reply := some (false, 0x8000) }) ∧
  (∀ (s : State) (r : OwnReq), (ownPend s r).bundle = none ∧ (ownPend s r).m.core.rf = s.m.core.rf ∧
    (ownPend s r).m.core.mem = s.m.core.mem ∧ (ownPend s r).m.core.eng = s.m.core.eng ∧ (ownPend s r).m.core.ctl.own = some r)

/-- 15 R371, R372, R374, 05 R133: a signal adds its count, saturating, and serves the waiters in order; a wait joins the list and its agent
issues no later bundle until it is granted; a try takes its count when the list is empty and the count suffices, and says
so. -/
def Obligations.SemaphoreWords : Prop :=
  ∀ (s s1 s2 : State) (d a b : BitVec 6) (x y : Dword) (p i : Nat), ReadsC a s x s1 → ReadsC b s1 y s2 → NamesSem s2 x p i →
    let c := s2.m.sem p i
    let n := (y.setWidth 32).toNat
    (Legal (.semsig a b) s → exec (.semsig a b) s = .next { s2 with m := s2.m.setSem p i (semSignal c n) } ∧
      (c.waiters = [] → (semSignal c n).count = min (c.count + n) 0xFFFFFFFF)) ∧
    (Legal (.semwait a b) s → ∃ t, exec (.semwait a b) s = .next t ∧ t.m.core.ctl.wait = .sem x.toNat p i n ∧
      t.m.sem p i = semJoin c s2.m.me n ∧
      (c.waiters = [] → n ≤ c.count → (semJoin c s2.m.me n).count = c.count - n ∧ s2.m.me ∈ (semJoin c s2.m.me n).granted)) ∧
    (∀ t, Legal (.semtry d a b) s → let ok := n = 0 ∨ (c.waiters = [] ∧ n ≤ c.count)
      WritesS d ⟨if ok then 1 else 0, false⟩ 1
        { s2 with m := s2.m.setSem p i (if ok then { c with count := c.count - n } else c) } t →
      exec (.semtry d a b) s = .next t)

/-- 15 R375: PREFG writes no register and no byte and never holds issue; where the task may read the page it fills the scalar
TLB with its translation, and a tag other than zero, a failed walk or a region that may not be read make it do nothing. -/
def Obligations.PrefetchOnlyFillsTheTlb : Prop :=
  ∀ (s s1 : State) (a : BitVec 6) (k : BitVec 3) (x : Dword), Legal (.prefg a k) s → ReadsC a s x s1 →
    let page := offOf x / 256 * 256
    (tagOfAddr x ≠ 0 → exec (.prefg a k) s = .next s1) ∧
    (∀ w m, tagOfAddr x = 0 → inSpace x 1 = true → translate s1.m s1.m.me s1.m.myPart 0 page accRead = (.error w, m) →
      exec (.prefg a k) s = .next s1) ∧
    (∀ pa m, tagOfAddr x = 0 → inSpace x 1 = true → translate s1.m s1.m.me s1.m.myPart 0 page accRead = (.ok pa, m) →
      exec (.prefg a k) s = .next (if s1.m.isTile = false ∨
        rightsOk s1.m s1.m.core.ctl.part s1.m.core.ctl.vf s1.m.myTask .read [(pa, 1)] = true then { s1 with m := m } else s1))

/-! ### Engines V and F -/

/-- 07 R195, 12 R291: a row is its lanes, lane 0 lowest: the row put together from 2,048 / w lanes shows each of them modulo 2^w,
and a row cut in lanes and put together is the row. -/
def Obligations.RowsAreTheirLanes : Prop :=
  ∀ (w : Nat), w ∈ [4, 8, 16, 32, 64] →
    (∀ (xs : List Nat) (i : Nat) (h : i < xs.length), xs.length = 2048 / w → laneAt w (rowOf w xs) i = xs[i] % 2 ^ w) ∧
    (∀ r : Row, rowOf w (lanes w (2048 / w) r) = r) ∧
    (∀ (r : Row) (i b : Nat), i < 2048 / w → b < w → (laneAt w r i).testBit b = r.getLsbD (w * i + b))

/-- 12 R295, R300, 16 R380: the flags of a vector word. With a poisoned source none changes; otherwise FFLAGS and SATF keep every bit
they have, FFLAGS gains the bits raised, SATF its bit when a lane saturated, and nothing else changes. -/
def Obligations.FlagsOnlyAccumulate : Prop :=
  ∀ (s : State) (ff : Nat) (sat : Bool), ff < 32 →
    FlagsRaised ff sat true s s ∧
    ∃ t, FlagsRaised ff sat false s t ∧ t.m.csr 0x000 = s.m.csr 0x000 ||| BitVec.ofNat 64 ff ∧
      t.m.csr 0x001 = s.m.csr 0x001 ||| (if sat then 1 else 0) ∧ SameBut s t [] [] [] [0x000, 0x001] fun _ => False

/-- 12 R292, R293, R299: rounding keeps a value that the format holds: every pattern that is not a NaN, read and rounded in any mode
without saturation of infinities, comes back with no flag; a NaN comes back canonical, with NV if it signals. -/
def Obligations.RoundingKeepsExactValues : Prop :=
  ∀ (t x : Nat) (m : RMode), 4 ≤ t → t ≤ 9 → x < 2 ^ typeWidth t →
    roundFl t ⟨m, false, false⟩ (unpack t x) =
      match unpack t x with
      | .nan s => (canonNaN t, if s then flagNV else 0)
      | _ => (x, 0)

/-- 16 R380-R383, R388, R400: the words of two source rows, lane by lane. On integer lanes the result is the low bits of the exact
sum, difference, product, of the lesser or greater lane or of the relation code, and no flag changes; on floating-point
lanes each lane is rounded once by FRM and the lanes' flags accumulate. Poison is the OR of the sources'.
16 R382, R389, R380: VFMA, VFMS and VSEL read the old destination as well. Integer lanes: D ± A × B modulo 2^w. Floating-point
lanes: one rounding of D ± A × B. VSEL, on lanes of any type: A where the old lane has a bit set, B elsewhere. -/
def Obligations.RowArithmeticWords : Prop :=
  ((∀ (s s1 s2 t : State) (d a b : BitVec 6) (x y : RowP) (i : Instr) (lat : Nat) (f : Nat → Nat → Nat → Int),
    (i, lat, f) ∈ vInt2Of d a b → Legal i s → s.old.isTile = true → isInt (typeOf d s) = true → ReadsV a s x s1 → ReadsV b s1 y s2 →
    let w := widthOf d s
    WritesV d ⟨intRow w (List.zipWith (f (typeOf d s)) (lanesBy w x) (lanesBy w y)), x.p || y.p⟩ lat s2 t →
    exec i s = .next t ∧ SameBut s t [] [] (dstRow d s) []
      fun n => OnPort s false a.toNat n ∨ OnPort s false b.toNat n ∨ OnPort s false d.toNat n) ∧
  (∀ (s s1 s2 s3 t : State) (d a b : BitVec 6) (x y : RowP) (i : Instr) (lat : Nat) (f : Nat → FCtl → Nat → Nat → Nat × Nat),
    (i, lat, f) ∈ vFl2Of d a b → Legal i s → s.old.isTile = true → isFl (typeOf d s) = true →
    (i = .fscale d a b → FreeF s) → ReadsV a s x s1 → ReadsV b s1 y s2 → let w := widthOf d s
    let rs := List.zipWith (f (typeOf d s) (frmOf s)) (lanesBy w x) (lanesBy w y)
    FlagsRaised (orAll rs) false (x.p || y.p) s2 s3 → WritesV d ⟨rowOf w (rs.map Prod.fst), x.p || y.p⟩ lat s3 t →
    exec i s = .next t ∧ SameBut s t [] [] (dstRow d s) [0x000, 0x001]
      fun n => OnPort s false a.toNat n ∨ OnPort s false b.toNat n ∨ OnPort s false d.toNat n)) ∧
  (∀ (s s1 s2 s3 : State) (d a b : BitVec 6) (x y o : RowP), s.old.isTile = true → ReadsV a s x s1 → ReadsV b s1 y s2 →
    ReadsOld d s2 o s3 → let w := widthOf d s
    let p := x.p || y.p || o.p
    let port := fun n => OnPort s false a.toNat n ∨ OnPort s false b.toNat n ∨ OnPort s false d.toNat n
    let ls := ((lanesBy w x).zip (lanesBy w y)).zip (lanesBy w o)
    (∀ (i : Instr) (sub : Bool) (t : State), (i, sub) ∈ [(Instr.vfma d a b, false), (.vfms d a b, true)] → Legal i s →
      isInt (typeOf d s) = true →
      WritesV d ⟨intRow w (ls.map fun l => (l.2 : Int) + (if sub then -1 else 1) * (l.1.1 * l.1.2)), p⟩ 4 s3 t →
      exec i s = .next t ∧ SameBut s t [] [] (dstRow d s) [] port) ∧
    (∀ (i : Instr) (sub : Bool) (s4 t : State), (i, sub) ∈ [(Instr.vfma d a b, false), (.vfms d a b, true)] → Legal i s →
      isFl (typeOf d s) = true → let rs := ls.map fun l => laneFma (typeOf d s) (frmOf s) sub l.1.1 l.1.2 l.2
      FlagsRaised (orAll rs) false p s3 s4 → WritesV d ⟨rowOf w (rs.map Prod.fst), p⟩ 4 s4 t →
      exec i s = .next t ∧ SameBut s t [] [] (dstRow d s) [0x000, 0x001] port) ∧
    (∀ t, Legal (.vsel d a b) s → WritesV d ⟨rowOf w (ls.map fun l => if l.2 = 0 then l.1.2 else l.1.1), p⟩ 1 s3 t →
      exec (.vsel d a b) s = .next t ∧ SameBut s t [] [] (dstRow d s) [] port))

/-- 16 R384-R387, R390, R399, R401: the words of one source. Integer lanes (absolute value, negation, shifts), floating-point
lanes (sign, special functions, class, reciprocal and roots, these in 24 cycles on FP64), whole rows (VMOV, VNOT, VZERO and
the three bitwise words), VRSHR with one row or a pair, and the rows filled from a scalar.
16 R387: the rounding shift: Floor((x + Half) / 2^k), ties toward +∞. With N = 0 each lane of the row; with N = 1 the lanes of
twice the width of a pair of rows, saturated, SATF raised by a lane that saturates. -/
def Obligations.OneRowWords : Prop :=
  ((∀ (s s1 t : State) (d a k : BitVec 6) (x : RowP) (i : Instr) (lat : Nat) (f : Nat → Nat → Int),
    (i, lat, f) ∈ vInt1Of d a k → Legal i s → s.old.isTile = true → isInt (typeOf d s) = true → ReadsV a s x s1 →
    WritesV d ⟨intRow (widthOf d s) ((lanesBy (widthOf d s) x).map (f (typeOf d s))), x.p⟩ lat s1 t →
    exec i s = .next t ∧ SameBut s t [] [] (dstRow d s) [] fun n => OnPort s false a.toNat n ∨ OnPort s false d.toNat n) ∧
  (∀ (s s1 s2 t : State) (d a : BitVec 6) (x : RowP) (i : Instr) (lat : Nat) (f : Nat → FCtl → Nat → Nat × Nat),
    (i, lat, f) ∈ vFl1Of d a → Legal i s → s.old.isTile = true → isFl (typeOf d s) = true →
    (i ≠ .vabs d a → i ≠ .vneg d a → FreeF s) → ((i = .frcp d a ∨ i = .frsq d a ∨ i = .fsqrt d a) → typeOf d s ≠ 9) → ReadsV a s x s1 →
    let rs := (lanesBy (widthOf d s) x).map (f (typeOf d s) (frmOf s))
    FlagsRaised (orAll rs) false x.p s1 s2 → WritesV d ⟨rowOf (widthOf d s) (rs.map Prod.fst), x.p⟩ lat s2 t →
    exec i s = .next t ∧ SameBut s t [] [] (dstRow d s) [0x000, 0x001]
      fun n => OnPort s false a.toNat n ∨ OnPort s false d.toNat n) ∧
  (∀ (s s0 s1 s2 t : State) (d a : BitVec 6) (x : RowP) (i : Instr) (f : Nat → FCtl → Nat → Nat × Nat),
    (i, f) ∈ [(Instr.frcp d a, laneRcp), (.frsq d a, fun t _ => laneSpecial .rsq t), (.fsqrt d a, laneSqrt)] → Legal i s →
    s.old.isTile = true → typeOf d s = 9 → FreeF s → s.bundle ≠ none →
    s0 = { s with m := s.m.modCtl fun c => { c with rdy := SMap.set (fun _ => 0) c.rdy rdyF (c.cyc + 4) } } → ReadsV a s0 x s1 →
    let rs := (lanesBy 64 x).map (f 9 (frmOf s))
    FlagsRaised (orAll rs) false x.p s1 s2 → WritesV d ⟨rowOf 64 (rs.map Prod.fst), x.p⟩ 24 s2 t →
    exec i s = .next t ∧ SameBut s t [] [] (dstRow d s) [0x000, 0x001]
      fun n => OnPort s false a.toNat n ∨ OnPort s false d.toNat n) ∧
  (∀ (s s1 t : State) (d a : BitVec 6) (x : RowP) (i : Instr) (v : Row), s.old.isTile = true →
    (i, v) ∈ [(Instr.vmov d a, x.v), (.vnot d a, ~~~x.v)] → Legal i s → ReadsV a s x s1 → WritesV d ⟨v, x.p⟩ 1 s1 t →
    exec i s = .next t ∧ SameBut s t [] [] (dstRow d s) [] fun n => OnPort s false a.toNat n ∨ OnPort s false d.toNat n) ∧
  (∀ (s s1 s2 t : State) (d a b : BitVec 6) (x y : RowP) (i : Instr) (f : Row → Row → Row), (i, f) ∈ vBits2Of d a b → Legal i s →
    ReadsV a s x s1 → ReadsV b s1 y s2 → WritesV d ⟨f x.v y.v, x.p || y.p⟩ 1 s2 t →
    exec i s = .next t ∧ SameBut s t [] [] (dstRow d s) []
      fun n => OnPort s false a.toNat n ∨ OnPort s false b.toNat n ∨ OnPort s false d.toNat n) ∧
  (∀ (s t : State) (d : BitVec 6), Legal (.vzero d) s → WritesV d ⟨0, false⟩ 1 s t →
    exec (.vzero d) s = .next t ∧ SameBut s t [] [] (dstRow d s) [] (OnPort s false d.toNat)) ∧
  (∀ (s s1 t : State) (d a : BitVec 6) (x : SReg) (i : Instr) (step : Nat), (i, step) ∈ [(Instr.vbcast d a, 0), (.viota d a, 1)] →
    Legal i s → ReadsS a s x s1 →
    WritesV d ⟨rowOf (widthOf d s) ((List.range (2048 / widthOf d s)).map fun n => x.v.toNat + step * n), x.p⟩ 1 s1 t →
    exec i s = .next t ∧ SameBut s t [] [] (dstRow d s) [] fun n => OnPort s true a.toNat n ∨ OnPort s false d.toNat n)) ∧
  (let rnd := fun (x : Int) (k : Nat) => (x + if k = 0 then 0 else 2 ^ (k - 1)) / (2 ^ k : Int)
  (∀ (s s1 t : State) (d a : BitVec 6) (k : BitVec 5) (x : RowP), Legal (.vrshr d a 0 k) s → s.old.isTile = true → ReadsV a s x s1 →
    WritesV d ⟨intRow (widthOf d s) ((lanesBy (widthOf d s) x).map fun v => rnd (laneInt (typeOf d s) v) k.toNat), x.p⟩ 4 s1 t →
    exec (.vrshr d a 0 k) s = .next t ∧
      SameBut s t [] [] (dstRow d s) [] fun n => OnPort s false a.toNat n ∨ OnPort s false d.toNat n) ∧
  (∀ (s s1 s2 s3 t : State) (d a : BitVec 6) (k : BitVec 5) (x y : RowP), Legal (.vrshr d a 1 k) s → s.old.isTile = true →
    ReadsV a s x s1 → ReadsV (a + 1) s1 y s2 → let ty := typeOf d s
    let w := typeWidth ty
    let vs := (lanesBy (2 * w) x ++ lanesBy (2 * w) y).map fun v =>
      rnd (if isSigned ty then (BitVec.ofNat (2 * w) v).toInt else v) k.toNat
    FlagsRaised 0 (vs.any (outside ty)) (x.p || y.p) s2 s3 →
    WritesV d ⟨intRow w (vs.map (clamped ty)), x.p || y.p⟩ 4 s3 t →
    exec (.vrshr d a 1 k) s = .next t ∧
      SameBut s t [] [] (dstRow d s) [0x001] fun n => OnPort s false a.toNat n ∨ OnPort s false d.toNat n))


/-- 16 R390-R392: VEXT and VINS take lane B[7:0] mod L; VPERM reads the lanes that an index row names, zero beyond the row; a
slide takes lanes from the row and its neighbour (or zeros). A count or index that is poisoned raises the poison trap, and so
does nothing here. -/
def Obligations.LaneMoves : Prop :=
  (∀ (s s1 s2 t : State) (d a b : BitVec 6) (k : Dword) (x : RowP), Legal (.vext d a b) s → ReadsC b s k s1 → ReadsV a s1 x s2 →
    let w := widthOf a s
    let v := laneAt w x.v (k.toNat % 256 % (2048 / w))
    WritesS d ⟨if typeOf a s ≤ 2 then (BitVec.ofNat w v).signExtend 64 else BitVec.ofNat 64 v, x.p⟩ 3 s2 t →
    exec (.vext d a b) s = .next t ∧ SameBut s t [d.toNat] [] [] []
      fun n => OnPort s true b.toNat n ∨ OnPort s false a.toNat n ∨ OnPort s true d.toNat n) ∧
  (∀ (s s1 s2 s3 t : State) (d a b : BitVec 6) (k : Dword) (x : SReg) (o : RowP), Legal (.vins d a b) s → ReadsC b s k s1 →
    ReadsS a s1 x s2 → ReadsOld d s2 o s3 → let w := widthOf d s
    WritesV d ⟨laneSet w o (k.toNat % 256 % (2048 / w)) [x.v.toNat], o.p || x.p⟩ 3 s3 t →
    exec (.vins d a b) s = .next t ∧ SameBut s t [] [] (dstRow d s) []
      fun n => OnPort s true b.toNat n ∨ OnPort s true a.toNat n ∨ OnPort s false d.toNat n) ∧
  (∀ (s s1 s2 t : State) (d a b : BitVec 6) (x y : RowP), Legal (.vperm d a b) s → ReadsV a s x s1 → ReadsV b s1 y s2 →
    let w := widthOf d s
    WritesV d ⟨rowOf w ((lanesBy w y).map fun i => (lanesBy w x).getD i 0), x.p || y.p⟩ 3 s2 t →
    exec (.vperm d a b) s = .next t ∧ SameBut s t [] [] (dstRow d s) []
      fun n => OnPort s false a.toNat n ∨ OnPort s false b.toNat n ∨ OnPort s false d.toNat n) ∧
  (∀ (s s0 s1 s2 t : State) (d a b : BitVec 6) (r z : BitVec 1) (k4 : BitVec 4) (k : Nat) (up zero : Bool) (x f : RowP) (i : Instr),
    ((∃ v, i = .vslide d a b ∧ ReadsC b s v s0 ∧ k = v.toNat % 256 ∧ up = v.getLsbD 8 ∧ zero = v.getLsbD 9) ∨
     (i = .vslidei d a r z k4 ∧ s0 = s ∧ k = k4.toNat + 1 ∧ up = (r == 1) ∧ zero = (z == 1))) →
    Legal i s → ReadsV a s0 x s1 → (zero = true → f = ⟨0, false⟩ ∧ s2 = s1) →
    (zero = false → a.toNat ≤ 58 ∧ ReadsV (a + 1) s1 f s2) → let w := widthOf d s
    let n := 2048 / w
    WritesV d ⟨rowOf w ((List.range n).map (slidLane n up k (lanesBy w x) (lanesBy w f))), x.p || f.p⟩ 3 s2 t →
    exec i s = .next t ∧ SameBut s t [] [] (dstRow d s) []
      fun n => OnPort s true b.toNat n ∨ OnPort s false a.toNat n ∨ OnPort s false d.toNat n) ∧
  (∀ (s s1 : State) (d a b : BitVec 6) (v : Dword), Legal (.vslide d a b) s → ReadsC b s v s1 → v.getLsbD 9 = false → 58 < a.toNat →
    exec (.vslide d a b) s = .next (stopState (.trap 0x01 s.wordBits) s)) ∧
  (∀ (s s1 : State) (d a b : BitVec 6) (v : Dword) (i : Instr), i ∈ [Instr.vext d a b, .vins d a b, .vslide d a b] → Legal i s →
    ReadsS b s ⟨v, true⟩ s1 → exec i s = .next (stopState (.trap 0x04 s.wordBits) s))

/-- 16 R393, R394, 12 R297, R298: VRED reduces a row to a scalar: integer sums exactly, least and greatest lanes as numbers, and
floating-point lanes in the pairwise tree, each node rounded. VMAC2 and VDOT4 add the exact products to each INT32 lane of
the old destination and saturate once. -/
def Obligations.ReductionsAndDotProducts : Prop :=
  (∀ (s s1 t : State) (d a : BitVec 6) (fn : BitVec 2) (x : RowP), Legal (.vred d a fn) s → s.old.isTile = true → ReadsV a s x s1 →
    isInt (typeOf a s) = true →
    let vs := (lanesBy (widthOf a s) x).map (laneInt (typeOf a s))
    let v := if fn = 0 then vs.sum else if fn = 1 then vs.foldl min (vs.headD 0) else vs.foldl max (vs.headD 0)
    WritesS d ⟨BitVec.ofInt 64 v, x.p⟩ 10 s1 t →
    exec (.vred d a fn) s = .next t ∧
      SameBut s t [d.toNat] [] [] [] fun n => OnPort s false a.toNat n ∨ OnPort s true d.toNat n) ∧
  (∀ (s s1 s2 t : State) (d a : BitVec 6) (fn : BitVec 2) (x : RowP), Legal (.vred d a fn) s → s.old.isTile = true →
    ReadsV a s x s1 → isFl (typeOf a s) = true →
    let ty := typeOf a s
    let c : FCtl := { frmOf s with ftz := false }
    let z := treeOf (if fn = 0 then laneAdd ty c else laneMinMax ty c (fn == 2)) (Nat.log2 (2048 / typeWidth ty)) (lanesBy (typeWidth ty) x)
    FlagsRaised z.2 false x.p s1 s2 → WritesS d ⟨BitVec.ofNat 64 z.1, x.p⟩ 10 s2 t →
    exec (.vred d a fn) s = .next t ∧
      SameBut s t [d.toNat] [] [] [0x000, 0x001] fun n => OnPort s false a.toNat n ∨ OnPort s true d.toNat n) ∧
  (∀ (s s1 s2 s3 s4 t : State) (d a b : BitVec 6) (x y o : RowP) (i : Instr) (w n : Nat),
    (i, w, n) ∈ [(Instr.vmac2 d a b, 16, 2), (.vdot4 d a b, 8, 4)] → Legal i s → s.old.isTile = true → ReadsV a s x s1 →
    ReadsV b s1 y s2 → ReadsOld d s2 o s3 →
    let sx := fun (r : RowP) j => (BitVec.ofNat w ((lanesBy w r).getD j 0)).toInt
    let vs := (List.range 64).map fun l => (BitVec.ofNat 32 ((lanesBy 32 o).getD l 0)).toInt +
      ((List.range n).map fun j => sx x (n * l + j) * sx y (n * l + j)).sum
    let p := x.p || y.p || o.p
    FlagsRaised 0 (vs.any (outside 2)) p s3 s4 → WritesV d ⟨intRow 32 (vs.map (clamped 2)), p⟩ 4 s4 t →
    exec i s = .next t ∧ SameBut s t [] [] (dstRow d s) [0x001]
      fun n => OnPort s false a.toNat n ∨ OnPort s false b.toNat n ∨ OnPort s false d.toNat n)

/-- 16 R395, R396, 12 R299, R310: VCVT converts lane by lane: all lanes at one width, a part of the destination when it narrows (the
others keep the old row), a part of the source when it widens. VCVTS rounds 64 FP32 lanes by the random lanes of the bundle,
which advance by 64.
16 R397, R398: VTYPE writes one tag and VWIN one window register; every other tag, register, row and byte is as before. -/
def Obligations.ConversionAndTagWords : Prop :=
  ((∀ (s s1 s2 s3 t : State) (d a : BitVec 6) (ty : BitVec 4) (h : BitVec 2) (x o : RowP), Legal (.vcvt d a ty h) s →
    s.old.isTile = true → ReadsV a s x s1 → let ws := typeWidth ty.toNat
    let wd := widthOf d s
    let cv := convert ty.toNat (typeOf d s) (frmOf s)
    let port := fun n => OnPort s false a.toNat n ∨ OnPort s false d.toNat n
    (wd < ws → ReadsOld d s1 o s2 → let rs := (lanesBy ws x).map cv
      FlagsRaised (orAll (rs.map fun r => (0, r.2.1))) (rs.any fun r => r.2.2) (x.p || o.p) s2 s3 →
      WritesV d ⟨laneSet wd o (h.toNat * (2048 / ws)) (rs.map Prod.fst), x.p || o.p⟩ 4 s3 t →
      exec (.vcvt d a ty h) s = .next t ∧ SameBut s t [] [] (dstRow d s) [0x000, 0x001] port) ∧
    (ws ≤ wd → s2 = s1 → let rs := (((lanesBy ws x).drop (h.toNat * (2048 / wd))).take (2048 / wd)).map cv
      FlagsRaised (orAll (rs.map fun r => (0, r.2.1))) (rs.any fun r => r.2.2) x.p s2 s3 →
      WritesV d ⟨rowOf wd (rs.map Prod.fst), x.p⟩ 4 s3 t →
      exec (.vcvt d a ty h) s = .next t ∧ SameBut s t [] [] (dstRow d s) [0x000, 0x001] port)) ∧
  (∀ (s s1 s2 s3 t : State) (d a : BitVec 6) (h : BitVec 2) (x o : RowP), Legal (.vcvts d a h) s → s.old.isTile = true →
    ReadsV a s x s1 → ReadsOld d s1 o s2 → let w := widthOf d s
    let rs := (List.range 64).map fun j => stochLane (typeOf d s) (frmOf s).sf (rngLane s j >>> 16) ((lanesBy 32 x).getD j 0)
    FlagsRaised (orAll rs) false (x.p || o.p) s2 s3 →
    WritesV d ⟨laneSet w o (64 * h.toNat) (rs.map Prod.fst), x.p || o.p⟩ 4 (withAdv s3 64) t →
    exec (.vcvts d a h) s = .next t ∧ SameBut s t [] [] (dstRow d s) [0x000, 0x001]
      fun n => OnPort s false a.toNat n ∨ OnPort s false d.toNat n)) ∧
  ((∀ (s : State) (k : BitVec 5) (ty : BitVec 4), Legal (.vtype k ty) s → s.m.isTile = true →
    ∃ t, exec (.vtype k ty) s = .next t ∧ t.m.tagOf k.toNat = ty.toNat ∧
      (∀ j, j < 32 → j ≠ k.toNat → t.m.tagOf j = s.m.tagOf j) ∧
      SameBut s t [] [] [] [if k.toNat < 16 then 0x014 else 0x015] fun _ => False) ∧
  (∀ (s : State) (r : BitVec 2) (v : BitVec 5), Legal (.vwin r v) s → s.m.isTile = true →
    ∃ t, exec (.vwin r v) s = .next t ∧ t.m.csr (0x010 + r.toNat) = v.setWidth 64 ∧
      SameBut s t [] [] [] [0x010 + r.toNat] fun _ => False))

/-- 16 R402-R405, 12 R309: FMINMAXN writes the lesser and the greater numbers of the lanes to two rows; RNG writes the high bits of the
random lanes, which advance; VPART the lanes that are not zero, then those that are, and their count; VTOPK the k highest of
each group.
16 R406-R408, 12 R303: MXQ quantises two blocks of 32 FP32 lanes to codes and scales of an MX row, every other byte as before;
MXD gives 64 FP32 lanes from 64 codes and the scales of their blocks. -/
def Obligations.ListRandomAndScaledWords : Prop :=
  ((∀ (s s1 s2 s3 s4 s5 t : State) (d a b : BitVec 6) (x y : RowP), Legal (.fminmaxn d a b) s → s.old.isTile = true → FreeF s →
    ReadsV a s x s1 → ReadsV b s1 y s2 → let ty := typeOf d s
    let w := typeWidth ty
    let pick := fun (mx : Bool) (p q : Nat) =>
      let u := unpack ty p
      let v := unpack ty q
      if u.isNaN then (if v.isNaN then canonNaN ty else q) else if v.isNaN then p
      else if mx then (if flLt true u v then q else p) else (if flLt true v u then q else p)
    let row := fun mx => rowOf w (List.zipWith (pick mx) (lanesBy w x) (lanesBy w y))
    let nv := if (lanesBy w x ++ lanesBy w y).any fun p => (unpack ty p).isSig then flagNV else 0
    FlagsRaised nv false (x.p || y.p) s2 s3 → FlagsRaised nv false (x.p || y.p) s3 s4 →
    WritesV d ⟨row false, x.p || y.p⟩ 2 s4 s5 → WritesV (d + 1) ⟨row true, x.p || y.p⟩ 2 s5 t →
    exec (.fminmaxn d a b) s = .next t ∧ SameBut s t [] [] (dstRow d s ++ dstRow (d + 1) s) [0x000, 0x001]
      fun n => OnPort s false a.toNat n ∨ OnPort s false b.toNat n) ∧
  (∀ (s t : State) (d : BitVec 6), Legal (.rng d) s → s.old.isTile = true → FreeF s → let w := widthOf d s
    WritesV d ⟨rowOf w ((List.range (2048 / w)).map fun i => rngLane s i >>> (32 - w)), false⟩ 4 (withAdv s (2048 / w)) t →
    exec (.rng d) s = .next t ∧ SameBut s t [] [] (dstRow d s) [] (OnPort s false d.toNat)) ∧
  (∀ (s s1 s2 t : State) (d a b : BitVec 6) (x : RowP), Legal (.vpart d a b) s → s.old.isTile = true → FreeF s → ReadsV a s x s1 →
    let ls := lanesBy (widthOf a s) x
    let yes := (List.range ls.length).filter fun i => ls.getD i 0 ≠ 0
    let no := (List.range ls.length).filter fun i => ls.getD i 0 = 0
    WritesV d ⟨rowOf (widthOf d s) (yes ++ no), x.p⟩ 8 s1 s2 → WritesS b ⟨BitVec.ofNat 64 yes.length, x.p⟩ 8 s2 t →
    exec (.vpart d a b) s = .next t ∧ SameBut s t [b.toNat] [] (dstRow d s) []
      fun n => OnPort s false a.toNat n ∨ OnPort s false d.toNat n ∨ OnPort s true b.toNat n) ∧
  (∀ (s s1 t : State) (d a : BitVec 6) (k g : BitVec 3) (x : RowP), Legal (.vtopk d a k g) s → s.old.isTile = true → FreeF s →
    ReadsV a s x s1 → let w := widthOf a s
    WritesV d ⟨rowOf w (topLanes (typeOf a s) (k.toNat + 1) (2 ^ g.toNat) (lanesBy w x)), x.p⟩ 8 s1 t →
    exec (.vtopk d a k g) s = .next t ∧ SameBut s t [] [] (dstRow d s) []
      fun n => OnPort s false a.toNat n ∨ OnPort s false d.toNat n)) ∧
  ((∀ (s s1 s2 s3 t : State) (d a : BitVec 6) (h : BitVec 2) (x o : RowP), Legal (.mxq d a h) s → FreeF s → ReadsV a s x s1 →
    ReadsOld d s1 o s2 → let b0 := mxBlock ((lanesBy 32 x).take 32)
    let b1 := mxBlock ((lanesBy 32 x).drop 32)
    let p := x.p || o.p
    let codes : RowP := ⟨laneSet 4 o (64 * h.toNat) (b0.2.1 ++ b1.2.1), p⟩
    FlagsRaised (if b0.2.2 || b1.2.2 then flagNX else 0) false p s2 s3 →
    WritesV d ⟨laneSet 8 codes (128 + 2 * h.toNat) [b0.1, b1.1], p⟩ 6 s3 t →
    exec (.mxq d a h) s = .next t ∧ SameBut s t [] [] (dstRow d s) [0x000, 0x001]
      fun n => OnPort s false a.toNat n ∨ OnPort s false d.toNat n) ∧
  (∀ (s s1 s2 t : State) (d a : BitVec 6) (h : BitVec 2) (x : RowP), Legal (.mxd d a h) s → FreeF s → ReadsV a s x s1 →
    let rs := (List.range 64).map fun i => mxdLane ((lanesBy 4 x).getD (64 * h.toNat + i) 0) ((lanesBy 8 x).getD (128 + 2 * h.toNat + i / 32) 0)
    FlagsRaised (orAll (rs.map fun r => (0, r.2.1))) (rs.any fun r => r.2.2) x.p s1 s2 → WritesV d ⟨rowOf 32 (rs.map Prod.fst), x.p⟩ 4 s2 t →
    exec (.mxd d a h) s = .next t ∧ SameBut s t [] [] (dstRow d s) [0x000, 0x001]
      fun n => OnPort s false a.toNat n ∨ OnPort s false d.toNat n))


/-! ### Engine M -/

/-- 17 R413-R415: the words that configure the matrix engine write their fields of MCFG and no other bit; MCFG.W with a tag other
than W, or a bit set outside [21:8], traps.
17 R424: MWAIT lets its bundle go on when the operations it waits for have completed, and otherwise makes it wait (in a
stamped bundle it traps); MSTAT writes how many operations are queued and which buffers have a fill pending. -/
def Obligations.MatrixConfigurationAndStatus : Prop :=
  ((∀ (s : State) (a b : BitVec 4), Legal (.mcfgT a b) s → s.m.isTile = true → ∃ t, exec (.mcfgT a b) s = .next t ∧
    (∀ j, j < 64 → (t.m.csr 0x01A).getLsbD j =
      if j < 4 then a.getLsbD j else if j < 8 then b.getLsbD (j - 4) else (s.m.csr 0x01A).getLsbD j) ∧
    SameBut s t [] [] [] [0x01A] fun _ => False) ∧
  (∀ (s s1 : State) (a : BitVec 6) (x : Dword), Legal (.mcfgW a) s → s.m.isTile = true → ReadsC a s x s1 →
    (tagOfAddr x = tagW ∧ x.extractLsb' 22 38 = 0 ∧ x.extractLsb' 0 8 = 0 → ∃ t, exec (.mcfgW a) s = .next t ∧
      (∀ j, j < 64 → (t.m.csr 0x01A).getLsbD j = if 32 ≤ j ∧ j < 54 then x.getLsbD (j - 32) else (s.m.csr 0x01A).getLsbD j) ∧
      SameBut s t [] [] [] [0x01A] (OnPort s true a.toNat)) ∧
    (¬(tagOfAddr x = tagW ∧ x.extractLsb' 22 38 = 0 ∧ x.extractLsb' 0 8 = 0) →
      exec (.mcfgW a) s = .next (stopState (.trap 0x0B x) s))) ∧
  (∀ (s : State) (r : BitVec 6) (c : BitVec 7), Legal (.mmask r c) s → s.m.isTile = true → ∃ t, exec (.mmask r c) s = .next t ∧
    (∀ j, j < 64 → (t.m.csr 0x01A).getLsbD j = if 8 ≤ j ∧ j < 14 then r.getLsbD (j - 8)
      else if 16 ≤ j ∧ j < 23 then c.getLsbD (j - 16) else (s.m.csr 0x01A).getLsbD j) ∧
    SameBut s t [] [] [] [0x01A] fun _ => False)) ∧
  ((∀ (s : State) (k : BitVec 5) (al : BitVec 1), Legal (.mwait k al) s → let e := s.old.core.eng
    let free := if al = 1 then e.mq = [] ∧ e.fills = [] else ∀ o ∈ e.mq, o.tile ≠ k.toNat
    (free → exec (.mwait k al) s = .next s) ∧
    (¬free → exec (.mwait k al) s = .next (waits s))) ∧
  (∀ (s t : State) (d : BitVec 6), Legal (.mstat d) s → let e := s.old.core.eng
    let pend := fun n => if (e.fills.any fun f => f.buf == n) then 1 else 0
    WritesS d ⟨BitVec.ofNat 64 (e.mq.length + 8 * pend 0 + 16 * pend 1), false⟩ 1 s t →
    exec (.mstat d) s = .next t ∧ SameBut s t [d.toNat] [] [] [] (OnPort s true d.toNat)))

/-- 17 R416-R418: a fill word issues a fill of its latch buffer from 32 addresses of S or A, a stride apart or named by the index row;
it ends no sooner than Table 17-5 allows. An address that carries another tag, an address or a stride that is no multiple of 32,
or a row outside the space traps with 0x0B.
17 R420-R423, R195: the words that queue an operation of engine M. It joins the queue with what it latches at issue; a step
sets the tag of its tile and moves WPTR past its operand, a drain reserves 32 rows of its result queue, MZERO and MFILL set
the tag. A queue of four makes the bundle wait; an operand beyond W, a profile above 7, a queue that is not the drain's and a
bad transfer address trap. -/
def Obligations.MatrixIssueWords : Prop :=
  ((∀ (s s1 s2 : State) (n : BitVec 1) (a b : BitVec 6) (x : Dword) (i : Instr) (offs : List Int), s.m.isTile = true → ReadsC a s x s1 →
    ((∃ y, i = .mlda n a b ∧ ReadsC b s1 y s2 ∧ y.toNat % 32 = 0 ∧ offs = (List.range 32).map fun (r : Nat) => (r : Int) * y.toInt) ∨
     (∃ v, i = .mgath n a b ∧ ReadsV b s1 ⟨v, false⟩ s2 ∧
       offs = (List.range 32).map fun (r : Nat) => (laneAt (widthOf b s) v r * (if atypeOf (mcfgOf s) = 10 then 256 else 128) : Int))) →
    Legal i s → let bytes := if atypeOf (mcfgOf s) = 10 then 136 else 128
    let size : Int := if tagOfAddr x = tagS then 0x80000 else 0x400000
    let tagOk := (tagOfAddr x = tagS ∨ tagOfAddr x = tagA) ∧ x.toNat % 32 = 0
    let inside := ∀ o ∈ offs, 0 ≤ (offOf x : Int) + o ∧ (offOf x : Int) + o + bytes ≤ size
    (tagOk → inside → s.old.core.eng.fills.length < 3 → ∃ f t, exec i s = .next t ∧
      f.buf = n.toNat ∧ f.atype = atypeOf (mcfgOf s) ∧ f.seq = s2.m.core.eng.seq ∧
      f.addrs = offs.map (fun o => tagOfAddr x * 2 ^ 60 + ((offOf x : Int) + o).toNat) ∧
      s.old.core.ctl.cyc + (if tagOfAddr x = tagS then 68 else 36) ≤ f.fin ∧
      t = withEng s2 fun e => { e with seq := e.seq + 1, fills := e.fills ++ [f] }) ∧
    (¬tagOk → exec i s = .next (stopState (.trap 0x0B x) s)) ∧
    (tagOk → ¬inside → ∃ v, exec i s = .next (stopState (.trap 0x0B v) s))) ∧
  (∀ (s s1 s2 : State) (n : BitVec 1) (a b : BitVec 6) (x y : Dword), ReadsC a s x s1 → Legal (.mlda n a b) s → ReadsC b s1 y s2 →
    y.toNat % 32 ≠ 0 → exec (.mlda n a b) s = .next (stopState (.trap 0x0B x) s))) ∧
  ((∀ (s : State) (k : BitVec 5) (n : BitVec 1) (z : Bool), let i := if z then Instr.mmaz k n else .mma k n
    let cfg := mcfgOf s
    let ty := atypeOf cfg
    Legal i s → s.m.isTile = true →
    (7 < profOf s → exec i s = .next (stopState (.trap 0x01 s.wordBits) s)) ∧
    (profOf s ≤ 7 → 2 ^ 22 < wptrOf cfg + stepFoot ty →
      exec i s = .next (stopState (.trap 0x0B (BitVec.ofNat 64 (tagW * 2 ^ 60 + wptrOf cfg))) s)) ∧
    (profOf s ≤ 7 → wptrOf cfg + stepFoot ty ≤ 2 ^ 22 → s.old.core.eng.mq.length < 4 → ∃ o t, exec i s = .next t ∧
      IsOp o (if z then 1 else 0) k.toNat n.toNat cfg (profOf s) ty 0
        (s.stamped && s.old.core.eng.fills.any fun f => f.buf == n.toNat) ∧
      t.m.core.eng.mq = s.m.core.eng.mq ++ [o] ∧ t.m.tagOf k.toNat = accType ty ∧
      wptrOf (t.m.csr 0x01A) = (wptrOf cfg + stepFoot ty) % 2 ^ 22 ∧
      SameBut (withEng s fun e => { e with mq := e.mq ++ [o], seq := e.seq + 1 }) t [] [] []
        [if k.toNat < 16 then 0x014 else 0x015, 0x01A] fun _ => False)) ∧
  (∀ (s : State) (k : BitVec 5) (n : BitVec 4), Legal (.mdrain k n) s → let q := s.m.hq n.toNat
    let ok := q.bound = true ∧ q.prod = 9 ∧ q.items.length + q.resv + 32 ≤ hqDepth n.toNat
    (¬ok → exec (.mdrain k n) s = .next (stopState (.trap 0x07 s.wordBits) s)) ∧
    (ok → s.old.core.eng.mq.length < 4 → ∃ o t, exec (.mdrain k n) s = .next t ∧
      IsOp o 2 k.toNat n.toNat 0 0 0 0 false ∧ t.m.hq n.toNat = { q with resv := q.resv + 32 } ∧
      SameBut (withEng s fun e => { e with mq := e.mq ++ [o], seq := e.seq + 1 }) t [] [] [] [] (· = n.toNat))) ∧
  (∀ (s : State) (k : BitVec 5) (ty : BitVec 4), Legal (.mzero k ty) s → s.m.isTile = true → s.old.core.eng.mq.length < 4 →
    ∃ o t, exec (.mzero k ty) s = .next t ∧ IsOp o 3 k.toNat 0 0 0 ty.toNat 0 false ∧ t.m.tagOf k.toNat = ty.toNat ∧
      SameBut (withEng s fun e => { e with mq := e.mq ++ [o], seq := e.seq + 1 }) t [] [] []
        [if k.toNat < 16 then 0x014 else 0x015] fun _ => False) ∧
  (∀ (s s1 : State) (k : BitVec 5) (a : BitVec 6) (ty : BitVec 4) (x : Dword) (i : Instr), i ∈ [Instr.mspill k a, .mfill k a ty] →
    Legal i s → s.m.isTile = true → ReadsC a s x s1 →
    let ok := (tagOfAddr x = tagS ∨ tagOfAddr x = 0) ∧ x.toNat % 256 = 0 ∧ inSpace x 8192 = true
    (¬ok → exec i s = .next (stopState (.trap 0x0B x) s)) ∧
    (ok → s.old.core.eng.mq.length < 4 → ∃ o t, exec i s = .next t ∧
      IsOp o (if i = .mspill k a then 4 else 5) k.toNat 0 0 0 (if i = .mspill k a then 0 else ty.toNat) x false ∧
      (i = .mfill k a ty → t.m.tagOf k.toNat = ty.toNat) ∧
      SameBut (withEng s1 fun e => { e with mq := e.mq ++ [o], seq := e.seq + 1 }) t [] [] []
        (if i = .mspill k a then [] else [if k.toNat < 16 then 0x014 else 0x015]) fun _ => False)) ∧
  (∀ (s : State) (i : Instr), (∃ k n, i = .mma k n ∨ i = .mmaz k n) ∨ (∃ k ty, i = .mzero k ty) → Legal i s →
    (∀ k n, i = .mma k n ∨ i = .mmaz k n → profOf s ≤ 7 ∧ wptrOf (mcfgOf s) + stepFoot (atypeOf (mcfgOf s)) ≤ 2 ^ 22) →
    4 ≤ s.old.core.eng.mq.length →
    exec i s = .next (waits s)))

/-- 17 R418: LATCH_FILL performs the oldest fill of a running tile when no earlier step still reads its buffer: each latch row
takes the bytes at its address, the scale word behind them for E2M1, and no poison from valid groups without errors.
17 R419-R422, 12 R298, R304-R306: MATRIX_OP_COMPLETE performs the oldest operation of a running tile. A step: in each row below RLIM
the columns below CLIM take the step of the old element (zero for MMAZ) with the latch row and the column of W, the rest
keeps its bits, and the poison follows R420 (with that of a latch row in error, 09 Table 9-9); a stamped step whose latch was late
writes zeros and poison. A drain pushes the rows of 32 it has not pushed yet; MZERO clears 32 rows; a fill from S takes its bytes. -/
def Obligations.MatrixEvents : Prop :=
  (∀ (s : State) (f : Fill) (rest : List Fill), let a := s.arg.a
    let c := s.m.agent a
    s.m.runs a = true → c.eng.fills = f :: rest → c.eng.ghalt = false → f.addrs.length ≤ 32 →
    (∀ o ∈ c.eng.mq, o.kind ≤ 1 → o.buf = f.buf → f.seq ≤ o.seq) → Sound s.m a →
    (∀ ad ∈ f.addrs, if ad / 2 ^ 60 = tagS then raceAt c 1 (ad % 2 ^ 60) (fillBytes f.atype) = none
      else GroupsValid c false (ad % 2 ^ 60) (fillBytes f.atype)) →
    ∃ t, exec .latchFill s = .next t ∧ (t.m.agent a).eng.fills = rest ∧
      ∀ i (h : i < f.addrs.length), let ad := f.addrs[i]
        let mem := if ad / 2 ^ 60 = tagS then c.mem.sm else c.mem.am
        (t.m.agent a).latch f.buf i = ⟨BitVec.ofNat 1024 (mem.readNat (ad % 2 ^ 60) 128),
          if f.atype = 10 then BitVec.ofNat 64 (mem.readNat (ad % 2 ^ 60 + 128) 8) else 0x7F7F7F7F7F7F7F7F, false, none⟩) ∧
  (∀ (s : State) (o : MOp) (rest : List MOp), let a := s.arg.a
    let c := s.m.agent a
    s.m.runs a = true → c.eng.mq = o :: rest → c.eng.mhalt = false → Sound s.m a →
    (o.kind ≤ 1 → (o.late = false → (∀ f ∈ c.eng.fills, f.buf = o.buf → o.seq ≤ f.seq) ∧
        GroupsValid c true (wptrOf o.cfg) (stepFoot o.type)) →
      ∃ t, exec .matrixOpComplete s = .next t ∧ let c' := t.m.agent a
        c'.eng.mq = rest ∧ ∀ i, i < 32 → let x := c.row (32 * o.tile + i)
        let y := c'.row (32 * o.tile + i)
        let w := typeWidth (accType o.type)
        if i < rlimOf o.cfg then
          y.p = (o.late || (x.p && !(o.kind == 1 && decide (stepN o.type ≤ climOf o.cfg))) || (c.latch o.buf i).p ||
            (c.latch o.buf i).err.any ItemErr.ue) ∧
          ∀ j, j < stepN o.type → laneAt w y.v j = if climOf o.cfg ≤ j then laneAt w x.v j else if o.late then 0 else
            let old := if o.kind = 1 then 0 else laneAt w x.v j
            let b := c.mem.wm.readNat (wptrOf o.cfg) (stepFoot o.type)
            (if o.type = 0 then (intStep old ((aInts (c.latch o.buf i)).zip (bInts b j))).1
              else (elemStep (accType o.type) o.prof old
                ((aValues o.type (c.latch o.buf i)).zip (bValues o.type (btypeOf o.cfg) b j))).1) % 2 ^ w
        else y = x) ∧
    (o.kind = 2 → ∃ t, exec .matrixOpComplete s = .next t ∧ (t.m.agent a).eng.mq = rest ∧
      (t.m.agent a).hq o.buf = { c.hq o.buf with
        resv := (c.hq o.buf).resv - (32 - o.row)
        pos := (c.hq o.buf).pos + (32 - o.row)
        items := (c.hq o.buf).items ++ ((List.range 32).drop o.row).map (fun r => ⟨c.row (32 * o.tile + r), 0, none⟩) }) ∧
    (o.kind = 3 → ∃ t, exec .matrixOpComplete s = .next t ∧ (t.m.agent a).eng.mq = rest ∧
      (∀ i, i < 32 → (t.m.agent a).row (32 * o.tile + i) = ⟨0, false⟩) ∧
      ∀ r, r / 32 ≠ o.tile → (t.m.agent a).row r = c.row r) ∧
    (o.kind = 5 → tagOfAddr o.addr = tagS → offOf o.addr + 8192 ≤ 2 ^ 19 → o.row = 0 →
      (∀ r, r < 32 → raceAt c 1 (offOf o.addr + 256 * r) 256 = none) →
      ∃ t, exec .matrixOpComplete s = .next t ∧ (t.m.agent a).eng.mq = rest ∧
        ∀ i, i < 32 → (t.m.agent a).row (32 * o.tile + i) = ⟨BitVec.ofNat 2048 (c.mem.sm.readNat (offOf o.addr + 256 * i) 256), false⟩))


/-! ### Engine X -/

/-- 17 R425, R426, 08 R201, R205: SLOAD copies a program from S into an engine that is not running; SGO starts a loaded engine whose
program is well formed, in space and bound; SSTOP asks a running engine to stop; SWAIT lets its bundle go on when the engine
is not running. QBIND binds or unbinds a queue that is not in use, QFLUSH empties a bound queue, QSTAT writes its status. -/
def Obligations.StreamAndQueueWords : Prop :=
  (∀ (s s1 : State) (n : BitVec 2) (a : BitVec 6) (x : Dword), Legal (.sload n a) s → ReadsC a s x s1 →
    let bytes := s1.m.core.mem.sm.readList (offOf x)
    let steps := byteAt (bytes 16) 0
    let size := if 1 ≤ steps ∧ steps ≤ 16 then 16 + 64 * steps else 16
    ((s.old.core.se n.toNat).st = 2 → exec (.sload n a) s = .next (stopState (.trap 0x01 s.wordBits) s)) ∧
    ((s.old.core.se n.toNat).st ≠ 2 → ¬(tagOfAddr x = tagS ∧ x.toNat % 16 = 0 ∧ inSpace x 16 = true) →
      exec (.sload n a) s = .next (stopState (.trap 0x0B x) s)) ∧
    ((s.old.core.se n.toNat).st ≠ 2 → tagOfAddr x = tagS → x.toNat % 16 = 0 → inSpace x 16 = true → inSpace x size = true →
      CleanS s1 (offOf x) 16 → CleanS s1 (offOf x) size →
      exec (.sload n a) s = .next (withSe s1 n.toNat { st := 1, prog := bytes size }))) ∧
  (∀ (s : State) (n : BitVec 2), Legal (.sgo n) s → let e := s.old.core.se n.toNat
    (e.st ≠ 1 ∨ e.wellFormed = false → exec (.sgo n) s = .next (stopState (.trap 0x01 s.wordBits) s)) ∧
    (e.st = 1 → e.wellFormed = true → (∀ i, i < e.nstep → e.spaceOk i = true) →
      if ∀ i, i < e.nstep → e.boundOk s.old.core n.toNat i = true then
        exec (.sgo n) s = .next (withSe s n.toNat
          { st := 2, prog := e.prog, nextAt := s.m.core.ctl.cyc + e.rate })
      else exec (.sgo n) s = .next (stopState (.trap 0x07 s.wordBits) s))) ∧
  (∀ (s : State) (n : BitVec 2), Legal (.sstop n) s → let e := s.m.core.se n.toNat
    exec (.sstop n) s = .next (if e.st = 2 then withSe s n.toNat { e with stop := true } else s)) ∧
  (∀ (s : State) (n : BitVec 2), Legal (.swait n) s →
    exec (.swait n) s = .next (if (s.old.core.se n.toNat).st = 2 then waits s else s)) ∧
  (∀ (s : State) (n p c : BitVec 4) (o : BitVec 2), Legal (.qbind n p c o) s → let q := s.m.hq n.toNat
    let task := p = 8 ∨ c = 5
    let form := prodOk n.toNat p.toNat = true ∧ consOk n.toNat c.toNat = true ∧ (task ∨ o = 0) ∧ ¬(p = 8 ∧ c = 5)
    let idle := q.bound = false ∨ (q.items = [] ∧ queueBusy s.m.core n.toNat = false)
    let taken := ∃ k, k < 16 ∧ k ≠ n.toNat ∧ (s.m.hq k).bound = true ∧ ((s.m.hq k).prod = 8 ∨ (s.m.hq k).cons = 5) ∧
      (s.m.hq k).port = o.toNat ∧ (12 ≤ k ↔ 12 ≤ n.toNat)
    (¬form → exec (.qbind n p c o) s = .next (stopState (.trap 0x01 s.wordBits) s)) ∧
    (form → ¬idle ∨ (task ∧ taken) → exec (.qbind n p c o) s = .next (stopState (.trap 0x07 s.wordBits) s)) ∧
    (form → idle → ¬(task ∧ taken) → exec (.qbind n p c o) s = .next (withHq s n.toNat
      (if p = 0 ∧ c = 0 then {} else { bound := true, prod := p.toNat, cons := c.toNat, port := o.toNat })))) ∧
  (∀ (s : State) (n : BitVec 4), Legal (.qflush n) s → let q := s.m.hq n.toNat
    (q.bound = false → exec (.qflush n) s = .next s) ∧
    (q.bound = true → q.items.length < hqDepth n.toNat →
      exec (.qflush n) s = .next (withHq s n.toNat { q with items := [] })) ∧
    (q.bound = true → ∃ t, exec (.qflush n) s = .next t ∧ t.m.hq n.toNat = { q with items := [] } ∧
      t.m.core.rf.s = s.m.core.rf.s ∧ t.m.core.mem = s.m.core.mem ∧ t.m.rest = s.m.rest ∧ t.m.sys = s.m.sys)) ∧
  (∀ (s t : State) (d : BitVec 6) (n : BitVec 4), Legal (.qstat d n) s → let q := s.m.hq n.toNat
    WritesS d ⟨BitVec.ofNat 64 (q.items.length + (if 8 ≤ n.toNat ∧ n.toNat < 12 then 2 ^ 8 * q.resv else 0) +
      2 ^ 15 * (if q.bound then 1 else 0) + 2 ^ 16 * q.prod + 2 ^ 20 * q.cons + 2 ^ 24 * q.port), false⟩ 1 s t →
    exec (.qstat d n) s = .next t ∧ SameBut s t [d.toNat] [] [] [] (OnPort s true d.toNat))

/-- 17 R427, R428, R432: a copy whose control value, spaces, queues, rights and task number pass the checks enters its channel (or
completes at once when it moves nothing); a full channel makes the bundle wait. CWAIT goes on when the channel has reached
the position, or has nothing left, and clears the channel's race-check bits while checking is on (08 R215); CWPOS writes the position the channel will
reach. -/
def Obligations.CopyWords : Prop :=
  (∀ (s s1 s2 s3 s4 s5 : State) (d a c : BitVec 6) (x y k : Dword) (op : Nat) (i : Instr) (rs rd : List Nat),
    (i, op) ∈ [(Instr.cpy d a c, 0), (.cpyp d a c, 1), (.cpym d a c, 2)] → Legal i s → ReadsC d s x s1 → ReadsC a s1 y s2 →
    ReadsC c s2 k s3 → let len := ctlLEN k
    let ch := ctlCH k
    let src := s3.m.hq y.toNat
    let dst := s3.m.hq x.toNat
    (ctlOk op k = false → exec i s = .next (stopState (.trap 0x01 k) s)) ∧
    (ctlOk op k = true →
      (ctlQS k = true → y.toNat < 16 ∧ len % 256 = 0 ∧ src.bound = true ∧ src.cons = 6 + ch ∧ rs = [] ∧ s4 = s3) →
      (ctlQS k = false → srcSpace op (tagOfAddr y) = true ∧ sideOk y len = true ∧
        (tagOfAddr y = tagFabric → (s3.m.partn s3.m.core.ctl.part).fab.any (fun e => e.1 == y.toNat / 2 ^ 49 % 2 ^ 11) = true) ∧
        CopySide y len accRead .copySrc s3 rs s4) →
      (ctlQD k = true → x.toNat < 8 ∧ len % 256 = 0 ∧ (op = 0 → dst.bound = true ∧ dst.prod = 6 + ch) ∧ rd = [] ∧ s5 = s4) →
      (ctlQD k = false → dstSpace op (tagOfAddr x) = true ∧ sideOk x len = true ∧ CopySide x len accWrite .copyDst s4 rd s5) →
      (op = 1 → ctlTask k < ((s3.m.csr 0x032).extractLsb' 20 20).toNat) →
      (len = 0 → exec i s = .next s5) ∧
      (0 < len → (s3.m.core.chan ch).cmds.length < 8 → ∃ cmd, exec i s = .next (withEng (withChan s5 ch
          { s5.m.core.chan ch with cmds := (s5.m.core.chan ch).cmds ++ [cmd] }) fun e => { e with seq := e.seq + 1 }) ∧
        cmd.op = op ∧ cmd.dst = x ∧ cmd.src = y ∧ cmd.ctl = k ∧ cmd.done = 0 ∧ cmd.wait = [] ∧ ∀ r, r ∈ cmd.held ↔ r ∈ rs ∨ r ∈ rd) ∧
      (0 < len → 8 ≤ (s3.m.core.chan ch).cmds.length → s5.stamped = s.stamped → s5.old = s.old → exec i s = .next (waits s)))) ∧
  (∀ (s s1 : State) (n : BitVec 1) (a : BitVec 6) (al : BitVec 1) (x : Dword), Legal (.cwait n a al) s →
    (al = 1 → s1 = s) → (al = 0 → ReadsC a s x s1) →
    let done := if al = 1 then (s.old.core.chan n.toNat).cmds = [] else x.toNat ≤ (s.old.csr (0x044 + n.toNat)).toNat
    let mine := fun (e : Nat × Nat) => e.2 / 32 = 2 + n.toNat ∧
      (al = 1 ∨ SMap.get (fun _ => 0) s1.m.core.mem.rpos e.1 < x.toNat)
    (done → ∃ t, exec (.cwait n a al) s = .next t ∧
      (∀ e, e ∈ t.m.core.mem.race ↔ e ∈ s1.m.core.mem.race ∧ ¬(s.old.core.raceOn = true ∧ mine e)) ∧
      SameBut s t [] [] [] [] (OnPort s true a.toNat)) ∧
    (¬done → s1 = s → exec (.cwait n a al) s = .next (waits s))) ∧
  (∀ (s t : State) (d : BitVec 6) (n : BitVec 1), Legal (.cwpos d n) s → s.m.isTile = true →
    let left := (s.m.core.chan n.toNat).cmds.map fun x => (x.len - x.done) + (x.wait.map (· % 1024)).sum
    WritesS d ⟨s.m.csr (0x044 + n.toNat) + BitVec.ofNat 64 left.sum, false⟩ 1 s t →
    exec (.cwpos d n) s = .next t ∧ SameBut s t [d.toNat] [] [] [] (OnPort s true d.toNat))

/-- 17 R434, R435, 05 R136-R138: WPOP takes the oldest item when no earlier popper waits, and writes it with outcome 0; from a
closed queue that has none outcome 2; a non-blocking pop outcome 1, a blocking one waits in line, and takes what it was given there
when its bundle issues again. The form with a scalar queue reserves two places and receives the outcome there. WPUSH adds an item where
there is room and writes 1, or 0, or waits; on a closed queue it traps; the item goes at once to the first popper of the line.
WCLOSE closes. A queue the image does not declare traps. -/
def Obligations.WorkQueueWords : Prop :=
  (∀ (s s1 t : State) (d : BitVec 6) (n : BitVec 2) (nb : BitVec 1) (k : Nat), Legal (.wpop d n nb) s → s.m.myWq n.toNat = some k →
    QueueSound s k → let q := s.m.wq k
    let me := 32 * s.m.me
    let i := Instr.wpop d n nb
    (NotGiven s k → q.poppers = [] → ∀ x rest, q.items = x :: rest → WritesS d ⟨x, false⟩ 1 (withWq s k { q with items := rest }) s1 →
      WritesS (d + 1) ⟨0, false⟩ 1 s1 t → exec i s = .next t) ∧
    (NotGiven s k → q.items = [] → q.closed = true → WritesS d ⟨0, false⟩ 1 (withWq s k { q with items := [] }) s1 →
      WritesS (d + 1) ⟨2, false⟩ 1 s1 t → exec i s = .next t) ∧
    (NotGiven s k → NothingFor q → nb = 1 → WritesS d ⟨0, false⟩ 1 s s1 → WritesS (d + 1) ⟨1, false⟩ 1 s1 t → exec i s = .next t) ∧
    (NotGiven s k → NothingFor q → nb = 0 → s.stamped = false → Issuing s → ∃ t, exec i s = .next t ∧ t.bundle = none ∧
      t.m.core.rf = s.old.core.rf ∧ me ∈ (t.m.wq k).poppers) ∧
    (∀ code x, s.m.core.eng.wgot = some (k, code, x) → WritesS d ⟨x, false⟩ 1 (withEng s fun e => { e with wgot := none }) s1 →
      WritesS (d + 1) ⟨BitVec.ofNat 64 code, false⟩ 1 s1 t → exec i s = .next t)) ∧
  (∀ (s : State) (n : BitVec 2) (nb : BitVec 1) (h : BitVec 4) (k : Nat), Legal (.wpopQ n nb h) s → s.m.myWq n.toNat = some k →
    QueueSound s k → let q := s.m.wq k
    let b := s.m.hq h.toNat
    (¬(b.bound = true ∧ b.prod = 10) → exec (.wpopQ n nb h) s = .next (stopState (.trap 0x07 s.wordBits) s)) ∧
    (b.bound = true → b.prod = 10 → b.items.length + b.resv + 2 ≤ hqDepth h.toNat → s.m.core.eng.wpops.length < 4 →
      Unarmed s.m (panelOf s.m.me) → let item := fun (v : Dword) => (⟨⟨v.setWidth 2048, false⟩, 0, none⟩ : QItem)
      ∃ t, exec (.wpopQ n nb h) s = .next t ∧
        (∀ x rest, s.m.core.eng.wpops = [] → q.poppers = [] → q.items = x :: rest →
          t.m.hq h.toNat = { b with items := b.items ++ [item 0, item x], pos := b.pos + 2 } ∧ (t.m.wq k).items = rest) ∧
        (s.m.core.eng.wpops = [] → q.items = [] → q.closed = true →
          t.m.hq h.toNat = { b with items := b.items ++ [item 2], pos := b.pos + 1 }) ∧
        (s.m.core.eng.wpops = [] → NothingFor q → nb = 1 →
          t.m.hq h.toNat = { b with items := b.items ++ [item 1], pos := b.pos + 1 }) ∧
        (NothingFor q → nb = 0 → t.m.hq h.toNat = { b with resv := b.resv + 2 } ∧
          t.m.core.eng.wpops = s.m.core.eng.wpops ++ [⟨k, h.toNat, none⟩] ∧
          (t.m.wq k).poppers = q.poppers ++ [32 * s.m.me + 16 + h.toNat]))) ∧
  (∀ (s s1 t : State) (d a : BitVec 6) (n : BitVec 2) (nb : BitVec 1) (k : Nat) (x : Dword), Legal (.wpush d a n nb) s →
    ReadsC a s x s1 → s1.m.myWq n.toNat = some k → QueueSound s1 k → let q := s1.m.wq k
    let i := (q.pushers.findIdx? (· == s1.m.me)).getD q.pushers.length
    let m := s1.m.setWq k { q with items := q.items ++ [x], pushers := q.pushers.eraseIdx i }
    (q.closed = true → exec (.wpush d a n nb) s = .next (stopState (.trap 0x07 s.wordBits) s)) ∧
    (q.closed = false → q.items.length + i < q.cap →
      WritesS d ⟨1, false⟩ 1 { s1 with m := wqServeAll m k } t → exec (.wpush d a n nb) s = .next t) ∧
    (q.closed = false → q.cap ≤ q.items.length + i → nb = 1 → WritesS d ⟨0, false⟩ 1 s1 t → exec (.wpush d a n nb) s = .next t) ∧
    (q.closed = false → q.cap ≤ q.items.length + i → nb = 0 → s1 = s → s.stamped = false → Issuing s →
      ∃ t, exec (.wpush d a n nb) s = .next t ∧ t.bundle = none ∧ t.m.core.rf = s.old.core.rf)) ∧
  (∀ (m : Mach) (k : Nat), let q := m.wq k
    (q.poppers = [] → wqServeAll m k = m) ∧
    (∀ p ps x xs, q.poppers = p :: ps → q.items = x :: xs → q.closed = false → p % 32 < 16 → ps = [] ∨ xs = [] →
      wqServeAll m k = (m.setWq k { q with poppers := ps, items := xs }).modAgent (p / 32)
        fun c => c.modEng fun e => { e with wgot := some (k, 0, x) })) ∧
  (∀ (s : State) (n : BitVec 2) (k : Nat), Legal (.wclose n) s → s.m.myWq n.toNat = some k → QueueSound s k →
    ∃ t, exec (.wclose n) s = .next t ∧ (t.m.wq k).closed = true ∧
      ((s.m.wq k).poppers = [] → t = withWq s k { s.m.wq k with closed := true })) ∧
  (∀ (s : State) (n : BitVec 2) (nb : BitVec 1) (h : BitVec 4) (d : BitVec 6) (i : Instr),
    i ∈ [Instr.wpop d n nb, .wpopQ n nb h, .wclose n] → Legal i s → s.m.myWq n.toNat = none →
    exec i s = .next (stopState (.trap 0x07 s.wordBits) s))

/-- 17 R433, 11 R265-R267, R271-R273, R276, R282, R283: the seam words. SEAMO opens a set by its descriptor and writes its handle, or 1 to
3 for the reason it cannot; a gate record and a put of a known set enter the list of unanswered packets, one for each panel
they go to; SEAMS writes the status word; SEAMC settles the HELD slots of a token, or closes a set with no slot outstanding
and writes its release count. On a closed set of the launch SEAMS and SEAMC give zero; the first use of a handle fetches it and waits;
a foreign handle traps. -/
def Obligations.SeamWords : Prop :=
  (∀ (s s1 : State) (d a : BitVec 6) (x : Dword), Legal (.seamo d a) s → ReadsC a s x s1 →
    tagOfAddr x = tagS → x.toNat % 64 = 0 → inSpace x 64 = true → CleanS s1 (offOf x) 64 → TakesS s1 d →
    let bs := s1.m.core.mem.sm.readList (offOf x) 64
    let m := s1.m
    descOk bs (m.partn m.core.ctl.part).mask (m.launch m.myTask.launch).tasks = true →
    let desc := if leAt bs 12 4 = 0 then bs.take 12 ++ leBytes (2 ^ panelOfSite m.me) 4 ++ bs.drop 16 else bs
    roomWaits m m.myTask.launch desc = false →
    ∃ h m', Gives (.seamo d a) s d h { s1 with m := m' } ∧
      ((m' = m ∧ 1 ≤ h.toNat ∧ h.toNat ≤ 3) ∨ ∃ key, handleKey h = some key ∧
        m'.set_ key = { isOpen := true, oseq := key % 256, launch := m.myTask.launch, owner := m.myTask.task, desc := desc,
                        wb := descTBase desc })) ∧
  (∀ (s s1 s2 s3 : State) (h t a : BitVec 6) (x y : Dword) (r : RowP) (key : Nat) (set : SeamSet), Legal (.seamg h t a) s →
    ReadsC h s x s1 → ReadsC t s1 y s2 → ReadsV a s2 r s3 → r.p = false → KnowsSet s3 x key set →
    let k := descK set.desc
    let idx := (List.range k).map fun i => laneAt 32 r.v i
    let gates := (List.range k).map fun i => laneAt 32 r.v (8 + i)
    k ≤ 8 → (∀ i j, i < j → j < k → idx.getD i 0 < idx.getD j 0) → (∀ i ∈ idx, i ≤ 0xFFFF) →
    sendBlocked s3.m.core.eng (descStripe set.desc) = false →
    ∃ u, exec (.seamg h t a) s = .next u ∧ u.m.core.rf = s3.m.core.rf ∧ u.m.core.mem = s3.m.core.mem ∧
      u.m.core.eng.pkts.map carried = s3.m.core.eng.pkts.map carried ++
        (descStripe set.desc).map fun p => (p, 0, x, (y.setWidth 32).toNat, 0, 0, idx ++ gates)) ∧
  (∀ (s s1 s2 s3 s4 : State) (h t a : BitVec 6) (x y : Dword) (r r2 : RowP) (key : Nat) (set : SeamSet), Legal (.seamp h t a) s →
    ReadsC h s x s1 → ReadsC t s1 y s2 → KnowsSet s2 x key set → let size := descSlab set.desc * descISz set.desc
    ReadsV a (usedHandle s2 key) r s3 → (size ≤ 256 → r2 = ⟨0, false⟩ ∧ s4 = s3) →
    (256 < size → a.toNat ≤ 58 ∧ ReadsV (a + 1) s3 r2 s4) → r.p = false → r2.p = false →
    let slab := (y.extractLsb' 48 8).toNat
    let w := 8 * descISz set.desc
    let els := (lanesBy w r ++ lanesBy w r2).take (descSlab set.desc)
    sendBlocked s4.m.core.eng [set.panelFor slab] = false →
    ∃ u, exec (.seamp h t a) s = .next u ∧ u.m.core.rf = s4.m.core.rf ∧ u.m.core.mem = s4.m.core.mem ∧
      u.m.core.eng.pkts.map carried = s4.m.core.eng.pkts.map carried ++
        [(set.panelFor slab, 1, x, (y.setWidth 32).toNat, (y.extractLsb' 32 16).toNat, slab, els)]) ∧
  (∀ (s s1 s2 : State) (d h t : BitVec 6) (x y : Dword) (key : Nat) (set : SeamSet), Legal (.seams d h t) s → ReadsC h s x s1 →
    ReadsC t s1 y s2 → KnowsSet s2 x key set → TakesS s2 d →
    Gives (.seams d h t) s d
      (BitVec.ofNat 64 (seamStatus set (y.extractLsb' 56 2).toNat (y.setWidth 32).toNat (y.extractLsb' 48 8).toNat)) (usedHandle s2 key)) ∧
  (∀ (s s1 s2 : State) (h t : BitVec 6) (x y : Dword) (key : Nat) (set : SeamSet), Legal (.seamcSettle t h) s → ReadsC h s x s1 →
    ReadsC t s1 y s2 → KnowsSet s2 x key set → s2.m.myTask = set.owner_ → (set.slots.map Prod.fst).Nodup →
    ∃ u, exec (.seamcSettle t h) s = .next u ∧ u.m.core.rf = s2.m.core.rf ∧ ∀ k, let z := set.slot k
      (u.m.set_ key).slot k = if z.st = 3 ∧ z.token = (y.setWidth 32).toNat ∧ k ∈ set.slots.map Prod.fst then
        { z with st := set.readySt z.token, timer := none, subst := true, renorm := y.getLsbD 32, stamp := 2 * s2.m.core.ctl.cyc + 1 }
        else z) ∧
  (∀ (s s1 : State) (d h : BitVec 6) (x : Dword) (key : Nat) (set : SeamSet), Legal (.seamcClose d h) s → ReadsC h s x s1 →
    KnowsSet s1 x key set → s1.m.myTask = set.owner_ → TakesS s1 d →
    set.pick (fun y => y.st == 1 || y.st == 2 || y.st == 3 || y.st == 4) = [] →
    ∃ m', Gives (.seamcClose d h) s d (BitVec.ofNat 64 set.rcnt) { s1 with m := m' } ∧
      (m'.set_ key).isOpen = false ∧ key ∉ m'.core.eng.handles ∧ m'.core.eng.closing = none ∧ m'.core.rf = s1.m.core.rf) ∧
  (∀ (s s1 s2 : State) (d h t : BitVec 6) (x y : Dword) (key : Nat) (i : Instr), ReadsC h s x s1 → Legal i s →
    handleState s1.m s1.m.myTask.launch x = .closed key → key ∈ s1.m.core.eng.handles →
    ((i = .seamcClose d h ∧ s2 = s1) ∨ (i = .seams d h t ∧ ReadsC t s1 y s2) → TakesS s2 d → Gives i s d 0 s2) ∧
    (i = .seamcSettle t h → ReadsC t s1 y s2 → exec i s = .next s2)) ∧
  (∀ (s s1 s2 : State) (d h t : BitVec 6) (x y : Dword) (i : Instr), ReadsC h s x s1 → Legal i s →
    (i = .seamcClose d h ∧ s2 = s1) ∨ (i ∈ [Instr.seams d h t, .seamcSettle t h] ∧ ReadsC t s1 y s2) → s2.stamped = false → Issuing s →
    (handleState s2.m s2.m.myTask.launch x = .bad → exec i s = .next (stopState (.trap 0x05 x) s)) ∧
    (∀ key set, handleState s2.m s2.m.myTask.launch x ∈ [HState.opened key set, .closed key] → key ∉ s2.m.core.eng.handles →
      ∃ u, exec i s = .next u ∧ u.bundle = none ∧ u.m.core.rf = s.old.core.rf ∧ key ∈ u.m.core.eng.handles))

/-- 17 R436, R438, R439, 09 R230: COLL writes the lowest free identifier and joins its collective with the descriptor it read, the
regions held; COLLW writes what came of a collective and frees it, or 3 while it runs and must not wait. LIFE and REFR
change class and extend bit, or queue a refresh, of the valid row groups of their range and of no other, and AGEQ writes the
state of one. -/
def Obligations.CollectiveAndLifetimeWords : Prop :=
  (∀ (s s1 s2 s3 s4 : State) (d a : BitVec 6) (x : Dword) (id : Nat) (r0 r1 r2 : List Nat), Legal (.coll d a) s → ReadsC a s x s1 →
    tagOfAddr x = tagS → x.toNat % 64 = 0 → inSpace x 64 = true → CleanS s1 (offOf x) 64 →
    let bs := s1.m.core.mem.sm.readList (offOf x) 64
    let rn := collParties s1.m bs * collBytes bs
    collOk s1.m bs = true → bufOk bs (collBuf bs) (collBytes bs) = true → (collOp bs = 4 → bufOk bs (collRbuf bs) rn = true) →
    id < 8 → SMap.get (fun _ => 0) s1.m.core.eng.colls id = 0 → (∀ i, i < id → SMap.get (fun _ => 0) s1.m.core.eng.colls i ≠ 0) →
    CopySide (collBuf bs) (collBytes bs) accRead .copyDst s1 r0 s2 → CopySide (collBuf bs) (collBytes bs) accWrite .copyDst s2 r1 s3 →
    (collOp bs = 4 → CopySide (collRbuf bs) rn accWrite .copyDst s3 r2 s4) → (collOp bs ≠ 4 → r2 = [] ∧ s4 = s3) →
    (∀ r ∈ r0 ++ r1 ++ r2, copyHolds s1.m s1.m.core.ctl.part r = false) → TakesS s4 d →
    ∃ m' k, Gives (.coll d a) s d (BitVec.ofNat 64 id) { s4 with m := m' } ∧
      SMap.get (fun _ => 0) m'.core.eng.colls id = 2 * k + 1 ∧ (∃ j ∈ (m'.coll k).joined, j.1 = collRank s4.m bs) ∧
      m'.core.rf = s4.m.core.rf ∧ m'.core.mem = s4.m.core.mem) ∧
  (∀ (s s1 : State) (d a : BitVec 6) (nb : BitVec 1) (x : Dword), Legal (.collw d a nb) s → ReadsC a s x s1 →
    let v := if x.toNat < 8 then SMap.get (fun _ => 0) s1.m.core.eng.colls x.toNat else 0
    (v = 0 → exec (.collw d a nb) s = .next (stopState (.trap 0x01 x) s)) ∧
    (v ≠ 0 → v % 2 = 0 → TakesS s1 d →
      Gives (.collw d a nb) s d (BitVec.ofNat 64 (v / 2 - 1)) (withEng s1 fun e => { e with colls := SMap.erase e.colls x.toNat })) ∧
    (v % 2 = 1 → nb = 1 → TakesS s1 d → Gives (.collw d a nb) s d 3 s1) ∧
    (v % 2 = 1 → nb = 0 → s1 = s → exec (.collw d a nb) s = .next (waits s))) ∧
  (∀ (s s1 s2 : State) (a b : BitVec 6) (c : BitVec 2) (x : BitVec 1) (v n : Dword) (w : Bool) (ks : List Nat) (i : Instr)
    (f : Group → Group), (i, f) ∈ [(Instr.life a b c x, fun g => { g with cls := c.toNat, x := x == 1 }),
      (.refr a b, fun g => { g with q := true })] → Legal i s → ReadsC a s v s1 → ReadsC b s1 n s2 → LifeRange v n.toNat w ks →
    ∃ t, exec i s = .next t ∧ (∀ k, t.m.core.group w k = if k ∈ ks ∧ (s2.m.core.group w k).v = true then f (s2.m.core.group w k)
        else s2.m.core.group w k) ∧ (∀ k, t.m.core.group (!w) k = s2.m.core.group (!w) k) ∧
      t.m.core.rf = s2.m.core.rf ∧ t.m.core.mem.am = s2.m.core.mem.am ∧ t.m.core.mem.wm = s2.m.core.mem.wm ∧
      t.m.core.eng = s2.m.core.eng ∧ t.m.rest = s2.m.rest ∧ t.m.sys = s2.m.sys) ∧
  (∀ (s s1 : State) (d a : BitVec 6) (v : Dword) (w : Bool) (ks : List Nat), Legal (.ageq d a) s → ReadsC a s v s1 →
    LifeRange v 1 w ks → TakesS s1 d → let g := s1.m.core.group w (offOf v / 4096)
    ∃ t, exec (.ageq d a) s = .next t ∧ WritesS d
        ⟨BitVec.ofNat 64 ((if g.v then 2 ^ 31 else 0) + (if g.x then 2 ^ 30 else 0) + g.cls % 4 * 2 ^ 28 + g.age % 4096), false⟩ 2 s1 t ∧
      SameBut s t [d.toNat] [] [] [] fun n => OnPort s true a.toNat n ∨ OnPort s true d.toNat n)

/-- 18 R444-R450, 13 R316, R323: NOP does nothing; BAR 0 advances PHASE0, a higher BAR asks for its arrival and waits for the
next count of its level, and after a BARQ of its level only waits for the count that the BARQ wrote (R446; log 91, the model's
reading); BARQ asks and writes that count; FENCE waits; CHK branches on poison and CHKT traps on it; PCLR
clears the poison bit and keeps the value; BH and KX give their fields to their bundle. -/
def Obligations.PlainSystemWords : Prop :=
  (∀ s : State, Legal .nop s → exec .nop s = .next s) ∧
  (∀ s : State, Legal (.bar 0) s → ∃ t, exec (.bar 0) s = .next t ∧
    t.m.core.csr true 0x034 = BitVec.ofNat 64 (((s.m.core.csr true 0x034).toNat + 1) % 2 ^ 32) ∧
    (∀ n, n ≠ 0x034 → t.m.core.csr true n = s.m.core.csr true n) ∧ t.m.core.ctl.wait = s.m.core.ctl.wait ∧
    t.m.core.rf.s = s.m.core.rf.s ∧ t.m.core.mem = s.m.core.mem ∧ t.m.core.eng = s.m.core.eng ∧ t.m.rest = s.m.rest ∧
    t.m.sys = s.m.sys ∧ ∀ d, Legal (.barq d 0) s → TakesS t d → Gives (.barq d 0) s d (BitVec.ofNat 64 (phaseNext s 0)) t) ∧
  (∀ (s : State) (v : BitVec 2), v ≠ 0 → HasLevel s v →
    let asked := fun t : State => ((∃ q, (v.toNat, q) ∈ t.m.core.ctl.arrReq) ∨ arrived s.m s.m.myTask v.toNat = true) ∧ SameCore s t
    (Legal (.bar v) s → NoWait s → (∀ e ∈ s.old.core.ctl.barq, e.1 ≠ v.toNat) →
      ∃ t, exec (.bar v) s = .next t ∧ t.m.core.ctl.wait = .bar v.toNat (phaseNext s v) ∧ asked t) ∧
    (∀ q, Legal (.bar v) s → NoWait s → (s.old.core.ctl.barq.find? fun e => e.1 == v.toNat) = some (v.toNat, q) →
      ∃ t, exec (.bar v) s = .next t ∧ t.m.core.ctl.wait = .bar v.toNat q ∧ (∀ e ∈ t.m.core.ctl.barq, e.1 ≠ v.toNat) ∧
        t.m.core.ctl.arrReq = s.m.core.ctl.arrReq ∧ SameCore s t) ∧
    (∀ d, Legal (.barq d v) s → TakesS s d → ∃ t, asked t ∧ t.m.core.ctl.wait = s.m.core.ctl.wait ∧
      (v.toNat, phaseNext s v) ∈ t.m.core.ctl.barq ∧ Gives (.barq d v) s d (BitVec.ofNat 64 (phaseNext s v)) t)) ∧
  (∀ (s : State) (c : BitVec 3), Legal (.fence c) s → NoWait s → exec (.fence c) s = .next (waiting s (.fence c.toNat))) ∧
  (∀ (s s1 : State) (k : BitVec 2) (r : BitVec 6) (off : BitVec 10), Legal (.chk k r off) s →
    (ReadsPoison k r s false s1 → exec (.chk k r off) s = .next s1) ∧
    (ReadsPoison k r s true s1 → let g := BitVec.ofInt 64 ((bundlePc s : Int) + 4 * off.toInt)
      (InStore s g → exec (.chk k r off) s = .next (takenS (taken s1 g) g)) ∧
      (¬InStore s g → exec (.chk k r off) s = .next (stopState (.trap 0x0B g) s)))) ∧
  (∀ (s s1 : State) (k : BitVec 2) (r : BitVec 6), Legal (.chkt k r) s →
    (ReadsPoison k r s false s1 → exec (.chkt k r) s = .next s1) ∧
    (ReadsPoison k r s true s1 →
      exec (.chkt k r) s = .next (stopState (.trap 0x04 (BitVec.ofNat 64 (64 * k.toNat + r.toNat))) s))) ∧
  (∀ (s t : State) (r : BitVec 6), (∀ x, Legal (.pclr 0 r) s → ReadsS r s x s → WritesS r ⟨x.v, false⟩ 1 s t →
      exec (.pclr 0 r) s = .next t ∧ SameBut s t [r.toNat] [] [] [] fun _ => False) ∧
    (∀ x, Legal (.pclr 2 r) s → ReadsP r s x s → WritesP r.toNat ⟨x.v, false⟩ 1 s t →
      exec (.pclr 2 r) s = .next t ∧ SameBut s t [] [r.toNat] [] [] fun _ => False)) ∧
  (∀ (s : State) (r : BitVec 6) (x : RowP), Legal (.pclr 1 r) s → ReadsV r s x s → ∃ t, exec (.pclr 1 r) s = .next t ∧
    t.m.core.row (s.old.rowOf r.toNat) = ⟨x.v, false⟩ ∧ SameBut s t [] [] [s.old.rowOf r.toNat] [] fun _ => False) ∧
  (∀ (s : State) (x v : BitVec 1) (p : BitVec 8) (h : BitVec 16), Legal (.bh x v p h) s →
    exec (.bh x v p h) s = .next { s with bundle := s.bundle.map fun b =>
      { b with prof := if v = 1 then some p.toNat else none, stamp := if x = 1 then some h.toNat else none } }) ∧
  (∀ (s : State) (k : BitVec 26), Legal (.kx k) s →
    exec (.kx k) s = .next { s with bundle := s.bundle.map fun b => { b with ext := some k } })

/-- 13 R320, 04 R108, R109, 18 R451-R455: a word that the checks of step 3 refuse raises its trap, a privileged word illegal
instruction on a tile and the privilege trap below its level. TRAP, BRK and ECALL raise 0x0C, 0x0D and 0x0F. On a tile a
trap that is not delegated saves the address of the bundle, code and place, and value, sets SFC to zero, suspends the loop
and goes on at TVEC, where an uncorrectable error in the first word is a double fault (07 R180); a delegated one ends the launch, an
absent feature saves the address and freezes the gang (07 R187). On a command core level 0 enters
level 1 by TVEC, the others level 2 by MVEC. TRET goes back. -/
def Obligations.TrapsAndReturns : Prop :=
  (∀ (s : State) (i : Instr) (c f : Nat), isEvent i = false → trap3 i s.old = some (c, f) →
    exec i s = .next (stopState (.trap c (if c = 3 then BitVec.ofNat 64 f else s.wordBits)) s)) ∧
  (∀ (s : State) (d a b : BitVec 6) (y : BitVec 1) (n : BitVec 4) (i : Instr) (l : Nat), (i, l) ∈ privOf d a b y n →
    i.wellFormed = true → s.old.isTile = true ∨ s.old.level < l →
    exec i s = .next (stopState (.trap (if s.old.isTile then 0x01 else 0x0E) s.wordBits) s)) ∧
  (∀ (s : State) (n : BitVec 12), let v := BitVec.ofNat 64 (n.toNat + wordCount s * 2 ^ 16)
    (Legal (.trap n) s → exec (.trap n) s = .next (stopState (.trap 0x0C v) s)) ∧
    (Legal (.brk n) s → exec (.brk n) s = .next (stopState (.trap 0x0D v) s)) ∧
    (Legal .ecall s → exec .ecall s =
      .next (stopState (if s.old.level = 2 then .trap 0x01 s.wordBits else .trap 0x0F 0) s))) ∧
  (∀ (s : State) (c : Nat) (v : Dword), Issuing s → let m := s.old
    let t := stopState (.trap c v) s
    let cause := BitVec.ofNat 64 (c + 256 * (wordIdx s % 8))
    t.bundle = none ∧
    (m.isTile = true → c ≠ 3 → (m.csr 0x024).getLsbD c = false → let vec := m.csr 0x020 &&& 0xFFFC
      (errIn m.core 2 vec.toNat 4 = 2 → m.core.ctl.task.isSome = true → (t.m.site m.me).tst = 6 ∧ t.m.core.ctl.crash = some (c, 1)) ∧
      (errIn m.core 2 vec.toNat 4 < 2 → t.m.csr 0x022 = m.core.rf.pc &&& 0xFFFC ∧ t.m.csr 0x021 = cause ∧ t.m.csr 0x023 = v ∧
      (∀ n, n ∉ [0x021, 0x022, 0x023] → t.m.csr n = m.csr n) ∧ t.m.core.rf.s = m.core.rf.s ∧ t.m.core.rf.p = m.core.rf.p ∧
      t.m.core.rf.pc = vec ∧ t.m.core.rf.npc = vec ∧ t.m.core.mem = m.core.mem ∧ t.m.rest = m.rest ∧
      ((∀ e ∈ m.sys.wqs, 32 * m.me ∉ e.2.poppers ∧ m.me ∉ e.2.pushers) → t.m.sys = m.sys) ∧
      t.m.core.ctl.cyc = m.core.ctl.cyc + 4 ∧ t.m.core.ctl.sfc0 = t.m.core.ctl.cyc ∧
      t.m.core.ctl.loop = m.core.ctl.loop.map fun l => { l with susp := true })) ∧
    (m.isTile = true → c ≠ 3 → (m.csr 0x024).getLsbD c = true → ∀ k, m.core.ctl.task = some k → t.m.hasLaunch k.launch = false) ∧
    (m.isTile = true → c = 3 → ∀ k, m.core.ctl.task = some k →
      let l := m.launch k.launch
      (6 ≤ v.toNat → t.m.hasLaunch k.launch = false) ∧
      (v.toNat < 6 → t.m.csr 0x022 = m.core.rf.pc &&& 0xFFFC ∧
        ((l.gang (l.gangOf k.task)).st = 1 → ((t.m.launch k.launch).gang (l.gangOf k.task)).st = 3))) ∧
    (m.isTile = false → m.level = 0 → let vec := m.csr 0x020 &&& 0x3FFFC
      t.m.csr 0x022 = m.core.rf.pc &&& 0x3FFFC ∧ t.m.csr 0x021 = cause ∧ t.m.csr 0x023 = v ∧
      t.m.csr 0x800 = (m.csr 0x800 &&& 0xC) ||| 1 ∧ (∀ n, n ∉ [0x021, 0x022, 0x023, 0x800] → t.m.csr n = m.csr n) ∧
      t.m.core.rf.s = m.core.rf.s ∧ t.m.core.rf.pc = vec ∧ t.m.core.rf.npc = vec ∧ t.m.core.mem = m.core.mem) ∧
    (m.isTile = false → m.level ≠ 0 → let vec := m.csr 0x810 &&& 0x3FFFC
      t.m.csr 0x811 = m.core.rf.pc &&& 0x3FFFC ∧ t.m.csr 0x812 = cause ∧ t.m.csr 0x813 = v ∧
      t.m.csr 0x800 = BitVec.ofNat 64 (4 * m.level + 2) ∧ (∀ n, n ∉ [0x811, 0x812, 0x813, 0x800] → t.m.csr n = m.csr n) ∧
      t.m.core.rf.s = m.core.rf.s ∧ t.m.core.rf.pc = vec ∧ t.m.core.rf.npc = vec ∧ t.m.core.mem = m.core.mem)) ∧
  (∀ s : State, Legal .tret s → s.m.me = s.old.me →
    (s.old.isTile = true → let pc := s.old.csr 0x022 &&& 0xFFFC
      ∃ t, exec .tret s = .next t ∧ t.m.core.rf = { s.m.core.rf with npc := pc } ∧ t.m.core.mem = s.m.core.mem ∧
        t.m.core.ctl.sfc0 = s.m.core.ctl.cyc + 1 ∧ t.m.core.eng.mhalt = false ∧ t.m.core.eng.ihalt = false ∧
        t.m.core.eng.ghalt = false ∧ t.m.core.eng.xhalt = false ∧ t.m.core.eng.thalt = false ∧
        (∀ n, (t.m.core.se n).halted = false ∧ (t.m.core.chan n).halted = false) ∧
        t.m.core.ctl.loop = s.m.core.ctl.loop.bind fun l => if l.susp = false then some l
          else if l.start ≤ pc.toNat ∧ pc.toNat < l.stop then some { l with susp := false } else none) ∧
    (s.old.isTile = false → s.old.level = 0 → exec .tret s = .next (stopState (.trap 0x0E s.wordBits) s)) ∧
    (s.old.isTile = false → s.old.level ≠ 0 → let l := if s.old.level = 1 then 0 else (s.old.csr 0x800).toNat / 4 % 4
      ∃ t, exec .tret s = .next t ∧ t.m.core.rf.npc = s.old.csr (if s.old.level = 1 then 0x022 else 0x811) &&& 0x3FFFC ∧
        t.m.level = l ∧ (∀ n, n ≠ 0x800 → t.m.csr n = s.m.csr n) ∧ t.m.core.rf.s = s.m.core.rf.s ∧
        t.m.core.mem = s.m.core.mem))

/-- 18 R456-R460, 06 R155, 05 R117: YIELD stops the task when a yield is pending and no loop runs, to go on
at its successor, and else does nothing; SWPT k
takes the variant of the die's level and goes on at its target of k; DONE ends the loop, asks the running streams to stop
and waits; WAITE waits for an event or its time; GCOND waits to store its word, and on a command core stores it. TASK_DONE
ends a task whose engines are quiet, with the last task of a gang the gang, with the last gang the launch; WAITE_TIMEOUT
ends a wait whose time is over with bit 63. -/
def Obligations.YieldsAndWaits : Prop :=
  (∀ s : State, Legal .yield s →
    (s.old.core.ctl.yieldReq = true → s.old.core.ctl.loop = none → NoWait s →
      exec .yield s = .next (waiting (takenS s (bundleNext s)) .yielded)) ∧
    (s.old.core.ctl.yieldReq = false ∨ s.old.core.ctl.loop ≠ none → exec .yield s = .next s)) ∧
  (∀ (s : State) (k : BitVec 12), Legal (.swpt k) s → let img := (s.old.launch s.old.myTask.launch).img
    (k.toNat < img.sw.length → let lvl := (s.old.die (dieOf s.old.me)).lvl
      let var := if lvl ≤ 1 then lvl else 2
      let e := (img.sw[k.toNat]?).getD (0, 0, 0)
      ∃ t, exec (.swpt k) s = .next t ∧ t.m.core.rf.npc = BitVec.ofNat 64 (if var = 0 then e.1 else if var = 1 then e.2.1 else e.2.2) ∧
        t.m.csr 0x043 = BitVec.ofNat 64 (4 * var) ∧ (∀ n, n ≠ 0x043 → t.m.csr n = s.m.csr n) ∧ t.m.core.ctl.loop = none ∧
        t.m.core.ctl.sfc0 = s.m.core.ctl.cyc + 1 ∧ t.m.core.rf.s = s.m.core.rf.s ∧ t.m.core.mem = s.m.core.mem) ∧
    (img.sw.length ≤ k.toNat → exec (.swpt k) s = .next (stopState (.trap 0x01 s.wordBits) s))) ∧
  (∀ s : State, Legal .done s → NoWait s → ∃ t, exec .done s = .next t ∧ t.m.core.ctl.wait = .done ∧ t.m.core.ctl.loop = none ∧
    (∀ n, t.m.core.se n = if (s.m.core.se n).st = 2 then { s.m.core.se n with stop := true } else s.m.core.se n) ∧
    t.m.core.rf = s.m.core.rf ∧ t.m.core.mem = s.m.core.mem ∧ t.m.rest = s.m.rest ∧ t.m.sys = s.m.sys) ∧
  (∀ (s s1 : State) (d a k : BitVec 6) (x : Dword), Legal (.waite d a k) s → ReadsC a s x s1 → NoWait s1 →
    k ≠ 0 ∨ x ≠ 0 → x.toNat < 2 ^ 32 → s.old.isTile = true ∨ k.getLsbD 3 = false ∨ s.old.level = 2 →
    d = 0 ∨ ((s.old.isTile = false ∨ d.toNat < 60) ∧ s1.old = s.old ∧ s1.stamped = false ∧ FreeS s1 d.toNat) ∨
      (s.old.isTile = true ∧ 60 ≤ d.toNat ∧ ∃ n, s1.old.core.portQueue true (d.toNat - 60) = some n ∧ s1.old = s.old ∧
        (s.old.hq n).prod = 8 ∧ (s.old.hq n).items.length < hqDepth n) →
    exec (.waite d a k) s =
      .next (waiting s1 (.event d.toNat k.toNat (if x = 0 then none else some (s1.old.sys.ns + 1000 * x.toNat))))) ∧
  (∀ (s s1 s2 : State) (a b : BitVec 6) (x y : Dword), Legal (.gcond a b) s → ReadsC a s x s1 → ReadsC b s1 y s2 →
    (s2.old.isTile = true → (255 < x.toNat → exec (.gcond a b) s = .next (stopState (.trap 0x0B x) s)) ∧
      (x.toNat ≤ 255 → let k := (s2.old.launch s2.old.myTask.launch).origin.kind
        (k = 1 → NoWait s2 → exec (.gcond a b) s = .next (waiting s2 (.gcond x y))) ∧
        (k ≠ 1 → exec (.gcond a b) s = .next (stopState (.trap 0x05 x) s)))) ∧
    (∀ s3 pa, s2.old.isTile = false → tagOfAddr x = 0 →
      reachCC ⟨x, false⟩ 8 8 accWrite false s2 = .ok (some (.phys [(pa, 8)]), s3) →
      keyErased s3.m pa = false → injHits s3.m (panelOfPa pa) 10 0 pa 8 = false →
      ∃ t, exec (.gcond a b) s = .next t ∧ t.m.core = s3.m.core ∧ t.m.rest = s3.m.rest ∧
        Stored s3.m.sys.hbm t.m.sys.hbm pa (leBytes y.toNat 8))) ∧
  (∀ (s : State) (k : TaskId), let a := s.arg.a
    let l := s.m.launch k.launch
    let g := l.gangOf k.task
    (s.m.agent a).ctl.task = some k → s.m.runs a = true → (s.m.agent a).ctl.wait = .done → (s.m.agent a).doneQuiet = true →
    (∀ j, (s.m.launch j).phaseHold = false ∧ ∀ g, ((s.m.launch j).gang g).toPhase = false) →
    ((∃ u ∈ l.gangTasks g, l.siteFor u ≠ a ∧ taskIsDone s.m ⟨k.launch, u⟩ = false) →
      ∃ t, exec .taskDone s = .next t ∧ (t.m.agent a).ctl.wait = .ended) ∧
    (s.m.placeOf k = some a → (∀ u ∈ l.gangTasks g, u = k.task ∨ (l.siteFor u ≠ a ∧ taskIsDone s.m ⟨k.launch, u⟩ = true)) →
      ((∃ j, j < l.img.g ∧ j ≠ g ∧ (l.gang j).st ≠ 4) → ∃ t, exec .taskDone s = .next t ∧ ((t.m.launch k.launch).gang g).st = 4 ∧
        ∀ u ∈ l.gangTasks g, (t.m.site (l.siteFor u)).rst = 0 ∧ (t.m.site (l.siteFor u)).occ = none) ∧
      ((∀ j, j < l.img.g → j = g ∨ (l.gang j).st = 4) → ∃ t, exec .taskDone s = .next t ∧ t.m.hasLaunch k.launch = false))) ∧
  (∀ (s : State) (d k n : Nat), let a := s.arg.a
    (s.m.agent a).ctl.wait = .event d k (some n) → n ≤ s.m.sys.ns → eventBits s.m a &&& k = 0 → d ≠ 0 →
    isTileAgent a = false ∨ d < 60 →
    ∃ t, exec .waiteTimeout s = .next t ∧ (t.m.agent a).s d = ⟨BitVec.ofNat 64 (2 ^ 63), false⟩ ∧
      (t.m.agent a).ctl.wait = (s.m.agent a).ctl.wait2 ∧ (∀ r, r ≠ d → (t.m.agent a).s r = (s.m.agent a).s r) ∧
      t.m.sys = s.m.sys ∧ ∀ j, j ≠ a → t.m.agent j = s.m.agent j)

/-- 18 R461-R464, 05 R123, R124, 07 R162, R169, R176: FRZ, THAW and PARK write the codes of Table 18-6: 1 for no such gang, 2 where its
state refuses; a freeze parks the gang's sites, a soft yield asks it, PARK saves it off its sites, THAW brings it back in
place or on sites held committed, or says 3 or 4. SITEC holds, commits and releases a rectangle, or says 1 to 3; SITEQ
writes the state of a site. -/
def Obligations.GangAndSiteWords : Prop :=
  (∀ (s s1 : State) (d a b : BitVec 6) (y : BitVec 1) (x z : Dword) (s0 : State) (i : Instr), Legal i s → ReadsC a s0 x s1 →
    GangForm x → i ∈ [Instr.frz d a y, .park d a] ∧ s0 = s ∨ i = .thaw d a b ∧ ReadsC b s z s0 ∧ ThawForm z →
    gangNamed s1.m x = none → TakesS s1 d → Gives i s d 1 s1) ∧
  (∀ (s s1 : State) (d a : BitVec 6) (y : BitVec 1) (x : Dword) (k g : Nat), ReadsC a s x s1 → GangForm x →
    gangNamed s1.m x = some (k, g) → TakesS s1 d → let l := s1.m.launch k
    let gg := l.gang g
    let ok := fun (i : Instr) (m : Mach) (c : Dword) => Gives i s d c { s1 with m := m }
    (Legal (.frz d a y) s → (gg.st ≠ 1 ∨ (y = 1 ∧ gg.askedAt ≠ none) → ok (.frz d a y) s1.m 2) ∧
      (gg.st = 1 → y = 0 → gangCrashed s1.m k g = false → ∃ m, ((m.launch k).gang g).st = 3 ∧
        (∀ j ∈ l.gangSites g, (m.site j).rst = 3 ∧ (m.site j).tst = 3) ∧ ok (.frz d a y) m 0) ∧
      (gg.st = 1 → y = 1 → gg.askedAt = none → gangCrashed s1.m k g = false → ∃ m,
        ((m.launch k).gang g).askedAt = some s1.m.sys.ns ∧ (∀ j ∈ l.gangSites g, (m.site j).tst = 2) ∧ ok (.frz d a y) m 0)) ∧
    (Legal (.park d a) s → ((gg.st ≠ 2 ∧ gg.st ≠ 3) ∨ gg.saved = true ∨ gangCrashed s1.m k g = true → ok (.park d a) s1.m 2) ∧
      (gg.st = 2 ∨ gg.st = 3 → gg.saved = false → gangCrashed s1.m k g = false → (∀ ps, s1.m.stalled ps = false) →
        (∀ j ∈ l.gangTasks g, (s1.m.site (l.siteFor j)).occ = some ⟨k, j⟩ ∧ ∃ e ∈ (s1.m.vf l.vf).saves, e.2 = taskKey ⟨k, j⟩) →
        ∃ m, ((m.launch k).gang g).saved = true ∧ (∀ j ∈ l.gangSites g, (m.site j).rst = 0 ∧ (m.site j).occ = none) ∧
          ok (.park d a) m 0))) ∧
  (∀ (s s0 s1 : State) (d a b : BitVec 6) (x y : Dword) (k g : Nat), Legal (.thaw d a b) s → ReadsC b s y s0 → ThawForm y →
    ReadsC a s0 x s1 → GangForm x → gangNamed s1.m x = some (k, g) → TakesS s1 d → let l := s1.m.launch k
    let gg := l.gang g
    let refused := (gg.st ≠ 2 ∧ gg.st ≠ 3) ∨ faultPending s1.m k g = true ∨ gg.toPhase = true ∨ gangCrashed s1.m k g = true
    let ok := fun (m : Mach) (c : Dword) => Gives (.thaw d a b) s d c { s1 with m := m }
    (refused → ok s1.m 2) ∧
    (¬refused →
      (y.getLsbD 63 = false → (inPlace s1.m k g = false → ok s1.m 4) ∧
        (inPlace s1.m k g = true → mayThaw s1.m k g gg.die = false → ok s1.m 3) ∧
        (inPlace s1.m k g = true → mayThaw s1.m k g gg.die = true → SoundInboxes s1.m → ∃ m, Resumed m k g ∧ ok m 0)) ∧
      (y.getLsbD 63 = true → let die := placeDie y
        let sites := rectSites l.img.w l.img.h (die, placeRow y, placeCol y)
        let fits := placeRow y + l.img.h ≤ 12 ∧ placeCol y + l.img.w ≤ 12
        (mayThaw s1.m k g die = false ∨ (gg.kind ≠ 4 ∧ gg.die ≠ die) → ok s1.m 3) ∧
        (mayThaw s1.m k g die = true → gg.kind = 4 ∨ gg.die = die →
          (¬fits ∨ (∃ j ∈ sites, ¬HoldsSite s1.m 2 j) → ok s1.m 4) ∧
          (fits → (∀ j ∈ sites, HoldsSite s1.m 2 j) → gg.saved = true → SoundInboxes s1.m → ∃ m, Resumed m k g ∧
            (let z := (m.launch k).gang g; z.die = die ∧ z.oy = placeRow y ∧ z.ox = placeCol y) ∧ ok m 0))))) ∧
  (∀ (s s1 s2 : State) (d a b : BitVec 6) (x y : Dword), Legal (.sitec d a b) s → ReadsC a s x s1 → ReadsC b s1 y s2 →
    RectForm x → y.toNat ≤ 2 → TakesS s2 d →
    let ok := fun (m : Mach) (c : Dword) => Gives (.sitec d a b) s d c { s2 with m := m }
    (¬RectIn s2.m x → ok s2.m 2) ∧
    (RectIn s2.m x →
      (y = 0 → (∀ j ∈ rectOf x, (s2.m.site j).rst = 0 ∨ ((s2.m.site j).rst = 1 ∧ (s2.m.site j).holder = ccHolder s2.m.me)) →
        ∃ m, (∀ j ∈ rectOf x, (m.site j).rst = 1 ∧ (m.site j).holder = ccHolder s2.m.me) ∧ ok m 0) ∧
      (y = 0 → (∀ j ∈ rectOf x, (s2.m.site j).rst ≠ 3) → (∃ j ∈ rectOf x, (s2.m.site j).rst = 2) → ok s2.m 1) ∧
      (y = 1 → (∀ j ∈ rectOf x, HoldsSite s2.m 1 j) → ∃ m, (∀ j ∈ rectOf x, HoldsSite m 2 j) ∧ ok m 0) ∧
      (y = 2 → (∀ j ∈ rectOf x, HoldsSite s2.m 1 j ∨ HoldsSite s2.m 2 j) →
        ∃ m, (∀ j ∈ rectOf x, (m.site j).rst = 0 ∧ (m.site j).holder = 0) ∧ ok m 0) ∧
      (y ≠ 0 → (∃ j ∈ rectOf x, ¬HoldsSite s2.m 1 j ∧ ¬HoldsSite s2.m 2 j) → ok s2.m 3))) ∧
  (∀ (s s1 : State) (d a : BitVec 6) (x : Dword), Legal (.siteq d a) s → ReadsC a s x s1 → x.toNat < 2 ^ 23 → x.toNat % 4096 = 0 →
    placeRow x ≤ 11 → placeCol x ≤ 11 → TakesS s1 d → let j := siteOf (placeDie x) (placeRow x) (placeCol x)
    let z := s1.m.site j
    let inside := s1.m.corePart ≠ none ∧ (s1.m.panel (panelOfSite j)).part = s1.m.corePart
    let r := if ¬inside then 5 else if siteOn s1.m j = false then 4 else z.rst + 16 * z.tst + (match z.occ with
      | none => 0
      | some k => (if ((s1.m.agent j).ctl.blockAt).isSome then 2 ^ 7 else 0) + 2 ^ 8 * (s1.m.launch k.launch).vf +
          2 ^ 18 * (k.launch % 2 ^ 24) + 2 ^ 42 * k.task)
    Gives (.siteq d a) s d (BitVec.ofNat 64 r) s1)

/-- 18 R465-R470, 04 R107, 03 R80, 17 R440: PMPW writes both registers of a window that is not locked; TLBI leaves no entry of its
range in a TLB of the partition and empties the walk caches; KEYL moves 64 bytes of core memory into a key slot and zeroes
them; SLOTB installs its record and writes the generation before it; QCBB carries a bind request out and writes its end;
DMAQ queues a COPYH entry of a bound DMA queue, or says why not; HALT stops the core. -/
def Obligations.MonitorWords : Prop :=
  (∀ (s s1 s2 : State) (n : BitVec 4) (a b : BitVec 6) (x y : Dword), Legal (.pmpw n a b) s → s2.m.isTile = false →
    1152 ≤ s2.m.me → ReadsC a s x s1 → ReadsC b s1 y s2 →
    if (s2.m.csr (0x820 + n.toNat)).getLsbD 3 = true then exec (.pmpw n a b) s = .next s2
    else ∃ t, exec (.pmpw n a b) s = .next t ∧ t.m.csr (0x820 + n.toNat) = x &&& 0xFFFFFFFFFFFFFF1F ∧
      t.m.csr (0x830 + n.toNat) = y &&& 0xFFFFFFFFFFFFF000 ∧
      SameBut s2 t [] [] [] [0x820 + n.toNat, 0x830 + n.toNat] fun _ => False) ∧
  (∀ (s s1 s2 : State) (a b : BitVec 6) (x n : Dword) (p : Nat), Legal (.tlbi a b) s → ReadsC a s x s1 → ReadsC b s1 n s2 →
    s2.m.corePart = some p → s2.m.isTile = false →
    (2 ^ 49 ≤ x.toNat ∨ (n = 0 ∧ x ≠ 0) → exec (.tlbi a b) s = .next (stopState (.trap 0x0B x) s)) ∧
    (x.toNat < 2 ^ 49 → n ≠ 0 ∨ x = 0 → let ps := panelsOf (s2.m.partn p).mask
      ∃ t, exec (.tlbi a b) s = .next t ∧ t.m.core = s2.m.core ∧ (∀ q ∈ ps, (t.m.panel q).walkc = []) ∧
        ∀ j k e, j < 1152 → panelOfSite j ∈ ps → e ∈ SMap.get (fun _ => []) (t.m.agent j).eng.tlb k →
          n ≠ 0 ∧ (offOf x + n.toNat ≤ e.va ∨ e.va + e.size ≤ offOf x))) ∧
  (∀ (s s1 s2 : State) (a b : BitVec 6) (x y : Dword), Legal (.keyl a b) s → ReadsC a s x s1 → ReadsC b s1 y s2 → y.toNat < 512 →
    OwnBytes s2 x 64 → NoInjection s2 9 (offOf x) 64 → ∃ t, exec (.keyl a b) s = .next t ∧
      SMap.get (fun _ => 0) t.m.sys.keys y.toNat = leAt (ownRead s2 x 64) 0 64 ∧ t.m.core.rf = s2.m.core.rf ∧
      (∀ j, offOf x ≤ j → j < offOf x + 64 → t.m.core.mem.sm.read j = 0) ∧
      ∀ j, j < offOf x ∨ offOf x + 64 ≤ j → t.m.core.mem.sm.read j = s2.m.core.mem.sm.read j) ∧
  (∀ (s s1 s2 : State) (d a b : BitVec 6) (x y : Dword), Legal (.slotb d a b) s → ReadsC a s x s1 → ReadsC b s1 y s2 →
    x.toNat < 2 ^ 22 → bits x 15 10 = 0 → let v := x.toNat % 1024
    let n := x.toNat / 2 ^ 16
    1 ≤ v → v ≤ 512 → (s2.m.vf v).live = true → s2.m.corePart = some (s2.m.vf v).part → OwnBytes s2 y 32 → TakesS s2 d →
    let r := ownRead s2 y 32
    byteAt r 28 ≤ 3 → leAt r 29 3 = 0 → let old := s2.m.slot v n
    ∃ m, (m.slot v n).st = byteAt r 28 ∧ (byteAt r 28 ≠ 0 → (m.slot v n).nti = leAt r 0 8 ∧ (m.slot v n).cur = leAt r 24 4 ∧
        ∃ w, (m.slot v n).wgen (leAt r 24 4) = some w ∧ w.waddr = leAt r 8 8 ∧ w.wlen = leAt r 16 8) ∧
      (∀ j, j ≠ n → m.slot v j = s2.m.slot v j) ∧
      Gives (.slotb d a b) s d (BitVec.ofNat 64 (if old.st = 0 then 0 else old.cur)) { s2 with m := m }) ∧
  (∀ (s s1 s2 : State) (d a b : BitVec 6) (x y : Dword), Legal (.qcbb d a b) s → ReadsC a s x s1 → ReadsC b s1 y s2 →
    x.toNat % 64 = 0 → y.toNat < 2 ^ 29 → bits y 23 22 = 0 → bits y 15 10 = 0 → TakesS s2 d → let v := y.toNat % 1024
    let p := if v = 0 then bits y 28 24 else (s2.m.vf v).part
    let r := if s2.m.corePart = some p then qbDo s2.m (bits y 21 20) v (bits y 28 24) (bits y 19 16) x.toNat else (s2.m, 6)
    Gives (.qcbb d a b) s d (BitVec.ofNat 64 (if r.2 = 0 then 2 else 256 * r.2 + 3)) { s2 with m := r.1 }) ∧
  (∀ (s s1 s2 : State) (d a b : BitVec 6) (x y : Dword), Legal (.dmaq d a b) s → ReadsC a s x s1 → ReadsC b s1 y s2 →
    y.toNat < 2 ^ 20 → bits y 15 10 = 0 → y.toNat % 1024 ≤ 512 → OwnBytes s2 x 64 → TakesS s2 d → let v := y.toNat % 1024
    let j := y.toNat / 2 ^ 16
    let k := queueKey v j
    let q := s2.m.queue k
    let e := ownRead s2 x 64
    let serves := j < 8 ∧ v ≠ 0 ∧ (s2.m.vf v).live = true ∧ s2.m.corePart = some (s2.m.vf v).part ∧ q.st = 1 ∧ q.kind = 1
    let c := if ¬serves then 1 else if byteAt e 0 ≠ 6 then 2 else if 16 ≤ q.dmaq.length then 3 else 0
    ∃ m, (if c = 0 then m = s2.m.setQueue k { q with dmaq := q.dmaq ++ [e] } else m = s2.m) ∧
      Gives (.dmaq d a b) s d (BitVec.ofNat 64 c) { s2 with m := m }) ∧
  (∀ s : State, Legal .halt s → NoWait s → exec .halt s = .next (waiting s .halt))

/-- 08 R206, 17 R425: a step of a running stream engine. One asked to stop goes back to LOADED with its program; a mark pushes its
BASE; a row of S moves into the engine's queue when that has room, a row of the queue into S, and the engine goes on to its
next row; a row that is not aligned traps.
08 R204, R209, 07 R172, R174, 17 R429, R430: a channel copies the next 32 bytes of a copy within S and moves its WPOS; a
post that is next from its source is written at its destination, in S or in a queue bound for posts, and counts as received;
one to a full queue goes back to its source, which sends it again; a held post is delivered once its queue has room; a
transport failure ends the launch. -/
def Obligations.StreamAndPostEvents : Prop :=
  (∀ s : State, let a := s.arg.a
    let n := s.arg.b % 4
    let c := s.m.agent a
    let e := c.se n
    let k := e.q e.step
    let q := c.hq k
    let ad := ({ e with nest := if e.nest = [] then List.replicate (e.ndim e.step) 0 else e.nest } : SEng).rowAddr
    let fits := tagOfAddr ad = tagS ∧ ad.toNat % 32 = 0 ∧ inSpace ad 256 = true ∧ raceAt c 4 (offOf ad) 256 = none
    let moved := fun (items : List QItem) (pos : Nat) (t : State) => exec .streamRowTransfer s = .next t ∧
      (t.m.agent a).hq k = { q with items := items, pos := pos } ∧ (t.m.agent a).se n =
        { e.past with nextAt := (if e.rate = 0 then c.ctl.cyc else e.nextAt) + e.past.rate }
    s.m.runs a = true → e.st = 2 → e.halted = false → c.ctl.wait ≠ .yielded → e.nextAt ≤ c.ctl.cyc → Sound s.m a →
    (e.stop = true → ∃ t, exec .streamRowTransfer s = .next t ∧ (t.m.agent a).se n = { st := 1, prog := e.prog }) ∧
    (e.stop = false → e.kind e.step = 3 → q.items.length < hqDepth k →
      ∃ t, moved (q.items ++ [⟨⟨(e.base e.step).setWidth 2048, false⟩, 1, none⟩]) (q.pos + 1) t) ∧
    (e.stop = false → e.kind e.step = 1 → e.toSpace e.step = false → q.items.length < hqDepth k → fits →
      ∃ t, moved (q.items ++ [⟨⟨rowOfBytes (c.mem.sm.readList (offOf ad) 256), false⟩, 1, none⟩]) (q.pos + 1) t) ∧
    (e.stop = false → e.kind e.step = 1 → e.toSpace e.step = true → fits →
      ∀ x rest, q.items = x :: rest → x.row.p = false → x.err = none →
        ∃ t, moved rest q.pos t ∧ Stored c.mem.sm (t.m.agent a).mem.sm (offOf ad) (rowBytes x.row.v)) ∧
    (e.stop = false → e.kind e.step = 1 → e.toSpace e.step = false → q.items.length < hqDepth k → ad.toNat % 32 ≠ 0 →
      ∃ t, exec .streamRowTransfer s = .next t ∧ ⟨0x0B, ad, n⟩ ∈ (t.m.agent a).ctl.ptraps ∧ ((t.m.agent a).se n).halted = true)) ∧
  ((∀ (s : State) (x : CCmd) (rest : List CCmd), let a := s.arg.a
    let n := s.arg.b % 2
    let c := s.m.agent a
    let k := min 32 (x.len - x.done)
    let src := x.src + BitVec.ofNat 64 x.done
    let dst := x.dst + BitVec.ofNat 64 x.done
    s.m.runs a = true → (c.chan n).cmds = x :: rest → (c.chan n).halted = false → x.op = 0 → x.done < x.len → Sound s.m a →
    x.ctl.getLsbD 36 = false → tagOfAddr x.src = tagS → tagOfAddr src = tagS → tagOfAddr dst = tagS →
    raceAt c (2 + n) (offOf src) k = none → raceAt c (2 + n) (offOf dst) k = none →
    ∃ t, exec .copyChannelTransfer s = .next t ∧ let c' := t.m.agent a
      Stored c.mem.sm c'.mem.sm (offOf dst) (c.mem.sm.readList (offOf src) k) ∧
      c'.csr true (0x044 + n) = c.csr true (0x044 + n) + BitVec.ofNat 64 k ∧
      (c'.chan n).cmds = if x.len ≤ x.done + k ∧ x.wait = [] then rest else { x with done := x.done + k } :: rest) ∧
  (∀ (s : State) (p : Pkt) (rest : List Pkt), let a := s.arg.a
    let c := s.m.agent a
    let n := p.addr.toNat % 16
    let q := c.hq n
    let rows := rowsOf 2 p.data
    s.m.netOf a = p :: rest → s.m.clocked (dieOf a) = true → s.m.hasLaunch p.task.launch = true → c.eng.ihalt = false → s.m.takes a p.task = true →
    p.seq = seqNext (c.rcvd p.srcKey) → c.ctl.wait ≠ .ended →
    (heldFor s.m p.task = [] → p.ctl.getLsbD 36 = false → tagOfAddr p.addr = tagS →
      raceAt c p.code (offOf p.addr) p.data.length = none → Sound s.m a →
      ∃ t, exec .postArrival s = .next t ∧ t.m.netOf a = rest ∧ (t.m.agent a).rcvd p.srcKey = p.seq ∧
        Stored c.mem.sm (t.m.agent a).mem.sm (offOf p.addr) p.data) ∧
    (p.ctl.getLsbD 36 = true → p.kind = 0 → q.bound = true → q.prod = 5 →
      (heldFor s.m p.task = [] → q.items.length + rows.length ≤ hqDepth n → Unarmed s.m (panelOf a) →
        ∃ t, exec .postArrival s = .next t ∧ t.m.netOf a = rest ∧ (t.m.agent a).rcvd p.srcKey = p.seq ∧
          (t.m.agent a).hq n = { q with items := q.items ++ rows.map fun r => ⟨⟨r, p.poison⟩, 2, none⟩, pos := q.pos + rows.length }) ∧
      (hqDepth n < q.items.length + rows.length → p.src < 2048 → let back : TaskId := ⟨p.task.launch, p.srcTask⟩
        ∃ t, exec .postArrival s = .next t ∧ t.m.netOf a = rest ∧
          (t.m.taskCore back).eng.posts = (s.m.taskCore back).eng.posts ++ [p]))) ∧
  (∀ (s : State) (p : Pkt) (rest : List Pkt) (b : Nat), let a := s.arg.a
    (s.m.agent a).eng.posts = p :: rest → s.m.runs a = true → s.m.hasLaunch p.task.launch = true → s.m.placeOf p.task = some b →
    ∃ t, exec .packetResend s = .next t ∧ (t.m.agent a).eng.posts = rest ∧ t.m.netOf b = s.m.netOf b ++ [p]) ∧
  (∀ (s : State) (p : Pkt) (k : TaskId), let a := s.arg.a
    let c := s.m.agent a
    let n := p.addr.toNat % 16
    let q := c.hq n
    let rows := rowsOf 2 p.data
    c.ctl.task = some k → s.m.takes a k = true → c.eng.ihalt = false → Unarmed s.m (panelOf a) → heldFor s.m k = [p] → p.err = none → p.seq = seqNext (c.rcvd p.srcKey) → c.ctl.wait ≠ .ended →
    p.ctl.getLsbD 36 = true → p.kind = 0 → q.bound = true → q.prod = 5 → q.items.length + rows.length ≤ hqDepth n →
    ∃ t, exec .inboxHeldDelivery s = .next t ∧ heldFor t.m k = [] ∧ (t.m.agent a).rcvd p.srcKey = p.seq ∧
      (t.m.agent a).hq n = { q with items := q.items ++ rows.map fun r => ⟨⟨r, p.poison⟩, 2, none⟩, pos := q.pos + rows.length }) ∧
  (∀ (s : State) (x : CCmd) (rest : List CCmd) (k : TaskId), let c := s.m.agent s.arg.a
    (c.chan (s.arg.b % 2)).cmds = x :: rest → c.ctl.task = some k → x.op = 0 → tagOfAddr x.src = tagFabric →
    ∃ t, exec .fabricTransportFailure s = .next t ∧ t.m.hasLaunch k.launch = false))

/-- 11 R261, 05 R121, 18 R445: the arrival that a BAR asked for is recorded once every post that the task issued before it is answered and no
ownership word is under way; the last arrival of a gang raises PHASE1 of each of its tasks.
15 R368, R370, 10 R252, Table 10-7: the home answers an ownership word. OWNA takes a FREE region of the VF, OWNX hands one of its
task's on, OWNS shares it, OWNF frees it, OWNQ changes nothing and brings the state word; what the table does not list is a
refusal and changes nothing. -/
def Obligations.ArrivalsAndOwnershipReplies : Prop :=
  (∀ (s : State) (k : TaskId) (mark : Nat), let a := s.arg.a
    let c := s.m.agent a
    let l := s.m.launch k.launch
    let g := l.gangOf k.task
    isTileAgent a = true → c.ctl.task = some k → (s.arg.b, mark) ∈ c.ctl.arrReq → c.ctl.own = none →
    (∀ e ∈ c.eng.ch, ∀ x ∈ e.2.cmds, x.op = 0 ∨ mark ≤ x.id) →
    (∀ j, (s.m.launch j).phaseHold = false ∧ ∀ g, ((s.m.launch j).gang g).toPhase = false) →
    let recorded := fun (t : State) (v : Nat) => arrived t.m k v = true ∧ ∀ e ∈ (t.m.agent a).ctl.arrReq, e.1 ≠ v
    let open1 := fun u => u ≠ k.task ∧ u ∉ SMap.get (fun _ => []) l.arr1 g ∧ taskIsDone s.m ⟨k.launch, u⟩ = false
    (s.arg.b = 1 → (∃ u ∈ l.gangTasks g, open1 u) →
      ∃ t, exec .barrierArrival s = .next t ∧ recorded t 1) ∧
    (s.arg.b = 1 → (∀ u ∈ l.gangTasks g, ¬open1 u) → (l.gangSites g).Nodup → (l.gang g).onSites = true →
      ∃ t, exec .barrierArrival s = .next t ∧ ∀ x ∈ l.gangSites g,
        (t.m.agent x).csr true 0x035 = BitVec.ofNat 64 ((((s.m.agent x).csr true 0x035).toNat + 1) % 2 ^ 32)) ∧
    (s.arg.b = 2 → (∃ u, u < l.tasks ∧ u ≠ k.task ∧ u ∉ l.arr2 ∧ taskIsDone s.m ⟨k.launch, u⟩ = false) →
      ∃ t, exec .barrierArrival s = .next t ∧ recorded t 2) ∧
    (s.arg.b = 3 → (let d : Dom := SMap.get (fun _ => {}) (s.m.partn l.part).doms l.img.domid
        d.members.length ≠ d.l) →
      ∃ t, exec .barrierArrival s = .next t ∧ recorded t 3)) ∧
  (∀ (s : State) (k : TaskId) (r : OwnReq), let a := s.arg.a
    let c := s.m.agent a
    let e := s.m.region c.ctl.part r.reg
    c.ctl.task = some k → k.task < 2 ^ 20 → c.ctl.own = some r → r.reply = none → r.sent.isSome = true → r.arg < 2 ^ 20 →
    asksBehind s.m c = false → r.op = 4 ∨ regionHeld s.m c.ctl.part r.reg = false →
    let answers := fun (e' : RegionE) => ∃ t, exec .ownershipReply s = .next t ∧ t.m.region c.ctl.part r.reg = e' ∧
      (t.m.agent a).ctl.own = some { r with reply := some (false, 0) }
    let mine := e.st = 2 ∧ e.vfn = c.ctl.vf ∧ e.lnch = k.launch % 2 ^ 24 ∧ e.task = k.task
    (r.op = 0 → mine → answers { e with st := 5, hold := 0, task := r.arg }) ∧
    (r.op = 1 → e.st = 1 → e.vfn = c.ctl.vf →
      answers { e with st := 2, hold := 0, task := k.task, lnch := k.launch % 2 ^ 24 }) ∧
    (r.op = 2 → mine → answers { e with st := if r.arg = 1 then 4 else 3, task := 0, lnch := 0 }) ∧
    (r.op = 3 → mine → answers { e with st := 1, pin := false, hold := 0, task := 0, lnch := 0 }) ∧
    (r.op = 4 → ∃ t, exec .ownershipReply s = .next t ∧ t.m.sys = s.m.sys ∧
      (t.m.agent a).ctl.own = some { r with reply := some (false, BitVec.ofNat 64 (ownqValue e c.ctl.vf k)) }) ∧
    (((r.op = 0 ∨ r.op = 2) ∧ ¬mine) ∨ (r.op = 1 ∧ e.st ∉ [1, 2, 5]) ∨ (r.op = 3 ∧ e.st ∉ [2, 3, 4]) →
      ∃ t, exec .ownershipReply s = .next t ∧ t.m.sys = s.m.sys ∧
        (t.m.agent a).ctl.own = some { r with reply := some (true, r.ea) }))

/-- 11 R271-R273: a gate record whose token lies in the window and finds its slots EMPTY makes each GATED with its experts and
gates; one for slots that hold the token already counts as a duplicate, one below the window as late. A put of an expert that
the slot expects sets its bit and stores its row, and settles the slot when it is the last; one that came before counts as a
duplicate, one that is not expected as stray. A refused packet is sent to its panel again, and counts as refused until it is accepted.
11 R276-R279: a slot timer that has run out settles its slot as substituted, under FAULT it holds it and raises 0x0A for the owner;
a settled slot is combined and written, and the release count rises with the token's last slab.
11 R285: a spilled set comes back to an index of its stripe panels. -/
def Obligations.SeamEvents : Prop :=
  (∀ (s : State) (k : Pkt) (rest : List Pkt) (sk : Nat) (set : SeamSet), let p := s.arg.a % 32
    let tok := seamToken k
    let at_ := fun j => slotKey j (set.ix tok)
    NextAtPanel s.m p 1 k rest sk set → Unarmed s.m p →
    (set.wb ≤ tok → tok < set.wb + set.win → (∀ j ∈ set.slabsAt p, (set.slot (at_ j)).token = tok ∧ (set.slot (at_ j)).st = 0) →
      ∃ t, exec .gateRecordArrival s = .next t ∧ SMap.get (fun _ => 0) (t.m.panel p).last (taskKey k.task) = k.seq ∧
        ∀ j ∈ set.slabsAt p, let z := (t.m.set_ sk).slot (at_ j)
          z.token = tok ∧ z.st = 1 ∧ z.arr = 0 ∧ z.eidx = k.extra.take (descK set.desc) ∧ z.gates = k.extra.drop (descK set.desc)) ∧
    (set.wb ≤ tok → tok < set.wb + set.win → (∃ j ∈ set.slabsAt p, (set.slot (at_ j)).token = tok ∧ (set.slot (at_ j)).st ≠ 0) →
      ∃ t, exec .gateRecordArrival s = .next t ∧ t.m.set_ sk = { set with dup := min (set.dup + 1) 0xFFFF }) ∧
    (tok < set.wb → ∃ t, exec .gateRecordArrival s = .next t ∧ t.m.set_ sk = { set with late := min (set.late + 1) 0xFFFF })) ∧
  (∀ (s : State) (k : Pkt) (rest : List Pkt) (sk : Nat) (set : SeamSet), let p := s.arg.a % 32
    let tok := seamToken k
    let i := slotKey (seamSlab k) (set.ix tok)
    let x := set.slot i
    NextAtPanel s.m p 2 k rest sk set → Unarmed s.m p → seamSlab k < descNSlab set.desc → set.panelFor (seamSlab k) = p →
    set.wb ≤ tok → tok < set.wb + set.win → x.token = tok → x.st = 1 → x.subst = false →
    (∀ b, x.eidx[b]? = some (seamExpert k) → (∀ c, c < b → x.eidx[c]? ≠ some (seamExpert k)) →
      (Nat.testBit x.arr b = false → let arr := x.arr + 2 ^ b
        ∃ t, exec .putArrival s = .next t ∧ SMap.get (fun _ => 0) (t.m.panel p).last (taskKey k.task) = k.seq ∧
          let z := (t.m.set_ sk).slot i
          z.arr = arr ∧ SMap.get (fun _ => []) z.rows b = k.extra ∧ z.eidx = x.eidx ∧ z.gates = x.gates ∧
          z.st = if arr = 2 ^ descK set.desc - 1 then (if descArrival set.desc = false ∧ tok ≠ set.wb then 2 else 4) else 1) ∧
      (Nat.testBit x.arr b = true →
        ∃ t, exec .putArrival s = .next t ∧ t.m.set_ sk = { set with dup := min (set.dup + 1) 0xFFFF })) ∧
    (seamExpert k ∉ x.eidx →
      ∃ t, exec .putArrival s = .next t ∧ t.m.set_ sk = { set with stray := min (set.stray + 1) 0xFFFF })) ∧
  (∀ (s : State) (k : TaskId) (p : SPkt), let a := s.arg.a
    (s.m.agent a).ctl.task = some k → (s.m.agent a).eng.pkts.find? (fun q => q.again) = some p → s.m.runs a = true →
    ∃ t, exec .seamResend s = .next t ∧ (t.m.panel p.panel).inq = (s.m.panel p.panel).inq ++ [p.pkt a k] ∧
      (∀ q ∈ (t.m.agent a).eng.pkts, q.panel = p.panel → q.seq = p.seq → q.again = false) ∧
      (t.m.agent a).eng.pkts.map (fun q => q.refused) = (s.m.agent a).eng.pkts.map fun q => q.refused) ∧
  (∀ (s : State) (sk : Nat), let set := s.m.set_ sk
    let x := set.slot s.arg.c
    setAt s.m (s.arg.a % 32) (s.arg.b % 16) = some sk → set.panelFor (s.arg.c / 65536) = s.arg.a % 32 →
    set.isOpen = true → set.spl = false → x.st = 1 → x.timer = some 0 →
    (descPol set.desc ≠ 2 → ∃ t, exec .seamTimeout s = .next t ∧ (t.m.set_ sk).substN = min (set.substN + 1) 0xFFFF ∧
      (t.m.set_ sk).slot s.arg.c = { x with
        st := if descArrival set.desc = false ∧ x.token ≠ set.wb then 2 else 4
        timer := none, subst := true, renorm := descPol set.desc == 1, stamp := 2 * s.m.sys.ns + 2 }) ∧
    (descPol set.desc = 2 → taskIsDone s.m set.owner_ = false → (s.m.taskCore set.owner_).eng.closing ≠ some sk →
      ∃ t, exec .seamTimeout s = .next t ∧ (t.m.set_ sk).slot s.arg.c = { x with st := 3, timer := none } ∧
        ⟨0x0A, BitVec.ofNat 64 x.token, 7⟩ ∈ (t.m.taskCore set.owner_).ctl.ptraps)) ∧
  (∀ (s : State) (sk pa : Nat), let p := s.arg.a % 32
    let set := s.m.set_ sk
    let d := set.desc
    let x := set.slot s.arg.c
    let l := s.m.launch set.launch
    let r := combine d x
    let bs := r.1.flatMap fun v => leBytes v (descOSz d)
    let va := wrapN 60 ((offOf (descDBase d) : Int) + (x.token - set.tbase : Nat) * descDStr d + (s.arg.c / 65536 * descOut d : Nat)) % 2 ^ 49
    ClockedPanel s.m p → settledBefore s.m p sk s.arg.c = [] → set.panelFor (s.arg.c / 65536) = p →
    setAt s.m p (s.arg.b % 16) = some sk → set.spl = false → x.st = 4 → x.errs = [] → descDKind d = 0 →
    (s.m.taskCore set.owner_).eng.xhalt = false →
    (translateAll s.m (ccOf p) l.part 0 accWrite (pageSpans va bs.length)).1 = .ok [(pa, bs.length)] →
    s.m.stalled [(pa, bs.length)] = false → rightsOk s.m l.part l.vf set.owner_ .write [(pa, bs.length)] = true →
    keyErased s.m pa = false →
    ∃ t, exec .slotRelease s = .next t ∧ Stored s.m.sys.hbm t.m.sys.hbm pa bs ∧
      (t.m.set_ sk).rcnt = (if SMap.get (fun _ => 0) set.rel x.token + 1 = descNSlab d then set.rcnt + 1 else set.rcnt) ∧
      (t.m.set_ sk).ovf = (set.ovf || r.2.1) ∧ (t.m.set_ sk).nv = (set.nv || r.2.2)) ∧
  (∀ (s : State) (sk i : Nat) (set : SeamSet),
    s.m.sys.sets.find? (fun e => e.2.isOpen && e.2.spl && e.1 % 2 ^ 17 / 256 == s.arg.a % 32 * 16 + s.arg.b % 16) = some (sk, set) →
    seamStalled s.m sk set.place = false → seamFit s.m set.desc = .ok i →
    ∃ t, exec .seamRefill s = .next t ∧ (t.m.set_ sk).spl = false ∧
      ∀ p ∈ descStripe set.desc, SMap.get (fun _ => 0) (t.m.panel p).setOf i = sk + 1)

/-- 17 R437: once every participant has joined, the service reduces the contributions in increasing rank, writes the result to
each participant's buffer and tells each; where the descriptors differ, each is told 1 and nothing is written. -/
def Obligations.CollectiveCompletes : Prop :=
  ∀ s : State, let k := s.arg.a
    let c := s.m.coll k
    let n := collBytes c.desc
    let told := fun (t : State) (v : Nat) => (∀ j ∈ c.joined, ∀ l u id b rb regs, j.2 = l :: u :: id :: b :: rb :: regs →
      SMap.get (fun _ => 0) (t.m.taskCore ⟨l, u⟩).eng.colls id = 2 * (v + 1)) ∧ t.m.coll k = {}
    c.desc ≠ [] → collFull s.m c = true → collLevel c.desc ≠ 4 →
    (c.mism = true → ∃ t, exec .collectiveComplete s = .next t ∧ told t 1) ∧
    (∀ pa : Nat → Nat, c.mism = false → collOp c.desc ≤ 2 → let part := collPart s.m c
      (∀ j ∈ c.joined, (∃ l u id b rb regs, j.2 = l :: u :: id :: b :: rb :: regs ∧ (∀ r ∈ regs, r < 196608) ∧
        OnePiece s.m part b n accRead (pa j.1) ∧ OnePiece s.m part b n accWrite (pa j.1)) ∧
        OffTables s.m (pa j.1) n ∧ keyErased s.m (pa j.1) = false ∧ s.m.stalled [(pa j.1, n)] = false) →
      (∀ j ∈ c.joined, ∀ j' ∈ c.joined, j ≠ j' → pa j.1 + n ≤ pa j'.1 ∨ pa j'.1 + n ≤ pa j.1) →
      let r := reduceAll (collOp c.desc) (collType c.desc)
        (c.joined.map fun j => elems (collSize c.desc) (collCount c.desc) (s.m.sys.hbm.readList (pa j.1) n))
      ∃ t, exec .collectiveComplete s = .next t ∧ told t ((if r.2.1 then 256 else 0) + if r.2.2 then 512 else 0) ∧
        ∀ j ∈ c.joined, t.m.sys.hbm.readList (pa j.1) n = r.1.flatMap fun v => leBytes v (collSize c.desc))

/-- 02 R34-R37, R39, R42, R44, R45, 01 R17, R22: bring-up and trust. A cold start leaves every register and memory as Table 2-5 says and
boots the flash image or stops in phase 1 with the cause; GO writes and boots a good recovery image, WSREQ asks for a warm
start, which the monitor refuses while a preserved partition has an admitted launch; a die comes up, is calibrated; SVNUP
raises the floor no higher than the running image; a report carries the caller's nonce; failed links and lanes are kept.
06 R148-R152, 02 R31, R32, 09 R220, 05 R128, 10 R242, 04 R91, R110, 01 R4: power, heat and registers. A sample stores the sensors'
readings and sets the thermal caps, above 115 °C it shuts the package down; a restarted clock has its new level; writes of
TEMPTAB, SLCTL, PTROOT and of registers without behaviour; the watchdog fires or restarts its core; the host enables VFs and
takes them away, one by one as no other's copy runs over their regions. The host reads PSMAP and what was written, and zeros of a write-only
register. -/
def Obligations.BringUpAndRegisterEvents : Prop :=
  ((∀ s : State, ∃ t, exec .coldStart s = .next t ∧ t.bundle = none ∧ t.turns = [] ∧ t.m.me = 1152 ∧ t.m.core = {} ∧ t.m.rest = [] ∧
    t.m.sys.hbm = [] ∧ t.m.sys.parts = [] ∧ t.m.sys.vfs = [] ∧ t.m.sys.queues = [] ∧ t.m.sys.keys = [] ∧ t.m.sys.launches = [] ∧
    t.m.sys.host = s.m.sys.host ∧ t.m.boot.flash = s.m.boot.flash ∧ minSvn t.m = minSvn s.m ∧
    (∀ d, d < 8 → t.m.die d = { wait := true }) ∧
    ((t.m.boot.phase = 2 ∧ t.m.boot.fail = 0 ∧ imgCheck s.m s.m.boot.image = 0 ∧ t.m.sys.svn = some (imgSvn s.m.boot.image)) ∨
      (t.m.boot.phase = 1 ∧ (t.m.boot.fail = 6 ∨ (t.m.boot.fail = imgCheck s.m s.m.boot.image ∧ t.m.boot.fail ≠ 0))))) ∧
  (∀ s : State, let b := s.m.boot
    let w := b.window.readList 0 (2 ^ 20)
    (b.phase ≠ 1 → exec .bstatGo s = .next s) ∧
    (b.phase = 1 → imgCheck s.m w = 0 → ∃ t, exec .bstatGo s = .next t ∧ t.m.sys.svn = some (imgSvn w) ∧
      t.m.boot = { b with phase := if b.last then 3 else 2, fail := 0, flash := some (w.take (4096 + imgLen w)), window := [] }) ∧
    (b.phase = 1 → imgCheck s.m w ≠ 0 → ∃ t, exec .bstatGo s = .next t ∧ t.m.boot = { b with fail := imgCheck s.m w }) ∧
    (b.res ≠ 3 → ∃ t, exec .wsreqGo s = .next t ∧ t.m.boot = { b with res := 3 }) ∧
    (b.res = 3 → exec .wsreqGo s = .next s)) ∧
  (∀ s : State, s.m.boot.res = 3 → let busy := ∃ e ∈ s.m.sys.launches, e.2.st = 2 ∧ preserved s.m e.2.part = true
    (busy → ∃ t, exec .warmStartDecision s = .next t ∧ t.m.boot.res = 2 ∧ t.m.core = s.m.core ∧ t.m.rest = s.m.rest) ∧
    (¬busy → (∀ e ∈ s.m.sys.copies, e.2.req ≠ 2) → ∃ t, exec .warmStartDecision s = .next t ∧ t.bundle = none ∧
      t.m.boot.res = 1 ∧ t.m.boot.warm = true ∧ (t.m.boot.phase = 3 ∨ (t.m.boot.phase = 1 ∧ t.m.boot.fail ≠ 0)) ∧
      (∀ a, a < 1152 → t.m.agent a = {}) ∧ (∀ d, d < 8 → (t.m.die d).cal = calServes s.m d ∧ (t.m.die d).rdy = false) ∧
      (∀ e ∈ t.m.sys.launches, e.2.st < 2) ∧ (∀ e ∈ t.m.sys.queues, e.2.st = 2) ∧
      ∀ p, ((t.m.partn p).used = true → preserved s.m p = true) ∧ (preserved s.m p = true → (t.m.partn p).used = true))) ∧
  (∀ s : State, let d := s.arg.a
    (d < 8 → ∃ t, exec .dieReady s = .next t ∧ t.m.die d = { s.m.die d with wait := false, rdy := s.arg.b != 0 } ∧
      (s.m.boot.phase = 3 → (∀ k, k < 8 → k ≠ d → (s.m.die k).wait = false) → t.m.boot.phase = 2)) ∧
    (d < 8 → (s.m.die d).rdy = true → (s.m.die d).cal = false → ∃ t, exec .calibrationComplete s = .next t ∧
      (t.m.die d).cal = true ∧ (t.m.die d).calAt = dieTemp s.m d ∧
      (∀ n, n < 5 → t.m.ccCsr (4 * d) (0x880 + n) = ttClamp n (s.arg.dwords.getD n 0)) ∧
      ∀ a w k, a < 1152 → dieOf a = d → ((t.m.agent a).group w k).v = true → ((t.m.agent a).group w k).age = 0)) ∧
  (∀ s : State, let x := s.arg.v.toNat % 2 ^ 32
    (minSvn s.m < x → x ≤ runSvn s.m → ∃ t, exec .svnupWrite s = .next t ∧ minSvn t.m = x) ∧
    (x ≤ minSvn s.m ∨ runSvn s.m < x → exec .svnupWrite s = .next s)) ∧
  (∀ s : State, ∃ t r, exec .attestationRequest s = .next t ∧ t.m.sys.out = s.m.sys.out ++ [⟨2, 1, 0, r⟩] ∧
    leAt r 0 3 = 0x14C10 ∧ leAt r 4 4 = runSvn s.m % 2 ^ 32 ∧
    (s.arg.bytes.length = 32 → (r.drop 8).take 32 = s.arg.bytes ∧ byteAt r 3 < 128) ∧
    (s.arg.bytes.length ≠ 32 → 128 ≤ byteAt r 3 ∧ r.drop (r.length - 2420) = List.replicate 2420 0)) ∧
  (∀ s : State, ∃ t, exec .certificateRequest s = .next t ∧ t.m.sys.out = s.m.sys.out ++ [⟨2, 2, 0, Config.certificate⟩]) ∧
  (∀ s : State, (s.arg.a, s.arg.b) ∈ ucieLinks ∨ (s.arg.b, s.arg.a) ∈ ucieLinks → ∃ t, exec .ucieLinkFailure s = .next t ∧
    ∀ d ∈ [s.arg.a, s.arg.b], d < 8 → t.m.die d = { s.m.die d with fail := true } ∧ (t.m.die d).reduced = true) ∧
  (∀ s : State, s.arg.a < 4 → ∃ t, exec .ualinkLaneFailure s = .next t ∧ t.m.portWidth s.arg.a = 2 ∧
    t.m.sys.out = s.m.sys.out ++ [⟨7, s.arg.a, 2, []⟩])) ∧
  ((∀ s : State, s.arg.ints.length = 32 → 8 ≤ s.arg.ints2.length → ∃ t, exec .sensorSample s = .next t ∧
    (s.arg.ints2.length = 10 → t.m.sys.ioTemp = s.arg.ints2.drop 8) ∧
    (∀ p, p < 32 → (t.m.panel p).temp = s.arg.ints.getD p 0) ∧ (∀ k, k < 8 → (t.m.stack k).temp = s.arg.ints2.getD k 0) ∧
    ((∃ x ∈ s.arg.ints, (460 : Int) < x) → t.m.boot.trip = true) ∧
    ((∀ x ∈ s.arg.ints, x ≤ (460 : Int)) → ∀ d, d < 8 → ((t.m.die d).reduced = true → 3 ≤ (t.m.die d).grant) ∧
      (421 ≤ dieTemp t.m d → (t.m.die d).tcap = 3) ∧ (dieTemp t.m d ≤ 353 → (t.m.die d).tcap = 0))) ∧
  (∀ (s : State) (l : Nat), (s.m.die s.arg.a).pend = some l → ∃ t, exec .clockRestart s = .next t ∧
    t.m.die s.arg.a = { s.m.die s.arg.a with lvl := l, pend := none, c0At := s.m.sys.ns }) ∧
  (∀ s : State, s.arg.b < 5 → ∃ t, exec .temptabWrite s = .next t ∧ ∀ c, c < 4 →
    bits (t.m.ccCsr (s.arg.a / 4 * 4) (0x880 + s.arg.b)) (16 * c + 11) (16 * c) =
      max (floorOf s.arg.b c) (min (bits s.arg.v (16 * c + 11) (16 * c)) 4000)) ∧
  (∀ s : State, (s.m.leads s.arg.a = none → exec .slctlWrite s = .next s ∧ exec .ptrootWrite s = .next s) ∧
    ∀ part, s.m.leads s.arg.a = some part →
      (∃ t, exec .slctlWrite s = .next t ∧ t.m.ccCsr s.arg.a 0x850 &&& 0x1F1 = s.arg.v &&& 0x1F1) ∧
      ∃ t, exec .ptrootWrite s = .next t ∧ (t.m.partn part).ptroot = s.arg.v &&& 0xFFFFFFFFE001 ∧
        ∀ p ∈ panelsOf (s.m.partn part).mask, (t.m.panel p).walkc = [] ∧ ∀ a, a < 1152 → panelOf a = p → (t.m.agent a).eng.tlb = []) ∧
  (∀ s : State, let p := s.arg.a
    p < 32 → (s.m.panel p).wdAt ≤ s.m.sys.ns → (s.m.agent (ccOf p)).ctl.wait ≠ .halt →
    ((s.m.panel p).wd = false → ∃ t, exec .watchdogExpiry s = .next t ∧ (t.m.panel p).wd = true ∧
      (t.m.panel p).wdAt = (s.m.panel p).wdAt + 1000 * max 10 ((s.m.ccCsr p 0x814).toNat % 2 ^ 16)) ∧
    ((s.m.panel p).wd = true → ∃ t, exec .watchdogExpiry s = .next t ∧ (t.m.panel p).wd = false ∧
      (t.m.agent (ccOf p)).rf = { csr := temptabOf (s.m.agent (ccOf p)) } ∧ (t.m.agent (ccOf p)).ctl = {} ∧ (t.m.agent (ccOf p)).mem = (s.m.agent (ccOf p)).mem)) ∧
  (∀ s : State, ∃ t, exec .wdack s = .next t ∧ t.m = s.m.modPanel s.arg.a fun x => { x with wd := false }) ∧
  (∀ s : State, let n := s.arg.a
    (n = 0 → s.arg.b ∈ [0x308, 0x310, 0x318, 0x320] → ∃ t, exec .registerWrite s = .next t ∧ t.m.reg s.arg.b = s.arg.v ∧
      ∀ o, o ≠ s.arg.b → t.m.reg o = s.m.reg o) ∧
    (n = 0 → s.arg.b = 0x208 → ∃ t, exec .registerWrite s = .next t ∧ t.m.reg 0x208 = s.arg.v &&& 0xFFFFFFFFFFFFFFC0 ∧
      ∀ o, o ≠ 0x208 → t.m.reg o = s.m.reg o) ∧
    (n = 0 → s.arg.b = 0x200 → (qbBusy s.m = true → exec .registerWrite s = .next s) ∧
      (qbBusy s.m = false → ∃ t, exec .registerWrite s = .next t ∧ t.m.reg 0x200 = s.arg.v &&& 0x000303FF001F000F ∧
        t.m.reg 0x210 = if s.arg.v.getLsbD 63 then 1 else s.m.reg 0x210)) ∧
    (n = 0 → s.arg.b ∈ [0x210, 0x328, 0x390, 0x508, 0x528] → exec .registerWrite s = .next s) ∧
    (s.m.sys.vfCount < n → exec .registerWrite s = .next s) ∧
    (0 < n → n ≤ s.m.sys.vfCount → (s.m.vf n).live = true → ∃ t, exec .registerWrite { s with arg := { s.arg with b := 0x8008 } } = .next t ∧
      t.m.vf n = { s.m.vf n with hbbase := s.arg.v })) ∧
  (∀ (m : Mach) (k : Nat), (k < 8 → registerRead m 0 (0x340 + 8 * k) = (0, m)) ∧
    (k < 32 → registerRead m 0 (0x400 + 8 * k) = (m.psmap k, m)) ∧ registerRead m 0 0x520 = (m.reg 0x520, elqRead m)) ∧
  (∀ s : State, s.m.sys.vfLow = none → (s.m.sys.vfCount ≤ s.arg.a → exec .vfCountLowered s = .next s) ∧
    (s.arg.a < s.m.sys.vfCount → ∃ t, exec .vfCountLowered s = .next t ∧ t.m.sys.vfCount = s.arg.a ∧
      ((∀ n r, foreignHold s.m n r = false) → ∀ n, s.arg.a < n → (t.m.vf n).live = false)) ∧
    (s.m.boot.phase = 1 → exec .sriovVfEnable s = .next s) ∧
    (s.m.boot.phase ≠ 1 → s.m.sys.vfCount ≤ s.arg.a → s.arg.a ≤ 512 → ∃ t, exec .sriovVfEnable s = .next t ∧ t.m.sys.vfCount = s.arg.a)))


/-- 03 R48-R55, R58-R60, R72-R76, Tables 3-5 to 3-9: the queues of the host. A doorbell is recorded, and read where the queue is
BOUND; NOP, MARK, FENCE, SIGNAL and WAIT end with their records, a FENCE once the earlier commands have; a WAIT waits for its
semaphore or word and ends with STATUS 7 after its time, also while its word is not mapped; COPYH holds the FREE regions it names; a
full ring is polled; BIND, REBIND, DETACH and RELEASE move a queue between its states or are refused with a cause, and REBIND writes
the records that wait. -/
def Obligations.HostQueueEvents : Prop :=
  (∀ s : State, let k := queueKey s.arg.a s.arg.b
    let q := s.m.queue k
    let tail := s.m.sys.host.readNat (q.qcba + 48) 4
    s.arg.b < 8 → s.arg.a ≤ 512 → s.arg.a = 0 ∨ (s.m.vf s.arg.a).live = true →
    (s.arg.c ≠ 0 → ∃ t, exec .doorbell s = .next t ∧ t.m.queue k = { q with dbl := true, st := if q.st = 1 then 3 else q.st }) ∧
    (s.arg.c = 0 → (queueRuns s.m k = false → ∃ t, exec .doorbell s = .next t ∧ t.m.queue k = { q with dbl := true }) ∧
    (queueRuns s.m k = true → cntDiff tail q.head ≤ 2 ^ q.rsize →
      ∃ t, exec .doorbell s = .next t ∧ t.m.queue k = { q with tail := tail, dbl := false }) ∧
    (queueRuns s.m k = true → 2 ^ q.rsize < cntDiff tail q.head → ∃ t, exec .doorbell s = .next t ∧ (t.m.queue k).st = 3))) ∧
  (∀ (s : State) (b : List Byte), AtHead s.m s.arg.a s.arg.b b → let k := queueKey s.arg.a s.arg.b
    let q := s.m.queue k
    let c := cmdOf q b
    let part := queuePart s.m k
    let n := leAt b 16 4
    (byteAt b 0 = 0 → argOf b = 0 → zeroAt b 8 56 = true → ∃ t, exec .nopCommand s = .next t ∧ Ended s.m t.m k 1 c 0 0 0 0) ∧
    (byteAt b 0 = 0 → argOf b ≠ 0 → ∃ t, exec .nopCommand s = .next t ∧ Ended s.m t.m k 1 c 2 0 0 0) ∧
    (byteAt b 0 = 10 → argOf b = 0 → zeroAt b 16 48 = true →
      ∃ t, exec .mark s = .next t ∧ Ended s.m t.m k 1 c 0 0 0 (leAt b 8 8)) ∧
    (byteAt b 0 = 9 → argOf b = 0 → zeroAt b 8 56 = true →
      (q.started = [] → ∃ t, exec .fenceCommand s = .next t ∧ Ended s.m t.m k 1 c 0 0 0 0) ∧
      (q.started ≠ [] → exec .fenceCommand s = .next s)) ∧
    (byteAt b 0 = 7 → argOf b = 0 → semForm k b = true → zeroAt b 20 44 = true →
      ∀ p i, cmdSem s.m k b = some (p, i) → (s.m.sem p i).waiters = [] → ∃ t, exec .signal s = .next t ∧
        t.m.sem p i = { s.m.sem p i with count := min ((s.m.sem p i).count + n) 0xFFFFFFFF } ∧ Ended s.m t.m k 1 c 0 0 0 0) ∧
    (byteAt b 0 = 7 → argOf b = 1 → zeroAt b 24 40 = true → leAt b 8 8 % 8 = 0 → waitsMap s.m k = false →
      (∀ pa, sigWord s.m part (k / 16) (leAt b 8 8) accWrite = .ok pa → keyErased s.m pa = false → ∃ t, exec .signal s = .next t ∧
        Stored s.m.sys.hbm t.m.sys.hbm pa (leBytes (leAt b 16 8) 8) ∧ Ended s.m t.m k 1 c 0 0 0 0) ∧
      (sigWord s.m part (k / 16) (leAt b 8 8) accWrite = .bad →
        ∃ t, exec .signal s = .next t ∧ t.m.sys.hbm = s.m.sys.hbm ∧ Ended s.m t.m k 1 c 5 0 0 0)) ∧
    (byteAt b 0 = 8 → argOf b = 0 → semForm k b = true → zeroAt b 20 4 = true → zeroAt b 28 36 = true →
      ∀ p i, cmdSem s.m k b = some (p, i) → (s.m.sem p i).waiters = [] → grantTo s.m (2048 + k) = none → NotRestored s.m k →
      (n ≤ (s.m.sem p i).count → ∃ t, exec .wait s = .next t ∧ (t.m.sem p i).count = (s.m.sem p i).count - n ∧
        Ended s.m t.m k 1 c 0 0 0 0) ∧
      ((s.m.sem p i).count < n → ∃ t, exec .wait s = .next t ∧ (t.m.sem p i).waiters = [⟨2048 + k, n⟩] ∧
        t.m.queue k = { q with waitCmd := some (b, if leAt b 24 4 = 0 then none else some (s.m.sys.ns + 1000 * leAt b 24 4)) })) ∧
    (byteAt b 0 = 8 → argOf b % 2 = 1 → argOf b < 16 → nbits (argOf b) 2 1 ≠ 3 → leAt b 8 8 % 8 = 0 → zeroAt b 28 36 = true →
      waitsMap s.m k = false → NotRestored s.m k → ∀ pa, sigWord s.m part (k / 16) (leAt b 8 8) accRead = .ok pa →
      (WordCond b (s.m.sys.hbm.readNat pa 8) → ∃ t, exec .wait s = .next t ∧ Ended s.m t.m k 1 c 0 0 0 0) ∧
      (¬WordCond b (s.m.sys.hbm.readNat pa 8) → ∃ t, exec .wait s = .next t ∧
        t.m.queue k = { q with waitCmd := some (b, if leAt b 24 4 = 0 then none else some (s.m.sys.ns + 1000 * leAt b 24 4)) })) ∧
    (byteAt b 0 = 6 → q.kind = 1 → q.dmaq = [] → copyForm b = true → nbit (argOf b) 1 = false → leAt b 24 8 ≠ 0 →
      (∀ v, (s.m.vf v).mig = 0) → let cp : Copy :=
        { q := k, cmd := c, dir := argOf b % 2, pasid := q.pasid, haddr := leAt b 8 8, daddr := leAt b 16 8, len := leAt b 24 8 }
      ∀ rs, copyRegions s.m part cp.len cp.ranges = .ok rs →
        (∀ r ∈ rs, (s.m.region part r.1).st = 1 ∧ (k / 16 = 0 ∨ (s.m.region part r.1).vfn = k / 16)) →
        ∃ t, exec .copyh s = .next t ∧ Started s.m t.m k c ∧
          t.m.copy s.m.sys.seq = { cp with req := 1, held := (rs.map Prod.fst).eraseDups } ∧ ∀ r ∈ rs, HeldRegion t.m part r.1)) ∧
  (∀ (s : State) (b : List Byte) (lim : Option Nat) (pa : Nat), let k := queueKey s.arg.a s.arg.b
    let q := s.m.queue k
    q.waitCmd = some (b, lim) → queueRuns s.m k = true → q.full = false → q.recs = [] → argOf b % 2 = 1 → nbits (argOf b) 2 1 ≠ 3 →
    waitsMap s.m k = false → NotRestored s.m k → sigWord s.m (queuePart s.m k) (k / 16) (leAt b 8 8) accRead = .ok pa →
    (WordCond b (s.m.sys.hbm.readNat pa 8) →
      ∃ t, exec .waitSatisfied s = .next t ∧ (t.m.queue k).waitCmd = none ∧ Ended s.m t.m k 1 (cmdOf q b) 0 0 0 0) ∧
    (¬WordCond b (s.m.sys.hbm.readNat pa 8) → ∀ n, lim = some n → n ≤ s.m.sys.ns →
      ∃ t, exec .waitTimeout s = .next t ∧ (t.m.queue k).waitCmd = none ∧ Ended s.m t.m k 1 (cmdOf q b) 7 0 0 0)) ∧
  (∀ (s : State) (b : List Byte) (n : Nat), let k := queueKey s.arg.a s.arg.b
    let q := s.m.queue k
    q.waitCmd = some (b, some n) → queueRuns s.m k = true → argOf b % 2 = 1 → waitsMap s.m k = true → NotRestored s.m k → n ≤ s.m.sys.ns →
    ∃ t, exec .waitTimeout s = .next t ∧ (t.m.queue k).waitCmd = none ∧ waitsMap t.m k = false ∧ Ended s.m t.m k 1 (cmdOf q b) 7 0 0 0) ∧
  (∀ s : State, let k := queueKey s.arg.a s.arg.b
    let q := s.m.queue k
    q.st ≠ 0 → q.full = true → ∃ t, exec .cconsPoll s = .next t ∧ (t.m.queue k).ccons = s.m.sys.host.readNat (q.qcba + 56) 4 ∧
      (q.recs = [] → t.m.queue k = { q with ccons := s.m.sys.host.readNat (q.qcba + 56) 4 }) ∧
      ∀ r, q.recs = [r] → cntDiff q.cprod (s.m.sys.host.readNat (q.qcba + 56) 4) ≠ 2 ^ q.csize →
        (t.m.queue k).recs = [] ∧ (t.m.queue k).cprod = (q.cprod + 1) % 2 ^ 32) ∧
  (∀ (s : State) (k part : Nat), let q := s.m.queue k
    let v := bindWord s
    let qcba := (s.m.reg 0x208 &&& 0xFFFFFFFFFFFFFFC0).toNat
    let b := s.m.sys.host.readList qcba 64
    let answers := fun (i : Instr) (x : Dword) (q' : Queue) => ∃ t, exec i s = .next t ∧ t.m.reg 0x210 = x ∧ t.m.queue k = q'
    let tail := s.m.sys.host.readNat (q.qcba + 48) 4
    (BindReq s.m v 0 k part → q.st = 0 → qcbOk (k / 16) b = true → (k / 16 ≠ 0 → leAt b 22 2 = k / 16 - 1) →
      cntDiff (leAt b 48 4) (leAt b 52 4) ≤ 2 ^ byteAt b 16 →
      answers .bind 2 { st := 1, part := if k / 16 = 0 then part else 0, qcba := qcba, cache := b.take 48, head := leAt b 52 4,
                        tail := leAt b 48 4, ccons := leAt b 56 4, cprod := leAt b 60 4 }) ∧
    (BindReq s.m v 0 k part → q.st ≠ 0 → answers .bind 0x103 q) ∧
    (BindReq s.m v 1 k part → q.st = 2 ∨ q.st = 3 →
      (s.m.sys.host.readList q.qcba 48 = q.cache → q.recs = [] → cntDiff tail q.head ≤ 2 ^ q.rsize →
        answers .rebind 2 { q with st := 1, ccons := s.m.sys.host.readNat (q.qcba + 56) 4, tail := tail, dbl := false }) ∧
      (∀ r, s.m.sys.host.readList q.qcba 48 = q.cache → q.recs = [r] →
        cntDiff q.cprod (s.m.sys.host.readNat (q.qcba + 56) 4) ≠ 2 ^ q.csize → ∃ t, exec .rebind s = .next t ∧
        (t.m.queue k).recs = [] ∧ (t.m.queue k).cprod = (q.cprod + 1) % 2 ^ 32) ∧
      (s.m.sys.host.readList q.qcba 48 ≠ q.cache → answers .rebind 0x403 q)) ∧
    (BindReq s.m v 2 k part → (q.st = 1 → answers .detach 2 { q with st := 2 }) ∧ (q.st ≠ 1 → answers .detach 0x103 q)) ∧
    (BindReq s.m v 3 k part → q.st = 2 ∨ q.st = 3 → (q.started = [] → q.recs = [] → answers .release 2 {}) ∧
      (q.started ≠ [] ∨ q.recs ≠ [] → answers .release 0x503 q)))

/-- 03 R61-R71, R76-R79, 01 R26-R28, 04 R111-R114, 17 R429: launches and slots. INVOKE is accepted as a launch with its buffers, slot and
generation, or ends with the STATUS of the check that fails; LOADSLOT holds its regions and loads, and asks another package for weights
that lie there, if it knows the node; an accepted image makes the slot RESIDENT and pins them, a piece that fails leaves those before it written; UNLOADSLOT and SWAPWEIGHTS start, a retired generation frees its regions; GRAPH starts a run; a copy
done writes its bytes and frees its regions, one that meets a missing host page asks for it and waits, and is refused where it is denied; a handle is committed; launch packets are accepted or refused with a report;
forwarded writes are applied in order, forward ends end an entry; remote writes and atomics reach ATOMIC regions, remote reads SHARED_RO ones. -/
def Obligations.LaunchAndSlotEvents : Prop :=
  (∀ (s : State) (b : List Byte), AtHead s.m s.arg.a s.arg.b b → let vfn := s.arg.a
    let k := queueKey vfn s.arg.b
    let q := s.m.queue k
    let c := cmdOf q b
    let v := s.m.vf vfn
    let part := v.part
    let a := argOf b
    0 < vfn → q.kind = 0 →
    (byteAt b 0 = 1 → invokeLong b = false → invokeForm s.m k b = true → let n := nbits a 5 0
      (∀ st, residency s.m vfn q.slotm n = .fail st → ∃ t, exec .invoke s = .next t ∧ Ended s.m t.m k 1 c st 0 0 0) ∧
      (residency s.m vfn q.slotm n = .waits → exec .invoke s = .next s) ∧
      (residency s.m vfn q.slotm n = .ok → let inv := ((s.m.partn part).inv + 1) % 2 ^ 64
        let key := launchKey part inv
        s.m.hasLaunch key = false → ∃ t, exec .invoke s = .next t ∧ Started s.m t.m k c ∧ let l := t.m.launch key
          l.part = part ∧ l.vf = vfn ∧ l.qidx = s.arg.b ∧ l.inv = inv ∧ l.slot = n ∧ l.gen = (s.m.slot vfn n).cur ∧
          l.prio = min (nbits a 8 6) (min q.prioc (bits v.vqa 57 55)) ∧ (t.m.partn part).inv = inv ∧
          (∀ j, j < nbits a 13 9 → l.bufs[j]? = some (BitVec.ofNat 64 (leAt b (8 + 7 * j) 7))) ∧
          ∀ g ∈ (t.m.slot vfn n).gens, g.gen = l.gen → key ∈ g.users)) ∧
    (byteAt b 0 = 2 → let n := nbits a 5 0
      let src := nbits a 7 6
      let len := leAt b 16 8
      let known := src = 1 → fabricKnown s.m part (leAt b 40 8) = true
      let ranges := twoRanges s.m part vfn (leAt b 8 8) len (leAt b 24 8) (leAt b 32 8) (if src = 1 then accWrite else accRead)
      a < 2 ^ 8 → nbits a 7 6 ≤ 1 → leAt b 8 8 % 4096 = 0 → 0 < len → len ≤ 2 ^ 32 → leAt b 24 8 % 0x200000 = 0 →
      (nbits a 7 6 = 0 → zeroAt b 40 8 = true) → zeroAt b 48 16 = true → n < v.slotQuota →
      ((s.m.slot vfn n).st ≠ 0 → ∃ t, exec .loadslot s = .next t ∧ Ended s.m t.m k 1 c 15 0 0 0) ∧
      ((s.m.slot vfn n).st = 0 → waitsMap s.m k = false → ∀ ra rb, ranges = .ok ra rb →
        (¬known → ∃ t, exec .loadslot s = .next t ∧ Ended s.m t.m k 1 c 12 0 0 0) ∧
        (known → ∃ t, exec .loadslot s = .next t ∧ Started s.m t.m k c ∧ (∀ r ∈ ra ++ rb, HeldRegion t.m part r) ∧
          (let node := (SMap.get (fun _ => 0) (s.m.partn part).fab (nbits (leAt b 40 8) 59 49)).toNat
           t.m.sys.out = s.m.sys.out ++ if src = 1 then (fabricPieces (leAt b 32 8)).map fun p =>
             readRequest node (nbits (leAt b 40 8) 48 0 + p.1) p.2 else []) ∧
          let w := t.m.slot vfn n
          w.st = 1 ∧ w.src = src ∧ w.faddr = leAt b 40 8 ∧ w.nti = leAt b 8 8 ∧ w.ntil = len ∧ w.cmd = some (k, c) ∧ w.regs = ra ∧
          w.gens = [{ gen := 1, waddr := leAt b 24 8, wlen := leAt b 32 8, regs := rb }]))) ∧
    (byteAt b 0 = 3 → a < 64 → zeroAt b 8 56 = true → a < v.slotQuota → (s.m.slot vfn a).st = 2 → ∃ t, exec .unloadslot s = .next t ∧
      Started s.m t.m k c ∧ t.m.slot vfn a = { s.m.slot vfn a with st := 3, cmd := some (k, c) }) ∧
    (byteAt b 0 = 4 → a < 64 → zeroAt b 8 16 = true → leAt b 24 8 % 0x200000 = 0 → zeroAt b 40 24 = true → a < v.slotQuota →
      let w := s.m.slot vfn a
      w.st = 2 → waitsMap s.m k = false →
      (4 ≤ w.gens.length → exec .swapweights s = .next s) ∧
      (w.gens.length < 4 → ∀ rs x, twoRanges s.m part vfn (leAt b 24 8) (leAt b 32 8) 0 0 accRead = .ok rs x → w.cur < 0xFFFFFFFF →
        ∃ t, exec .swapweights s = .next t ∧ Started s.m t.m k c ∧ (t.m.slot vfn a).cur = w.cur + 1 ∧
          ((t.m.slot vfn a).gens.getLast?).map (fun g => (g.gen, g.waddr, g.wlen, g.users)) =
            some (w.cur + 1, leAt b 24 8, leAt b 32 8, [])))  ∧
    (byteAt b 0 = 5 → let n := nbits a 5 0
      let at_ := leAt b 8 8
      let nodes := leAt (devRead s.m part at_ 64) 4 2
      let d := devRead s.m part at_ (64 + 64 * nodes)
      a < 2 ^ 9 → zeroAt b 24 40 = true → residency s.m vfn q.slotm n = .ok →
      rangeIn s.m part at_ 64 (graphSource vfn) = true → rangeIn s.m part (leAt b 16 8) 2048 (fun e => e.st == 4 && e.vfn == vfn) = true →
      1 ≤ nodes → nodes ≤ 256 → rangeIn s.m part at_ (64 + 64 * nodes) (graphSource vfn) = true → graphOk d = true →
      leAt d 4 2 = nodes → devStalled s.m part at_ 64 accRead = false → devStalled s.m part at_ (64 + 64 * nodes) accRead = false → (∃ j, j < nodes ∧ leAt d (68 + 64 * j) 2 = 0) →
      ∃ t, exec .graph s = .next t ∧ Started s.m t.m k c ∧ let g := t.m.run s.m.sys.seq
        g.desc = d ∧ g.vf = vfn ∧ g.slot = n ∧ g.cw = leAt b 16 8 ∧ g.inv = ((s.m.partn part).inv + 1) % 2 ^ 64 ∧
        ∀ j, j < nodes → (g.node j).st = if leAt d (68 + 64 * j) 2 = 0 then 1 else 0)) ∧
  (∀ (s : State) (k : Nat) (c : Cmd), let vfn := s.arg.a
    let w := s.m.slot vfn s.arg.b
    let part := (s.m.vf vfn).part
    let rs := w.regs ++ w.gens.flatMap fun g => g.regs
    let bytes := s.arg.bytes
    let want := if w.src = 1 then w.weights.wlen else 0
    w.st = 1 → w.cmd = some (k, c) → loadWaits s.m vfn s.arg.b = false → (s.arg.c = 0 → bytes.length < want →
      exec .slotLoadDone s = .next s) ∧
    (loadGap s.m part w = none → devStalled s.m part w.nti w.ntil accRead = false →
      (w.src = 1 → devStalled s.m part w.weights.waddr w.weights.wlen accWrite = false) →
      (s.arg.c = 0 → want ≤ bytes.length → let m := loadStore s.m part w want bytes
        (imageOk (devRead m part w.nti w.ntil) w.ntil = true → ∃ t, exec .slotLoadDone s = .next t ∧ Recorded s.m t.m k c 0 0 1 0 ∧
          t.m.slot vfn s.arg.b = { w with st := 2, cmd := none } ∧
          ∀ r ∈ rs, t.m.region part r = { m.region part r with st := 3, pin := true, hold := 0 }) ∧
        (imageOk (devRead m part w.nti w.ntil) w.ntil = false → ∃ t, exec .slotLoadDone s = .next t ∧ Recorded s.m t.m k c 11 0 0 0 ∧
          t.m.slot vfn s.arg.b = {} ∧ ∀ r ∈ rs, (t.m.region part r).st = 1)) ∧
      (s.arg.c ≠ 0 → ∃ t, exec .slotLoadDone s = .next t ∧ Recorded s.m t.m k c 12 (min (s.arg.c - 1) 0xFFFF) 0 0 ∧
        t.m.slot vfn s.arg.b = {} ∧ (∀ r ∈ rs, (t.m.region part r).st = 1) ∧
        let n := min (min want ((s.arg.c - 1) * 0x200000)) bytes.length
        ∀ pa, 0 < n → devPieces s.m part w.weights.waddr n accWrite = .ok [(pa, n)] → keyErased s.m pa = false → OffTables s.m pa n →
          (∀ r ∈ rs, r < 196608) → t.m.sys.hbm.readList pa n = bytes.take n))) ∧
  (∀ (s : State) (x : WGen) (k g : Nat) (c : Cmd), let vfn := s.arg.a
    let w := s.m.slot vfn s.arg.b
    let left := w.gens.filter fun y => y.gen != s.arg.c
    w.wgen s.arg.c = some x → x.users = [] → w.st = 2 → copiesHold s.m (s.m.vf vfn).part x.regs = false → s.arg.c ≠ w.cur → x.swap = some (k, c, g) →
    ∃ t, exec .generationRetired s = .next t ∧ t.m.slot vfn s.arg.b = { w with gens := left } ∧ Recorded s.m t.m k c 0 0 g 0 ∧
      ∀ r ∈ x.regs, r ∉ w.regs → (∀ y ∈ left, r ∉ y.regs) → (t.m.region (s.m.vf vfn).part r).st = 1) ∧
  (∀ s : State, let v := s.m.vf s.arg.a
    0 < s.arg.a → s.arg.a ≤ 512 → v.live = true → ∃ t, exec .handleCommit s = .next t ∧
      (s.arg.v.getLsbD 63 = true → SMap.get (fun _ => {}) (t.m.vf s.arg.a).handles v.hbidx =
        (⟨v.hbbase.toNat, v.hblen.toNat, s.arg.v.getLsbD 32, s.arg.v.getLsbD 33, s.arg.v.toNat % 2 ^ 20⟩ : Handle)) ∧
      (s.arg.v.getLsbD 63 = false → (t.m.vf s.arg.a).handles = v.handles)) ∧
  (∀ (s : State) (pa : Nat), let id := s.arg.a
    let c := s.m.copy id
    let part := copyPart s.m c
    let n := c.len - c.done
    let asks : Out := ⟨3, c.pasid, (c.haddr + c.done) / 4096 * 4096, [BitVec.ofNat 8 (c.dir + 1)]⟩
    let refused := fun (t : State) => t.m.copy id = {} ∧ Recorded s.m t.m c.q c.cmd 8 0 0 c.done
    (∃ e ∈ s.m.sys.copies, e.1 = id) → c.node = none →
    (c.req = 1 → s.arg.b = 0 → c.dir = 0 → 0 < n → devPieces s.m part (c.daddr + c.done) n accWrite = .ok [(pa, n)] →
      s.m.stalled [(pa, n)] = false → keyErased s.m pa = false → OffTables s.m pa n → (∀ r ∈ c.held, r < 196608) →
      ∃ t, exec .copyhDone s = .next t ∧ t.m.sys.hbm.readList pa n = s.m.sys.host.readList (c.haddr + c.done) n ∧
        t.m.copy id = {} ∧ Recorded s.m t.m c.q c.cmd 0 0 0 0 ∧ ∀ r ∈ c.held, HeldRegion s.m part r → (t.m.region part r).st = 1) ∧
    (c.req = 1 → c.dir ≤ 1 → 0 < n → pagesAsked s.m < 512 →
      (s.arg.b = c.done + 1 → ∃ t, exec .copyhDone s = .next t ∧ t.m.sys.out = s.m.sys.out ++ [asks] ∧
        t.m.copy id = { c with req := 4 }) ∧
      (s.arg.c ≤ c.done →
        (s.arg.b ≠ 0 → ∃ t, exec .pageRequestResponse s = .next t ∧ t.m.sys.out = s.m.sys.out ++ [asks] ∧ t.m.copy id = c) ∧
        (s.arg.b = 0 → ∃ t, exec .pageRequestResponse s = .next t ∧ refused t))) ∧
    (c.req = 4 → c.dir ≤ 1 →
      (s.arg.b ≠ 0 → ∃ t, exec .pageRequestResponse s = .next t ∧ t.m.copy id = { c with req := 1 }) ∧
      (s.arg.b = 0 → ∃ t, exec .pageRequestResponse s = .next t ∧ refused t))) ∧
  (∀ s : State, let b := s.arg.bytes
    let p := s.m.partn (pktPart b)
    let port := s.arg.a
    let report := fun (r : List Byte) => (⟨1, port, pktSender b, r⟩ : Out)
    b.length = 192 → 4 ≤ port ∨ (2 ^ 56 ≤ s.arg.b ∧ s.arg.b < 2 ^ 56 + 32 * 4096 ∧ s.arg.b % 256 = 0) →
    leAt b 0 2 = 0x4C01 → byteAt b 2 = 1 → pktPart b < 32 → p.used = true →
    ((∀ e ∈ p.senders, e.2.toNat ≠ pktSender b) → ∃ t, exec .launchPacket s = .next t ∧ t.m = s.m.send (report (reportBytes b 2 0 0 0))) ∧
    ((∃ e ∈ p.senders, e.2.toNat = pktSender b) → (∀ x ∈ p.waiting, x.sender ≠ pktSender b) → PacketOk s.m b →
      let inv := (p.inv + 1) % 2 ^ 64
      ∃ t, exec .launchPacket s = .next t ∧ (t.m.launch (launchKey (pktPart b) inv)).vf = pktVf b ∧
        t.m.sys.out = s.m.sys.out ++ [report (reportBytes b 0 0 (s.m.slot (pktVf b) (pktSlot b)).cur inv)] ∧
        (t.m.partn (pktPart b)).lastOf (pktSender b) = pktSeq b)) ∧
  (∀ (s : State) (x : LPkt), let p := s.m.partn s.arg.a
    p.used = true → p.waiting = [x] → pktPart x.msg = s.arg.a → PacketOk s.m x.msg → let inv := (p.inv + 1) % 2 ^ 64
    ∃ t, exec .launchPacketRecheck s = .next t ∧ (t.m.partn s.arg.a).waiting = [] ∧ (t.m.launch (launchKey s.arg.a inv)).vf = pktVf x.msg ∧
      t.m.sys.out = s.m.sys.out ++
        [⟨1, x.port, pktSender x.msg, reportBytes x.msg 0 0 (s.m.slot (pktVf x.msg) (pktSlot x.msg)).cur inv⟩]) ∧
  (∀ (s : State) (f : Fwd), let b := s.arg.bytes
    let p := s.m.partn s.arg.a
    let id := leAt b 4 4
    b.length = 32 → byteAt b 2 = 1 → byteAt b 3 = 0 →
    (leAt b 0 2 = 0x4C20 → zeroAt b 12 4 = true → p.fwds.find? (fun f => f.id == id && f.state == 2) = some f → leAt b 16 8 = f.addr →
      (leAt b 8 4 ≤ f.seq → exec .forwardedWrite s = .next s) ∧
      (∀ pa, leAt b 8 4 = f.seq + 1 → f.held = [] → sigWord s.m s.arg.a f.vf f.addr accWrite = .ok pa → keyErased s.m pa = false →
        ∃ t, exec .forwardedWrite s = .next t ∧ Stored s.m.sys.hbm t.m.sys.hbm pa (leBytes (leAt b 24 8) 8) ∧
          (t.m.partn s.arg.a).fwds.find? (fun f => f.id == id && f.state == 2) = some { f with seq := f.seq + 1 })) ∧
    (leAt b 0 2 = 0x4C21 → zeroAt b 8 24 = true → p.fwds.find? (fun f => f.id == id && f.state != 2) = some f →
      let left := p.fwds.filter fun g => !(g.id == id && g.state != 2)
      ∃ t, exec .forwardEnd s = .next t ∧ (t.m.partn s.arg.a).fwds = left ∧
        ∀ r ∈ f.regs, (∀ g ∈ left, r ∉ g.regs) → t.m.region s.arg.a r = RegionE.unalloc)) ∧
  (∀ (s : State) (pa : Nat), let part := s.arg.a
    let p := s.m.partn part
    let e := s.m.region part (pa / 0x200000)
    p.used = true →
    (let b := s.arg.bytes
     s.arg.c = 0 → b ≠ [] → s.arg.b + b.length ≤ 2 ^ 49 → devPieces s.m part s.arg.b b.length accWrite = .ok [(pa, b.length)] →
      (e.st ≠ 4 → exec .remoteWrite s = .next s) ∧
      (e.st = 4 → p.fwds = [] → (s.m.vf e.vfn).mig ≠ 4 → (s.m.vf e.vfn).live = true → keyErased s.m pa = false →
        s.m.stalled [(pa, b.length)] = false → ∃ t, exec .remoteWrite s = .next t ∧ Stored s.m.sys.hbm t.m.sys.hbm pa b)) ∧
    (∀ g, s.arg.c ≠ 0 → amoOf[s.arg.c - 1]? = some g → s.arg.b % 8 = 0 → s.arg.b + 8 ≤ 2 ^ 49 → s.arg.bytes.length = 8 →
      sigWord s.m part 0 s.arg.b accAtomic = .ok pa → p.fwds = [] → (s.m.vf e.vfn).mig ≠ 4 → (s.m.vf e.vfn).live = true →
      keyErased s.m pa = false → s.m.sys.hbmErr = [] → let old := s.m.sys.hbm.readNat pa 8
      ∃ t, exec .remoteWrite s = .next t ∧ t.m.sys.out = s.m.sys.out ++ [⟨4, part, s.arg.b, 0 :: leBytes old 8⟩] ∧
        Stored s.m.sys.hbm t.m.sys.hbm pa
          (leBytes (g (BitVec.ofNat 64 old) (BitVec.ofNat 64 (leAt s.arg.bytes 0 8))).toNat 8)) ∧
    (let n := s.arg.c
     0 < n → s.arg.b + n ≤ 2 ^ 49 → devPieces s.m part s.arg.b n accRead = .ok [(pa, n)] → s.m.stalled [(pa, n)] = false →
      (e.st ≠ 3 → ∃ t, exec .remoteRead s = .next t ∧ t.m = s.m.send ⟨4, part, s.arg.b, [1]⟩) ∧
      (e.st = 3 → s.m.sys.hbmErr = [] → keyErased s.m pa = false → ∃ t, exec .remoteRead s = .next t ∧
        t.m = s.m.send ⟨4, part, s.arg.b, 0 :: s.m.sys.hbm.readList pa n⟩)))

/-- 04 R88-R92, R94, R96, R97, R99, R101, Tables 4-2 to 4-5, 10 R252: a request of the PF while one is in progress changes nothing, one
for a VF whose regions are still copied waits with its arguments and is carried out later; one that
sets argument bits its operation does not name is refused with cause 2. Partitions are created with their panels and a zeroed
monitor area, marked, given senders and fabric nodes; a VF is created with its quotas, save area and key, re-quotaed, re-keyed
with its save area zeroed, destroyed; regions are allocated, and given back as unallocated entries before the tables are changed. -/
def Obligations.MonitorRequests : Prop :=
  (∀ s : State, ∀ e ∈ monOps,
    (bits (s.m.reg 0x328) 1 0 = 1 → (s.m.sys.mc.length < 6 ∨ s.m.sys.mc.head? ≠ some e.2.1) → exec e.1 s = .next s) ∧
    (6 ≤ s.m.sys.mc.length → s.m.sys.mc.head? = some e.2.1 → monReady s.m e.2.1 = false → exec e.1 s = .next s) ∧
    (NotBusy s → argsOk s.m e.2.2 = false → Turned e.1 s e.2.1 2)) ∧
  (∀ s : State, let mask := (s.m.arg 0).toNat
    let a := s.m.arg 1
    let part := bits a 4 0
    let p := s.m.partn part
    NotBusy s →
    (argsOk s.m [0xFFFFFFFF, 0xFF011F] = true →
      ((∃ x ∈ panelsOf mask, (s.m.panel x).part.isSome = true) ∨ p.used = true → Turned .pcreate s 1 3) ∧
      ((∀ x ∈ panelsOf mask, (s.m.panel x).part = none) → p.used = false → mask ≠ 0 → bits a 23 16 ≠ 0 →
        ((∃ x ∈ panelsOf mask, (s.m.die (x / 4)).rdy = false) → Turned .pcreate s 1 6) ∧
        ((∀ x ∈ panelsOf mask, (s.m.die (x / 4)).rdy = true) → ∃ t, exec .pcreate s = .next t ∧
          t.m.reg 0x328 = doneStat (partTiles t.m part) ∧ t.m.partn part =
            { used := true, mask := mask, lead := ((panelsOf mask).head?).getD 0, presv := a.getLsbD 8, lshare := bits a 23 16 } ∧
          (∀ x ∈ panelsOf mask, (t.m.panel x).part = some part) ∧
          ∀ y, let o := monArea (((panelsOf mask).head?).getD 0)
            t.m.sys.hbm.read y = if o ≤ y ∧ y < o + 2 ^ 28 then 0 else s.m.sys.hbm.read y))) ∧
    (argsOk s.m [0, 0x1F] = true → (p.used = false → Turned .pdestroy s 2 5) ∧
      (p.used = true → Done .pdestroy s 0 fun m => m.partn part = {})) ∧
    (argsOk s.m [argAll, 0x10F1F] = true → p.used = true → Done .psend s 0 fun m => ∀ n, n < 16 →
      SMap.get (fun _ => none) ((m.partn part).senders.map fun e => (e.1, some e.2)) n =
        if n = bits a 11 8 then (if a.getLsbD 16 then some (s.m.arg 0) else none)
        else SMap.get (fun _ => none) (p.senders.map fun e => (e.1, some e.2)) n) ∧
    (argsOk s.m [0, 0x11F] = true → p.used = true → Done .pmark s 0 fun m => m.partn part = { p with presv := a.getLsbD 8 }) ∧
    (argsOk s.m [argAll, 0x87FF001F] = true → p.used = true → Done .pfab s 0 fun m => ∀ n, n < 2048 →
      SMap.get (fun _ => none) ((m.partn part).fab.map fun e => (e.1, some e.2)) n =
        if n = bits a 26 16 then (if a.getLsbD 31 then some (s.m.arg 0) else none)
        else SMap.get (fun _ => none) (p.fab.map fun e => (e.1, some e.2)) n)) ∧
  (∀ s : State, let vfn := argVf s
    let v := quotaArgs s.m
    let o := s.m.vf vfn
    let named := argsOk s.m [0xFFFFFFFFFFFF0000, vfArgMask, 0xFF000000FFFFFFFF, 0xFFFFFFFFFFFC0000] = true
    let key := fun (m : Mach) => SMap.get (fun _ => 0) m.sys.keys (vfn - 1)
    let keyed := fun (m : Mach) => (∀ i, i < 8 → m.reg (0x340 + 8 * i) = 0) ∧
      ((s.m.arg 1).getLsbD 32 = false → key m ≠ 0) ∧
      ((s.m.arg 1).getLsbD 32 = true → ∀ i, i < 8 → key m / 2 ^ (64 * i) % 2 ^ 64 = (s.m.reg (0x340 + 8 * i)).toNat)
    let area := 5 * v.tiles + (bits v.vqb 45 33 + 31) / 32
    NotBusy s →
    (named → v.inLimits = true → 0 < vfn → vfn ≤ 512 → vfn ≤ s.m.sys.vfCount → (s.m.partn v.part).used = true → o.live = false →
      (∀ e ∈ s.m.sys.parts, ∀ f ∈ e.2.fwds, f.vf = vfn → f.state ≠ 1) → quotaSums (asked s 0x10) v.part vfn v = none →
      ∀ m, saveArea (asked s 0x10) v.part vfn v = .ok m → Done .vfcreate s 0 fun m' => keyed m' ∧
        (m'.vf vfn).area.length = area ∧ m'.vf vfn = { v with area := (m'.vf vfn).area }) ∧
    (named → v.inLimits = true → o.live = true → v.part = o.part → v.ts = o.ts → (s.m.arg 1).getLsbD 32 = false →
      (∀ c, quotaSums (asked s 0x12) o.part vfn v = some c → Turned .vfquota s 0x12 c) ∧
      (quotaSums (asked s 0x12) o.part vfn v = none → (belowUse (asked s 0x12) o.part vfn v = true → Turned .vfquota s 0x12 4) ∧
        (belowUse (asked s 0x12) o.part vfn v = false → ∀ m, saveArea (asked s 0x12) o.part vfn v = .ok m →
          Done .vfquota s 0 fun m' => let w := m'.vf vfn
            w.vqa = v.vqa ∧ w.vqb = v.vqb ∧ w.vqc = v.vqc ∧ w.vqd = v.vqd ∧ w.area.length = area))) ∧
    (argsOk s.m [0, 0x103FF0000] = true → o.live = true →
      ((∃ r ∈ vfRegions s.m o.part vfn, r ∉ o.area) → Turned .vfkey s 0x13 1) ∧
      ((∀ r ∈ vfRegions s.m o.part vfn, r ∈ o.area) → Done .vfkey s 0 fun m' => keyed m' ∧
        ∀ r ∈ o.area, ∀ b, b < 0x200000 → m'.sys.hbm.read (r * 0x200000 + b) = 0)) ∧
    (argsOk s.m [0, 0x3FF0000] = true → o.live = true → (vfHeld (asked s 0x11) vfn = true → Pends .vfdestroy s 0x11 vfn) ∧
      (vfHeld (asked s 0x11) vfn = false → ∃ t, exec .vfdestroy s = .next t ∧
        bits (t.m.reg 0x328) 31 0 = 2 ∧ t.m.vf vfn = {} ∧ key t.m = 0 ∧ QueuesGone t.m vfn))) ∧
  (∀ s : State, let m := pendingArgs s.m
    let vfn := bits (m.arg 1) 25 16
    6 ≤ s.m.sys.mc.length → s.m.sys.mc.head? = some 0x11 → monReady s.m 0x11 = true → argsOk m [0, 0x3FF0000] = true →
    (m.vf vfn).live = true → ∃ t, exec .vfdestroy s = .next t ∧ bits (t.m.reg 0x328) 31 0 = 2 ∧ t.m.vf vfn = {} ∧ t.m.sys.mc = [] ∧
      QueuesGone t.m vfn ∧ ∀ i, i < 4 → t.m.arg i = s.m.arg i) ∧
  (∀ s : State, let vfn := argVf s
    let v := s.m.vf vfn
    let va := (s.m.arg 0).toNat
    let n := (s.m.arg 2).toNat
    NotBusy s → argsOk s.m [argAll, 0x3FF0000, argAll] = true → va % 0x200000 = 0 → va + n * 0x200000 ≤ 2 ^ 49 → v.live = true →
    ((∀ r ∈ mappedIn (asked s 0x14) v.part va n, ((asked s 0x14).region v.part r).st = 0) →
      (bits v.vqd 63 46 < (quotaRegions (asked s 0x14) v.part vfn).length + n → Turned .vfalloc s 0x14 4) ∧
      ((quotaRegions (asked s 0x14) v.part vfn).length + n ≤ bits v.vqd 63 46 → let rs := placeRegions (asked s 0x14) v.part (bits v.vqc 31 0) n
        (rs.length < n → Turned .vfalloc s 0x14 4) ∧
        (rs.length = n → ∀ m, giveRegions (asked s 0x14) v.part vfn va 1 rs = some m → ∃ t, exec .vfalloc s = .next t ∧
          t.m.reg 0x328 = 1 ∧ t.m.sys = { m.sys with mc := [0x14, vfn, n], regs := t.m.sys.regs }))) ∧
    (copiesHold (asked s 0x15) v.part (mappedIn (asked s 0x15) v.part va n) = false →
      (∀ i, i < n → ∀ x ∈ pagesOf (asked s 0x15) v.part (va + i * 0x200000), ∃ r, x = some r ∧
        ((asked s 0x15).region v.part r).st = 1 ∧ ((asked s 0x15).region v.part r).vfn = vfn) →
      let rs := (mappedIn (asked s 0x15) v.part va n).eraseDups
      let m1 := rs.foldl (fun m r => m.setRegion v.part r RegionE.unalloc) (asked s 0x15)
      Done .vffree s rs.length fun m' => (∀ r ∈ rs, m1.region v.part r = RegionE.unalloc) ∧
        m'.sys.hbm = ((List.range n).foldl (fun m i => (mapRegion m v.part (va + i * 0x200000) none).getD m) m1).sys.hbm)) ∧
  (∀ (s : State) (n x : Nat), s.m.sys.mc = [0x14, x, n] → ∃ t, exec .vfallocZeroed s = .next t ∧ t.m.sys.mc = [] ∧
    t.m.reg 0x328 = doneStat n)

/-- 04 R111-R114, Table 4-10: MSTART begins to track, MSNAP writes and clears the dirty bitmap, MQUIESCE marks the launches that stop in
phase form and completes once all are held, or is refused when its time has run out; MCUT makes an entry for each pending WAIT
on a word and refuses without forwarding; MSAVE writes a record and MRESTORE takes one over; MRELAY hands the entries on and
ends the VF once no other's copy runs over its regions; MFWDC ends an entry; MABORT goes back to NORMAL. Event 0x0060 follows each; the bytes of a record are free. -/
def Obligations.MigrationEvents : Prop :=
  (∀ s : State, let vfn := argVf s
    let v := s.m.vf vfn
    let host := fun (m : Mach) => m.sys.host.readList (s.m.arg 0).toNat
    (MigAsk s [0, argVfn] [0] → Done .mstart s 0 fun m => m.vf vfn = { v with mig := 1, dirty := [] }) ∧
    (NotBusy s → argsOk s.m [0, argVfn] = true → v.live = true → v.mig ≠ 0 → Turned .mstart s 0x20 1) ∧
    (NotBusy s → argsOk s.m [0, argVfn] = true → v.live = false → Turned .mstart s 0x20 5) ∧
    (MigAsk s [argBuf, argVfn] [1, 3] →
      let bs := (regionsByAddr (asked s 0x21) v.part vfn).map fun e => SMap.get (fun _ => false) v.dirty e.2
      Done .msnap s (bs.countP fun b => b) fun m => (m.vf vfn).dirty = [] ∧ (EventsOff s.m (s.m.arg 0).toNat ((bs.length + 7) / 8) →
        host m ((bs.length + 7) / 8) = packBits ((bs.length + 7) / 8) bs)) ∧
    (MigAsk s [0, argVfn, 0xFFFFFFFF] [1] → ∃ t, exec .mquiesce s = .next t ∧ t.m.reg 0x328 = 1 ∧ t.m.vf vfn = { v with mig := 2 } ∧
      t.m.sys.mc = 0x22 :: vfn :: (if s.m.arg 2 = 0 then [] else [s.m.sys.ns + 1000 * (s.m.arg 2).toNat]) ∧
      t.m.sys.launches = s.m.sys.launches.map fun e => (e.1, if e.2.vf = vfn ∧ e.2.st = 2 ∧ phaseForm (asked s 0x22) e.2 = true then
        { e.2 with phaseHold := true } else e.2)) ∧
    (MigAsk s [0, argVfn] [3] → let ws := kindOneWaits (asked s 0x23) vfn
      let p := s.m.partn v.part
      let whole := fun (f : Fwd) => (f.vf, f.q, f.addr, f.state)
      ((∃ w ∈ ws, nbit (argOf w.2) 3 = false) → Turned .mcut s 0x23 7) ∧
      ((∀ w ∈ ws, nbit (argOf w.2) 3 = true) → (64 < p.live.length + ws.length → Turned .mcut s 0x23 8) ∧
        (p.live.length + ws.length ≤ 64 → Done .mcut s ws.length fun m => (m.vf vfn).mig = 4 ∧
          (m.partn v.part).fwds.map whole = p.fwds.map whole ++ ws.map fun w => (vfn, w.1, leAt w.2 8 8, 0)))) ∧
    (MigAsk s [argBuf, argVfn] [3, 4] → ∃ n, 1 ≤ n ∧ n < 2 ^ 32 ∧ let r := { recordOf (asked s 0x24) vfn with free := s.m.free, len := n }
      Done .msave s n fun m => m.sys.mrecs = s.m.sys.mrecs ++ [r] ∧
        (EventsOff s.m (s.m.arg 0).toNat n → host m n = r.bytes)) ∧
    (NotBusy s → argsOk s.m [argBuf, argVfn, argAll] = true → v.live = true → (∃ e ∈ (s.m.partn v.part).senders, e.2 = s.m.arg 2) →
      (recordAt s.m (s.m.arg 0).toNat = none → Turned .mrestore s 0x25 2) ∧ ∀ r, recordAt s.m (s.m.arg 0).toNat = some r →
      let same := (regionsByAddr (asked s 0x25) v.part vfn).map Prod.fst = r.regions.map fun e => e.1
      (freshVf s.m vfn = false ∨ sameQuotas v r.vf = false ∨ ¬same ∨ setsFit r (panelsOf (s.m.partn v.part).mask).length = false → Turned .mrestore s 0x25 1) ∧
      (freshVf s.m vfn = true → sameQuotas v r.vf = true → same → setsFit r (panelsOf (s.m.partn v.part).mask).length = true →
        (∀ e ∈ r.launches, ∀ x ∈ s.m.sys.launches, x.2.part = v.part → keyInv x.1 ≠ keyInv e.1) →
        (∀ e ∈ r.doms, ∀ x ∈ (s.m.partn v.part).doms, x.1 ≠ e.1) → Done .mrestore s 0 fun m =>
          (m.vf vfn).handles = r.vf.handles ∧ (∀ e ∈ r.queues, (m.queue (queueKey vfn (e.1 % 16))).st = 2) ∧
          (m.partn v.part).inv = max (s.m.partn v.part).inv (r.launches.foldl (fun n e => max n e.2.inv) 0))) ∧
    (MigAsk s [0, argVfn, argAll, 0x1F] [4] → (vfHeld (asked s 0x26) vfn = true → Pends .mrelay s 0x26 vfn) ∧ (vfHeld (asked s 0x26) vfn = false → Done .mrelay s 0 fun m => m.vf vfn = {} ∧
      ∀ f ∈ (s.m.partn v.part).fwds, f.vf = vfn → f.state = 0 → ∃ g ∈ (m.partn v.part).fwds,
        g.id = f.id ∧ g.vf = vfn ∧ g.state = 1 ∧ g.node = (s.m.arg 2).toNat ∧ g.part = (s.m.arg 3).toNat ∧ g.held = [])) ∧
    (MigAsk s [0, argVfn] [1, 2, 3, 4] → Done .mabort s 0 fun m => m.vf vfn = { v with mig := 0, dirty := [] } ∧
      (m.partn v.part).fwds = ((s.m.partn v.part).fwds.filter fun f => !(f.vf == vfn && f.state == 0)) ∧
      ∀ e ∈ m.sys.launches, e.2.vf = vfn → e.2.phaseHold = false)) ∧
  (∀ (s : State) (part : Nat) (p : Part), let id := (s.m.arg 0).toNat
    NotBusy s → argsOk s.m [0xFFFFFFFF] = true → s.m.partn part = p →
    (s.m.sys.parts.find? fun e => e.2.fwds.any fun f => f.id == id && f.state != 2) = some (part, p) →
    Done .mfwdc s 0 fun m => (m.partn part).fwds = p.fwds.filter fun g => !(g.id == id && g.state != 2)) ∧
  (∀ s : State, let v := s.m.vf s.arg.a
    v.mig = 2 →
    ((∀ l ∈ runningOf s.m s.arg.a, launchHeld l = true) → (∀ e ∈ s.m.sys.sets, e.2.isOpen = true → e.2.spl = false →
        (s.m.launch e.2.launch).vf = s.arg.a → seamStalled s.m e.1 (seamPlace s.m s.arg.a (seamTotal (s.m.set_ e.1).desc)) = false) → ∃ t, exec .quiesceComplete s = .next t ∧ (t.m.vf s.arg.a).mig = 3 ∧
      t.m.sys.mc = [] ∧ bits (t.m.reg 0x328) 31 0 = 2) ∧
    ((∃ l ∈ runningOf s.m s.arg.a, launchHeld l = false) → exec .quiesceComplete s = .next s ∧
      ∀ x, s.m.sys.mc = [0x22, s.arg.a, x] → x ≤ s.m.sys.ns → ∃ t, exec .mquiesceTimeout s = .next t ∧
        t.m.vf s.arg.a = { v with mig := 1 } ∧ t.m.sys.mc = [] ∧ t.m.reg 0x328 = 0x103))

/-- 05 R122, R123, R126-R129, R139-R144, 07 R165-R167, R182, R183: the scheduler. A selection places the offered gang of the launch chosen and
moves the priority's pointer, or holds a launch in phase form that is to move (when is the environment's, log 85); a reservation is tried
again after its back-off in die cycles; a slice boundary makes the next valid entry current, or none, with event SL; a rotation asks the gang that blocked first to yield; a gang asked to yield stops once each
task has, or is frozen after 20 µs; a scan-out leaves an image in a slot, of a crashed task as the launch ends. A ready graph node runs: a launch, a copy, a signal, a
branch, a loop; an overrun deadline counts once. -/
def Obligations.SchedulerEvents : Prop :=
  (∀ (s : State) (k g : Nat) (o : Nat × Nat × Nat), let m := headUpdate ((partLaunches s.m s.arg.a).foldl phaseDue s.m)
    s.arg.b = 0 → choose m s.arg.a ((partLaunches m s.arg.a).filter fun k => (offerOf m k).isSome) = some k → offerOf m k = some (g, some o) →
    ((m.launch k).gang g).st = 0 → SitesFree m k o → NoneHeld m k g →
    ∃ t, exec .schedulerSelection s = .next t ∧ Placed m t.m k g o ∧
      SMap.get (fun _ => 0) (t.m.partn s.arg.a).ptrs (m.launch k).prio = (m.launch k).source) ∧
  (∀ (s : State) (k : Nat), let l := s.m.launch k
    s.arg.b = k + 1 → s.m.hasLaunch k = true →
    (l.part = s.arg.a → l.st = 2 → phaseForm s.m l = true → ∃ t, exec .schedulerSelection s = .next t ∧
      t.m.launch k = { l with phaseHold := true } ∧ ∀ j, j ≠ k → t.m.launch j = s.m.launch j) ∧
    (l.part ≠ s.arg.a ∨ l.st ≠ 2 ∨ phaseForm s.m l = false → exec .schedulerSelection s = .next s)) ∧
  (∀ s : State, let l := s.m.launch s.arg.a
    let g := l.gang s.arg.b
    (g.refused = 0 ∨ s.m.dieClock g.die < g.retryAt → exec .reservationRetry s = .next s) ∧
    (0 < g.refused → g.retryAt ≤ s.m.dieClock g.die → nextGang s.m s.arg.a = some s.arg.b → g.st = 0 →
      (offerFor s.m s.arg.a s.arg.b = none → exec .reservationRetry s = .next s) ∧
      (∀ o, offerFor s.m s.arg.a s.arg.b = some (some o) → SitesFree s.m s.arg.a o → NoneHeld s.m s.arg.a s.arg.b → ∃ t, exec .reservationRetry s = .next t ∧
        Placed s.m t.m s.arg.a s.arg.b o ∧ (t.m.launch s.arg.a).st = 2 ∧
        (t.m.launch s.arg.a).gang s.arg.b = { st := 1, die := o.1, oy := o.2.1, ox := o.2.2 }))) ∧
  (∀ (s : State) (k : Nat), let p := s.m.partn s.arg.a
    p.slice = some k → (s.m.sys.ns < p.sliceAt → exec .sliceBoundary s = .next s) ∧
    (p.sliceAt ≤ s.m.sys.ns →
      (nextSlice s.m s.arg.a (k + 1) = none → ∃ t, exec .sliceBoundary s = .next t ∧
        t.m.partn s.arg.a = { p with slice := none, sliceVf := 0 } ∧ Nat.testBit (t.m.agent (ccOf p.lead)).ctl.ev 4 = true) ∧
      (∀ i, nextSlice s.m s.arg.a (k + 1) = some i → let e := sliceEntry s.m s.arg.a i
        ∃ t, exec .sliceBoundary s = .next t ∧ t.m.partn s.arg.a =
            { p with slice := some i, sliceVf := bits e 57 48, sliceAt := s.m.sys.ns + 100000 * bits e 40 32 } ∧
          bits (t.m.ccCsr p.lead 0x850) 19 16 = i ∧ Nat.testBit (t.m.agent (ccOf p.lead)).ctl.ev 4 = true))) ∧
  (∀ (s : State) (before after : List (Nat × Gang)) (g n since : Nat) (x : Gang), let key := s.arg.a
    let l := s.m.launch key
    (l.gangs.filter fun e => e.2.st == 1) = before ++ (g, x) :: after → l.st = 2 →
    (l.undispatched.isSome = true ∨ stoppedGangs l 2 ≠ []) → launchSince s.m key = some since → since + 50000 ≤ s.m.sys.ns →
    gangBlock s.m l g = some n → (∀ e ∈ before, ∃ y, gangBlock s.m l e.1 = some y ∧ n < y) →
    (∀ e ∈ after, ∃ y, gangBlock s.m l e.1 = some y ∧ n ≤ y) → (∀ a ∈ l.gangSites g, (s.m.site a).tst ≠ 6) →
    (∀ e ∈ before ++ (g, x) :: after, (l.gang e.1).askedAt = none) → ∃ t, exec .residencyRotation s = .next t ∧
      (t.m.launch key).rotAt = s.m.sys.ns ∧ (t.m.launch key).gang g = { l.gang g with askedAt := some s.m.sys.ns, why := 2 } ∧
      ∀ a ∈ l.gangSites g, (t.m.site a).tst = 2 ∧ (t.m.agent a).ctl.yieldReq = true) ∧
  (∀ (s : State) (t0 : Nat), let key := s.arg.a
    let l := s.m.launch key
    let g := l.gang s.arg.b
    g.st = 1 → g.askedAt = some t0 →
    (s.m.sys.ns < t0 + 20000 ∨ (g.why = 2 ∧ launchSince s.m key = none) → exec .yieldDeadline s = .next s) ∧
    (t0 + 20000 ≤ s.m.sys.ns → (g.why ≠ 2 ∨ (launchSince s.m key).isSome = true) → (∀ a ∈ l.gangSites s.arg.b, (s.m.site a).tst ≠ 6) → ∃ t, exec .yieldDeadline s = .next t ∧
      (t.m.launch key).gang s.arg.b = { g with st := 3, askedAt := none, order := s.m.sys.seq + 1, kind := 0 } ∧
      ∀ a ∈ l.gangSites s.arg.b, t.m.site a = { s.m.site a with rst := 3, tst := 3, ord := s.m.sys.seq + 1 }) ∧
    ((∃ a ∈ l.gangSites s.arg.b, (s.m.agent a).atYield = false) → exec .yieldComplete s = .next s) ∧
    ((∀ a ∈ l.gangSites s.arg.b, (s.m.agent a).atYield = true) →
      (∀ i ∈ l.gangTasks s.arg.b, slotReady s.m ⟨key, i⟩ = true ∧ ∃ e ∈ (s.m.vf l.vf).saves, e.2 = taskKey ⟨key, i⟩) →
      ∃ t, exec .yieldComplete s = .next t ∧
        (let g' := (t.m.launch key).gang s.arg.b
         g'.st = 2 ∧ g'.kind = 3 ∧ g'.askedAt = none ∧ g'.die = g.die ∧ g'.oy = g.oy ∧ g'.ox = g.ox) ∧
        ∀ a ∈ l.gangSites s.arg.b, (t.m.site a).rst = 3 ∧ (t.m.site a).tst = 5)) ∧
  (∀ s : State, (scanNext s.m (panelOfSite s.arg.a) ≠ some s.arg.a → exec .scanOutComplete s = .next s) ∧
    (∀ k, scanNext s.m (panelOfSite s.arg.a) = some s.arg.a → (s.m.site s.arg.a).occ = some k →
      ((s.m.site s.arg.a).tst = 3 → (∀ e ∈ (s.m.launch k.launch).gangs, e.2.toPhase = false) → ∃ t, exec .scanOutComplete s = .next t ∧
        t.m.site s.arg.a = { s.m.site s.arg.a with tst := 4 } ∧
        ∃ e ∈ (t.m.vf (s.m.launch k.launch).vf).saves, e.2 = taskKey k) ∧
      ((s.m.site s.arg.a).tst = 6 → s.m.hasLaunch k.launch = true →
        ∃ t, exec .scanOutComplete s = .next t ∧ t.m.hasLaunch k.launch = false))) ∧
  (∀ s : State, let rid := s.arg.a
    let k := s.arg.b
    let r := s.m.run rid
    let n := r.node k
    let kind := r.field k 0 1
    (n.st = 0 ∨ (n.st = 1 ∧ (r.fail ≠ 0 ∨ 1 < (s.m.vf r.vf).mig)) → exec .graphNodeRun s = .next s) ∧
    (NodeReady s.m rid k →
      (kind = 1 → let part := (s.m.vf r.vf).part
        let key := launchKey part (((s.m.partn part).inv + 1) % 2 ^ 64)
        r.field k 26 2 < (imageAt s.m r.part (s.m.slot r.vf r.slot).nti).entries.length → s.m.hasLaunch key = false →
        ∃ t, exec .graphNodeRun s = .next t ∧ (t.m.run rid).node k = { n with st := 2 } ∧ let l := t.m.launch key
          l.vf = r.vf ∧ l.slot = r.slot ∧ l.gen = r.gen ∧ l.entry = r.field k 26 2 ∧ l.origin = ⟨1, rid, k, 0⟩ ∧
          l.prio = min (r.field k 25 1) (min (s.m.queue r.q).prioc (bits (s.m.vf r.vf).vqa 57 55))) ∧
      (kind = 2 → let c : Copy := { q := r.q, dir := 3, haddr := r.field k 16 8, daddr := r.field k 24 8, len := r.field k 32 8,
                                    node := some (rid, k) }
        c.len ≠ 0 → ∀ rs, copyRegions s.m (copyPart s.m c) c.len c.ranges = .ok rs →
        (∀ x ∈ rs, copyAllows s.m c x.2 (s.m.region (copyPart s.m c) x.1) = true) → ∃ t, exec .graphNodeRun s = .next t ∧
          (t.m.run rid).node k = { n with st := 2 } ∧ ∃ held, t.m.copy s.m.sys.seq = { c with req := 1, held := held }) ∧
      (kind = 3 → r.field k 16 1 = 0 → r.field k 24 8 ≤ 4095 → ∀ p i, semOf s.m r.part r.vf (r.field k 24 8) = some (p, i) →
        (s.m.sem p i).waiters = [] → ∃ t, exec .graphNodeRun s = .next t ∧
          t.m.sem p i = { s.m.sem p i with count := min ((s.m.sem p i).count + r.field k 32 4) 0xFFFFFFFF }) ∧
      (∀ j, let x := r.node j
        let ready := ∃ t, exec .graphNodeRun s = .next t ∧ ((t.m.run rid).node j).st = 1
        let c := condWord s.m r (r.field k 16 1)
        let again := c ≠ 0 ∧ (r.field k 20 4 = 0 ∨ n.times < r.field k 20 4)
        j ≠ k → x.st = 0 → r.field j 4 2 ≤ x.got + 1 →
        (kind = 4 → j = r.field k (if c ≠ 0 then 8 else 9) 1 → ready) ∧
        (kind = 5 → again → j = r.field k 8 1 → ready) ∧ (kind = 5 → ¬again → j = r.field k 9 1 → ready)))) ∧
  (∀ s : State, let r := s.m.run s.arg.a
    let n := r.node s.arg.b
    let lim := r.field s.arg.b 2 2
    (n.overrun = true ∨ lim = 0 → exec .graphDeadlineOverrun s = .next s) ∧
    (n.overrun = false → lim ≠ 0 → n.st = 1 ∨ n.st = 2 → n.readyAt + 1000 * lim < s.m.sys.ns → ∃ t,
      exec .graphDeadlineOverrun s = .next t ∧ (t.m.run s.arg.a).overruns = r.overruns + 1 ∧
      (t.m.run s.arg.a).node s.arg.b = { n with overrun := true }))

/-- 09 R219, R220, R223, R224, R228, R229, R235, R237, R238, 10 R240, R244, R247-R249: lifetimes, error logs and translation. A tick
reaches the next multiple of 500 ns, ages the valid row groups of running tiles and puts what falls due next; a group that
expires becomes INVALID with a clear pending, or under X held, and LSTAT counts it; a refresh makes its age 0; a pending clear
writes zeros. Reading ELD3 marks an entry, ELCLR empties a log, the PF's window asks for entries of a log and gets them. A
permitting walk fills the TLB and the walk cache; a supplied mapping ends a fault entry, a refused one ends the launch, the slot load or the
copy that waits. -/
def Obligations.LifetimeLogAndFaultEvents : Prop :=
  (∀ s : State, ∃ t l, exec .lifetimeTick s = .next t ∧ t.m.sys.ns = (s.m.sys.ns / 500 + 1) * 500 ∧
    t.m.sys.ticks = s.m.sys.ticks + 1 ∧ t.inputs = l ++ s.inputs ∧
    ∀ a w k, timersOut s.m = [] → s.m.seated a = true → let g := (s.m.agent a).group w k
      let g' := (t.m.agent a).group w k
      let band := (t.m.panel (panelOf a)).band
      let rs := (t.m.die (panelOf a / 4)).reduced
      g.v = true → g.q = false → g'.v = true ∧ g'.age = min (g.age + 1) 4095 ∧
        g'.due = decide (groupLimit t.m (panelOf a / 4) band rs g ≤ g'.age) ∧
        (g'.due = true → (⟨if groupHeld rs band g then .refreshQueued else .rowGroupExpiry,
          { a := a, b := (if w then 1024 else 0) + k }⟩ : Input) ∈ l)) ∧
  (∀ s : State, let a := s.arg.a
    let grp := s.arg.b
    let c := s.m.agent a
    let w := decide (1024 ≤ grp)
    let k := grp % 1024
    let g := c.group w k
    let held := groupHeld (s.m.die (panelOf a / 4)).reduced (s.m.panel (panelOf a)).band g = true
    let ls := c.csr true 0x019
    let group := fun (t : State) => (t.m.agent a).group w k
    let count := fun (n : Nat) => min (n + 1) 0xFFFFFF
    grp < 2048 →
    (g.v = true → g.due = true →
      (held → exec .rowGroupExpiry s = .next s) ∧
      (¬held → ∃ t, exec .rowGroupExpiry s = .next t ∧ let ls' := (t.m.agent a).csr true 0x019
        (g.x = true → group t = { g with cls := 3, q := true, due := false } ∧ bits ls' 39 16 = count (bits ls 39 16) ∧
          bits ls' 63 40 = bits ls 63 40) ∧
        (g.x = false → group t = { g with v := false, clr := true, q := false, due := false } ∧
          bits ls' 63 40 = count (bits ls 63 40) ∧ bits ls' 39 16 = bits ls 39 16 ∧ bits ls' 11 10 = (if w then 3 else 2) ∧
          bits ls' 9 0 = k)) ∧
      ∃ t, exec .refreshQueued s = .next t ∧ group t = { g with q := true, due := false }) ∧
    (g.v = false ∨ g.due = false → exec .rowGroupExpiry s = .next s ∧ exec .refreshQueued s = .next s) ∧
    (g.q = true → ∃ t, exec .rowGroupRefresh s = .next t ∧ group t = { g with age := 0, q := false }) ∧
    (g.q = false → exec .rowGroupRefresh s = .next s) ∧
    (g.clr = true → ∃ t, exec .rowGroupClear s = .next t ∧ group t = { g with clr := false } ∧
      ∀ i, ((t.m.agent a).buf w).read i = if 4096 * k ≤ i ∧ i < 4096 * k + 4096 then 0 else (c.buf w).read i) ∧
    (g.clr = false → ∃ t, exec .rowGroupClear s = .next t ∧ t.m.agent a = c)) ∧
  (∀ s : State, let p := s.arg.a
    let log := (s.m.panel p).log
    let i := bits (s.m.ccCsr p 0x871) 5 0
    let v := s.arg.v
    (∃ t, exec .eld3Read s = .next t ∧ (t.m.panel p).log.cnt = log.cnt ∧
      ∀ j, (t.m.panel p).log.entry j = if j = i then { log.entry i with read := true } else log.entry j) ∧
    (v.getLsbD 0 = true → ∃ t, exec .elclr s = .next t ∧ (t.m.panel p).log = {}) ∧ (v.getLsbD 0 = false → exec .elclr s = .next s) ∧
    ∃ t, exec .einjcWrite s = .next t ∧
      (bits v 61 58 ≤ 10 → (6 < bits v 61 58 ∨ bits v 55 50 ≤ 35) → t.m.ccCsr p 0x878 = v) ∧
      (10 < bits v 61 58 ∨ (bits v 61 58 ≤ 6 ∧ 35 < bits v 55 50) → (t.m.ccCsr p 0x878).getLsbD 63 = false)) ∧
  (∀ s : State, let sel := s.m.reg 0x500
    let v := s.arg.v
    let log := fun (m : Mach) => (m.panel (bits sel 5 0)).log
    let busy := sel.getLsbD 63 = true
    (busy ∨ 33 < bits v 5 0 → exec .elqselWrite s = .next s) ∧
    (¬busy → bits v 5 0 ≤ 33 → ∃ t, exec .elqselWrite s = .next t ∧
      t.m.reg 0x500 = BitVec.ofNat 64 (2 ^ 63 + 256 * bits v 13 8 + bits v 5 0)) ∧
    (busy → ∃ t, exec .logQueryDone s = .next t ∧ (t.m.reg 0x500).getLsbD 63 = false ∧ t.m.reg 0x528 = (log s.m).cnt ∧
      ∀ k, k < 4 → t.m.reg (0x508 + 8 * k) = BitVec.ofNat 64 (leAt ((log s.m).entry (bits sel 13 8)).bytes (8 * k) 8)) ∧
    (¬busy → exec .logQueryDone s = .next s) ∧
    (∃ t, exec .elqd3Read s = .next t ∧ ((log t.m).entry (bits sel 13 8)).read = true) ∧
    (busy ∨ v.getLsbD 0 = false → exec .elqclr s = .next s) ∧
    (¬busy → v.getLsbD 0 = true → ∃ t, exec .elqclr s = .next t ∧ log t.m = {})) ∧
  (∀ (s : State) (e : TlbE) (keep : List (Nat × Nat)), let a := s.arg.a
    let part := if isTileAgent a then (s.m.agent a).ctl.part else (s.m.partOf a).getD 32
    let tlb := fun (m : Mach) => SMap.get (fun _ => []) (m.agent a).eng.tlb s.arg.b
    a < 1184 → s.arg.b ≤ 8 → (isTileAgent a = true → ∀ f ∈ tlb s.m, f.covers s.arg.c = false) →
    (walk s.m (panelOf a) part s.arg.c s.arg.d = (.leaf e, keep) → ∃ t, exec .pageWalk s = .next t ∧
      (t.m.panel (panelOf a)).walkc = walkKeep (s.m.panel (panelOf a)).walkc keep ∧
      (isTileAgent a = true → (tlb t.m).head? = some e)) ∧
    (∀ why, walk s.m (panelOf a) part s.arg.c s.arg.d = (.fail why, keep) → exec .pageWalk s = .next s)) ∧
  (∀ s : State, let p := s.arg.a
    let find := (s.m.panel p).flts.find? fun f => f.cnt == some s.arg.b
    (find = none → exec .fltrSupply s = .next s ∧ exec .fltrRefuse s = .next s) ∧
    (∀ f, find = some f → let w := walk s.m p ((s.m.panel p).part.getD 32) f.va f.acc
      let c := s.m.copy (f.who - 2 ^ 20)
      let isCopy := f.task = none ∧ ∃ e ∈ s.m.sys.copies, e.1 = f.who - 2 ^ 20
      ((∀ e, w.1 ≠ .leaf e) → exec .fltrSupply s = exec .fltrRefuse s) ∧
      (∀ k, f.task = some k → (∃ t, exec .fltrRefuse s = .next t ∧ t.m.hasLaunch k.launch = false) ∧
        ∀ e, w.1 = .leaf e → ∃ t, exec .fltrSupply s = .next t ∧ (t.m.panel p).walkc = walkKeep (s.m.panel p).walkc w.2 ∧
          (t.m.panel p).flts = (s.m.panel p).flts.filter (· ≠ f) ∧ t.m.sys.launches = s.m.sys.launches) ∧
      (∀ k cmd, isCopy → c.dir = 5 → (s.m.slot c.vfn c.haddr).cmd = some (k, cmd) →
        (∃ t, exec .fltrRefuse s = .next t ∧ t.m.slot c.vfn c.haddr = {} ∧ Recorded s.m t.m k cmd 8 0x8000 0 0) ∧
        ∀ e, w.1 = .leaf e → ∃ t, exec .fltrSupply s = .next t ∧ t.m.copy (f.who - 2 ^ 20) = {} ∧
          t.m.slot c.vfn c.haddr = s.m.slot c.vfn c.haddr) ∧
      (isCopy → c.dir ≠ 2 → c.dir ≠ 5 → c.node = none → ∃ t, exec .fltrRefuse s = .next t ∧ t.m.copy (f.who - 2 ^ 20) = {} ∧
        Recorded s.m t.m c.q c.cmd 8 0x8000 0 c.done) ∧
      (isCopy → c.dir ≤ 1 → c.req = 3 → ∀ e, w.1 = .leaf e → ∃ t, exec .fltrSupply s = .next t ∧
        t.m.copy (f.who - 2 ^ 20) = { c with req := 1 } ∧ f ∉ (t.m.panel p).flts)))
end

