-- ==== Sys2Proof/Laws/Map.lean ====
section
/-!
SUPPORT. Laws of the finite map and of byte memories: what a key reads after a write, and that every operation keeps
the canonical form.
-/
namespace Sys2Proof.Machine

variable {α : Type}

/-! ### Reading after writing -/

@[simp] theorem SMap.get_nil (d : Nat → α) (k : Nat) : SMap.get d [] k = d k := rfl

theorem SMap.get_erase_self (d : Nat → α) (m : SMap α) (k : Nat) : SMap.get d (SMap.erase m k) k = d k := by
  induction m with
  | nil => rfl
  | cons e t ih => unfold SMap.erase; split <;> simp_all [SMap.get]

theorem SMap.get_erase_ne (d : Nat → α) (m : SMap α) {k j : Nat} (h : j ≠ k) :
    SMap.get d (SMap.erase m k) j = SMap.get d m j := by
  induction m with
  | nil => rfl
  | cons e t ih => unfold SMap.erase; split <;> simp_all [SMap.get]

theorem SMap.get_put_self (d : Nat → α) (m : SMap α) (k : Nat) (x : α) : SMap.get d (SMap.put m k x) k = x := by
  induction m with
  | nil => simp [SMap.put, SMap.get]
  | cons e t ih =>
    unfold SMap.put
    split
    · simp [SMap.get]
    · split <;> simp_all [SMap.get]

theorem SMap.get_put_ne (d : Nat → α) (m : SMap α) {k j : Nat} (x : α) (h : j ≠ k) :
    SMap.get d (SMap.put m k x) j = SMap.get d m j := by
  induction m with
  | nil => simp [SMap.put, SMap.get, h]
  | cons e t ih =>
    unfold SMap.put
    split
    · simp_all [SMap.get]
    · split <;> simp_all [SMap.get]

variable [DecidableEq α]

@[simp] theorem SMap.get_set_self (d : Nat → α) (m : SMap α) (k : Nat) (x : α) :
    SMap.get d (SMap.set d m k x) k = x := by
  unfold SMap.set
  split
  · simp_all [SMap.get_erase_self]
  · exact SMap.get_put_self d m k x

@[simp] theorem SMap.get_set_ne (d : Nat → α) (m : SMap α) {k j : Nat} (x : α) (h : j ≠ k) :
    SMap.get d (SMap.set d m k x) j = SMap.get d m j := by
  unfold SMap.set
  split
  · exact SMap.get_erase_ne d m h
  · exact SMap.get_put_ne d m x h

/-- One equation for a read after a write. -/
theorem SMap.get_set (d : Nat → α) (m : SMap α) (k j : Nat) (x : α) :
    SMap.get d (SMap.set d m k x) j = if j = k then x else SMap.get d m j := by
  split
  · simp_all
  · simp_all

theorem SMap.get_modify (d : Nat → α) (m : SMap α) (k j : Nat) (f : α → α) :
    SMap.get d (SMap.modify d m k f) j = if j = k then f (SMap.get d m k) else SMap.get d m j :=
  SMap.get_set d m k j _

omit [DecidableEq α] in
theorem SMap.get_clearRange (d : Nat → α) (m : SMap α) (lo hi j : Nat) :
    SMap.get d (SMap.clearRange m lo hi) j = if lo ≤ j ∧ j < hi then d j else SMap.get d m j := by
  induction m with
  | nil => simp [SMap.clearRange]
  | cons e t ih =>
    have hf : SMap.clearRange (e :: t) lo hi =
        if decide (e.1 < lo) || decide (hi ≤ e.1) then e :: SMap.clearRange t lo hi else SMap.clearRange t lo hi := by
      simp only [SMap.clearRange, List.filter_cons]
    rw [hf]
    by_cases hj : j = e.1
    · by_cases hc : lo ≤ j ∧ j < hi
      · rw [if_neg (by simp; omega), ih]
        simp [hc]
      · rw [if_pos (by simp; omega), if_neg hc]
        simp [SMap.get, hj]
    · split <;> simp [SMap.get, hj, ih]

/-! ### The canonical form -/

theorem SMap.wfFrom_mono (d : Nat → α) {lo hi : Nat} {m : SMap α} (h : lo ≤ hi) (hm : SMap.wfFrom d hi m) :
    SMap.wfFrom d lo m := by
  cases m with
  | nil => rfl
  | cons e t => simp_all [SMap.wfFrom]; omega

theorem SMap.wfFrom_erase (d : Nat → α) {lo : Nat} {m : SMap α} (k : Nat) (hm : SMap.wfFrom d lo m) :
    SMap.wfFrom d lo (SMap.erase m k) := by
  induction m generalizing lo with
  | nil => rfl
  | cons e t ih =>
    simp only [SMap.wfFrom, Bool.and_eq_true, decide_eq_true_eq] at hm
    unfold SMap.erase
    split
    · exact SMap.wfFrom_mono d (by omega) (ih hm.2)
    · simp only [SMap.wfFrom, Bool.and_eq_true, decide_eq_true_eq]
      exact ⟨hm.1, ih hm.2⟩

theorem SMap.wfFrom_put (d : Nat → α) {lo : Nat} {m : SMap α} {k : Nat} {x : α} (hk : lo ≤ k) (hx : x ≠ d k)
    (hm : SMap.wfFrom d lo m) : SMap.wfFrom d lo (SMap.put m k x) := by
  induction m generalizing lo with
  | nil => simp [SMap.put, SMap.wfFrom, hk, hx]
  | cons e t ih =>
    simp only [SMap.wfFrom, Bool.and_eq_true, decide_eq_true_eq] at hm
    unfold SMap.put
    split
    · simp_all [SMap.wfFrom]
    · split
      · simp only [SMap.wfFrom, Bool.and_eq_true, decide_eq_true_eq]
        exact ⟨⟨hk, hx⟩, ⟨by omega, hm.1.2⟩, hm.2⟩
      · simp only [SMap.wfFrom, Bool.and_eq_true, decide_eq_true_eq]
        exact ⟨hm.1, ih (by omega) hm.2⟩

/-- Every write keeps the canonical form. -/
theorem SMap.wf_set (d : Nat → α) {m : SMap α} (k : Nat) (x : α) (hm : SMap.wf d m) : SMap.wf d (SMap.set d m k x) := by
  unfold SMap.set
  split
  · exact SMap.wfFrom_erase d k hm
  · exact SMap.wfFrom_put d (Nat.zero_le k) ‹_› hm

theorem SMap.wfFrom_filter (d : Nat → α) {lo : Nat} {m : SMap α} (p : Nat × α → Bool) (hm : SMap.wfFrom d lo m) :
    SMap.wfFrom d lo (m.filter p) := by
  induction m generalizing lo with
  | nil => rfl
  | cons e t ih =>
    simp only [SMap.wfFrom, Bool.and_eq_true, decide_eq_true_eq] at hm
    rw [List.filter_cons]
    split
    · simp only [SMap.wfFrom, Bool.and_eq_true, decide_eq_true_eq]
      exact ⟨hm.1, ih hm.2⟩
    · exact SMap.wfFrom_mono d (by omega) (ih hm.2)

theorem SMap.wf_clearRange (d : Nat → α) {m : SMap α} (lo hi : Nat) (hm : SMap.wf d m) :
    SMap.wf d (SMap.clearRange m lo hi) := SMap.wfFrom_filter d _ hm

/-! ### Byte memories -/

@[simp] theorem Memory.read_write_self (m : Memory) (a : Nat) (b : Byte) : (m.write a b).read a = b :=
  SMap.get_set_self _ m a b

@[simp] theorem Memory.read_write_ne (m : Memory) {a j : Nat} (b : Byte) (h : j ≠ a) : (m.write a b).read j = m.read j :=
  SMap.get_set_ne _ m b h

/-- Storing a number leaves every byte outside it alone. -/
theorem Memory.read_writeNat_out (m : Memory) (a n v : Nat) {j : Nat} (h : j < a ∨ a + n ≤ j) :
    (m.writeNat a n v).read j = m.read j := by
  induction n generalizing m a v with
  | zero => rfl
  | succ k ih =>
    unfold Memory.writeNat
    rw [ih _ _ _ (by omega), Memory.read_write_ne _ _ (by omega)]

/-- Storing bytes leaves every byte outside them alone. -/
theorem Memory.read_writeList_out (m : Memory) (a : Nat) (bs : List Byte) {j : Nat} (h : j < a ∨ a + bs.length ≤ j) :
    (m.writeList a bs).read j = m.read j := by
  induction bs generalizing m a with
  | nil => rfl
  | cons b t ih =>
    unfold Memory.writeList
    simp only [List.length_cons] at h
    rw [ih _ _ (by omega), Memory.read_write_ne _ _ (by omega)]

/-- Storing bytes puts each where it belongs. -/
theorem Memory.read_writeList_in (m : Memory) (a : Nat) (bs : List Byte) {i : Nat} (h : i < bs.length) :
    (m.writeList a bs).read (a + i) = bs[i] := by
  induction bs generalizing m a i with
  | nil => simp at h
  | cons b t ih =>
    unfold Memory.writeList
    cases i with
    | zero => simpa using Memory.read_writeList_out (m.write a b) (a + 1) t (j := a) (by omega)
    | succ k =>
      have := ih (m.write a b) (a + 1) (i := k) (by simpa using h)
      simpa [Nat.add_assoc, Nat.add_comm 1 k] using this

/-- Bytes stored are the bytes read back. -/
theorem Memory.readList_writeList (m : Memory) (a : Nat) (bs : List Byte) :
    (m.writeList a bs).readList a bs.length = bs := by
  induction bs generalizing m a with
  | nil => rfl
  | cons b t ih =>
    have h := Memory.read_writeList_in m a (b :: t) (i := 0) (by simp)
    simp only [Nat.add_zero, List.getElem_cons_zero] at h
    simp only [List.length_cons, Memory.readList, h]
    exact congrArg _ (ih (m.write a b) (a + 1))

theorem Memory.readList_length (m : Memory) (a n : Nat) : (m.readList a n).length = n := by
  induction n generalizing a with
  | zero => rfl
  | succ k ih => simp [Memory.readList, ih]

theorem Memory.read_zero (m : Memory) (a n j : Nat) :
    (m.zero a n).read j = if a ≤ j ∧ j < a + n then 0 else m.read j := SMap.get_clearRange _ m a (a + n) j

theorem leBytes_length (v n : Nat) : (leBytes v n).length = n := by
  induction n generalizing v with
  | zero => rfl
  | succ k ih => simp [leBytes, ih]

theorem Memory.wf_write {m : Memory} (a : Nat) (b : Byte) (h : m.wf) : (m.write a b).wf := SMap.wf_set _ a b h

theorem Memory.wf_writeNat {m : Memory} (a n v : Nat) (h : m.wf) : (m.writeNat a n v).wf := by
  induction n generalizing m a v with
  | zero => exact h
  | succ k ih => exact ih _ _ (Memory.wf_write a _ h)

theorem Memory.wf_writeList {m : Memory} (a : Nat) (bs : List Byte) (h : m.wf) : (m.writeList a bs).wf := by
  induction bs generalizing m a with
  | nil => exact h
  | cons b t ih => exact ih _ (Memory.wf_write a b h)

theorem Memory.wf_zero {m : Memory} (a n : Nat) (h : m.wf) : (m.zero a n).wf := SMap.wf_clearRange _ _ _ h

end Sys2Proof.Machine
end

