-- ==== Sys2Proof/Laws/State.lean ====
section
/-!
SUPPORT. What each update of the state leaves and changes: one lemma for a field and an update, so that no proof unfolds a
record update.
-/
namespace Sys2Proof.Machine

/-! ### The machine under the updates of one part -/

@[simp] theorem Mach.onSys_me (m : Mach) (f : Sys → Sys) : (m.onSys f).me = m.me := rfl
@[simp] theorem Mach.onSys_core (m : Mach) (f : Sys → Sys) : (m.onSys f).core = m.core := rfl
@[simp] theorem Mach.onSys_rest (m : Mach) (f : Sys → Sys) : (m.onSys f).rest = m.rest := rfl
@[simp] theorem Mach.onSys_sys (m : Mach) (f : Sys → Sys) : (m.onSys f).sys = f m.sys := rfl
@[simp] theorem Mach.onSys_free (m : Mach) (f : Sys → Sys) : (m.onSys f).free = m.free := rfl
@[simp] theorem Mach.onSys_isTile (m : Mach) (f : Sys → Sys) : (m.onSys f).isTile = m.isTile := rfl
@[simp] theorem Mach.modCore_me (m : Mach) (f : Core → Core) : (m.modCore f).me = m.me := rfl
@[simp] theorem Mach.modCore_core (m : Mach) (f : Core → Core) : (m.modCore f).core = f m.core := rfl
@[simp] theorem Mach.modCore_rest (m : Mach) (f : Core → Core) : (m.modCore f).rest = m.rest := rfl
@[simp] theorem Mach.modCore_sys (m : Mach) (f : Core → Core) : (m.modCore f).sys = m.sys := rfl
@[simp] theorem Mach.modCore_free (m : Mach) (f : Core → Core) : (m.modCore f).free = m.free := rfl
@[simp] theorem Mach.modCore_isTile (m : Mach) (f : Core → Core) : (m.modCore f).isTile = m.isTile := rfl
@[simp] theorem Mach.modRf_me (m : Mach) (f : Regs → Regs) : (m.modRf f).me = m.me := rfl
@[simp] theorem Mach.modRf_core (m : Mach) (f : Regs → Regs) : (m.modRf f).core = m.core.modRf f := rfl
@[simp] theorem Mach.modRf_rest (m : Mach) (f : Regs → Regs) : (m.modRf f).rest = m.rest := rfl
@[simp] theorem Mach.modRf_sys (m : Mach) (f : Regs → Regs) : (m.modRf f).sys = m.sys := rfl
@[simp] theorem Mach.modRf_free (m : Mach) (f : Regs → Regs) : (m.modRf f).free = m.free := rfl
@[simp] theorem Mach.modRf_isTile (m : Mach) (f : Regs → Regs) : (m.modRf f).isTile = m.isTile := rfl
@[simp] theorem Mach.modMem_me (m : Mach) (f : Mems → Mems) : (m.modMem f).me = m.me := rfl
@[simp] theorem Mach.modMem_core (m : Mach) (f : Mems → Mems) : (m.modMem f).core = m.core.modMem f := rfl
@[simp] theorem Mach.modMem_rest (m : Mach) (f : Mems → Mems) : (m.modMem f).rest = m.rest := rfl
@[simp] theorem Mach.modMem_sys (m : Mach) (f : Mems → Mems) : (m.modMem f).sys = m.sys := rfl
@[simp] theorem Mach.modMem_free (m : Mach) (f : Mems → Mems) : (m.modMem f).free = m.free := rfl
@[simp] theorem Mach.modMem_isTile (m : Mach) (f : Mems → Mems) : (m.modMem f).isTile = m.isTile := rfl
@[simp] theorem Mach.modEng_me (m : Mach) (f : Engs → Engs) : (m.modEng f).me = m.me := rfl
@[simp] theorem Mach.modEng_core (m : Mach) (f : Engs → Engs) : (m.modEng f).core = m.core.modEng f := rfl
@[simp] theorem Mach.modEng_rest (m : Mach) (f : Engs → Engs) : (m.modEng f).rest = m.rest := rfl
@[simp] theorem Mach.modEng_sys (m : Mach) (f : Engs → Engs) : (m.modEng f).sys = m.sys := rfl
@[simp] theorem Mach.modEng_free (m : Mach) (f : Engs → Engs) : (m.modEng f).free = m.free := rfl
@[simp] theorem Mach.modEng_isTile (m : Mach) (f : Engs → Engs) : (m.modEng f).isTile = m.isTile := rfl
@[simp] theorem Mach.modCtl_me (m : Mach) (f : Ctl → Ctl) : (m.modCtl f).me = m.me := rfl
@[simp] theorem Mach.modCtl_core (m : Mach) (f : Ctl → Ctl) : (m.modCtl f).core = m.core.modCtl f := rfl
@[simp] theorem Mach.modCtl_rest (m : Mach) (f : Ctl → Ctl) : (m.modCtl f).rest = m.rest := rfl
@[simp] theorem Mach.modCtl_sys (m : Mach) (f : Ctl → Ctl) : (m.modCtl f).sys = m.sys := rfl
@[simp] theorem Mach.modCtl_free (m : Mach) (f : Ctl → Ctl) : (m.modCtl f).free = m.free := rfl
@[simp] theorem Mach.modCtl_isTile (m : Mach) (f : Ctl → Ctl) : (m.modCtl f).isTile = m.isTile := rfl

@[simp] theorem Core.modRf_rf (c : Core) (f : Regs → Regs) : (c.modRf f).rf = f c.rf := rfl
@[simp] theorem Core.modRf_mem (c : Core) (f : Regs → Regs) : (c.modRf f).mem = c.mem := rfl
@[simp] theorem Core.modRf_eng (c : Core) (f : Regs → Regs) : (c.modRf f).eng = c.eng := rfl
@[simp] theorem Core.modRf_ctl (c : Core) (f : Regs → Regs) : (c.modRf f).ctl = c.ctl := rfl
@[simp] theorem Core.modMem_rf (c : Core) (f : Mems → Mems) : (c.modMem f).rf = c.rf := rfl
@[simp] theorem Core.modMem_mem (c : Core) (f : Mems → Mems) : (c.modMem f).mem = f c.mem := rfl
@[simp] theorem Core.modMem_eng (c : Core) (f : Mems → Mems) : (c.modMem f).eng = c.eng := rfl
@[simp] theorem Core.modMem_ctl (c : Core) (f : Mems → Mems) : (c.modMem f).ctl = c.ctl := rfl
@[simp] theorem Core.modEng_rf (c : Core) (f : Engs → Engs) : (c.modEng f).rf = c.rf := rfl
@[simp] theorem Core.modEng_mem (c : Core) (f : Engs → Engs) : (c.modEng f).mem = c.mem := rfl
@[simp] theorem Core.modEng_eng (c : Core) (f : Engs → Engs) : (c.modEng f).eng = f c.eng := rfl
@[simp] theorem Core.modEng_ctl (c : Core) (f : Engs → Engs) : (c.modEng f).ctl = c.ctl := rfl
@[simp] theorem Core.modCtl_rf (c : Core) (f : Ctl → Ctl) : (c.modCtl f).rf = c.rf := rfl
@[simp] theorem Core.modCtl_mem (c : Core) (f : Ctl → Ctl) : (c.modCtl f).mem = c.mem := rfl
@[simp] theorem Core.modCtl_eng (c : Core) (f : Ctl → Ctl) : (c.modCtl f).eng = c.eng := rfl
@[simp] theorem Core.modCtl_ctl (c : Core) (f : Ctl → Ctl) : (c.modCtl f).ctl = f c.ctl := rfl

/-! ### Units of the package -/

@[simp] theorem Mach.setPanel_me (m : Mach) (n : Nat) (x : Panel) : (m.setPanel n x).me = m.me := rfl
@[simp] theorem Mach.setPanel_core (m : Mach) (n : Nat) (x : Panel) : (m.setPanel n x).core = m.core := rfl
@[simp] theorem Mach.setPanel_rest (m : Mach) (n : Nat) (x : Panel) : (m.setPanel n x).rest = m.rest := rfl
@[simp] theorem Mach.setPanel_free (m : Mach) (n : Nat) (x : Panel) : (m.setPanel n x).free = m.free := rfl
theorem Mach.panel_setPanel (m : Mach) (n k : Nat) (x : Panel) : (m.setPanel n x).panel k = if k = n then x else m.panel k := SMap.get_set _ _ _ _ _
@[simp] theorem Mach.panel_setPanel_self (m : Mach) (n : Nat) (x : Panel) : (m.setPanel n x).panel n = x := SMap.get_set_self _ _ _ _
@[simp] theorem Mach.die_setPanel (m : Mach) (n k : Nat) (x : Panel) : (m.setPanel n x).die k = m.die k := rfl
@[simp] theorem Mach.site_setPanel (m : Mach) (n k : Nat) (x : Panel) : (m.setPanel n x).site k = m.site k := rfl
@[simp] theorem Mach.partn_setPanel (m : Mach) (n k : Nat) (x : Panel) : (m.setPanel n x).partn k = m.partn k := rfl
@[simp] theorem Mach.vf_setPanel (m : Mach) (n k : Nat) (x : Panel) : (m.setPanel n x).vf k = m.vf k := rfl
@[simp] theorem Mach.queue_setPanel (m : Mach) (n k : Nat) (x : Panel) : (m.setPanel n x).queue k = m.queue k := rfl
@[simp] theorem Mach.launch_setPanel (m : Mach) (n k : Nat) (x : Panel) : (m.setPanel n x).launch k = m.launch k := rfl
@[simp] theorem Mach.wq_setPanel (m : Mach) (n k : Nat) (x : Panel) : (m.setPanel n x).wq k = m.wq k := rfl
@[simp] theorem Mach.set_at_setPanel (m : Mach) (n k : Nat) (x : Panel) : (m.setPanel n x).set_ k = m.set_ k := rfl
@[simp] theorem Mach.netOf_setPanel (m : Mach) (n k : Nat) (x : Panel) : (m.setPanel n x).netOf k = m.netOf k := rfl
@[simp] theorem Mach.coll_setPanel (m : Mach) (n k : Nat) (x : Panel) : (m.setPanel n x).coll k = m.coll k := rfl
@[simp] theorem Mach.reg_setPanel (m : Mach) (n k : Nat) (x : Panel) : (m.setPanel n x).reg k = m.reg k := rfl
@[simp] theorem Mach.panel_modCore (m : Mach) (f : Core → Core) (k : Nat) : (m.modCore f).panel k = m.panel k := rfl
@[simp] theorem Mach.panel_modRf (m : Mach) (f : Regs → Regs) (k : Nat) : (m.modRf f).panel k = m.panel k := rfl
@[simp] theorem Mach.panel_modMem (m : Mach) (f : Mems → Mems) (k : Nat) : (m.modMem f).panel k = m.panel k := rfl
@[simp] theorem Mach.panel_modEng (m : Mach) (f : Engs → Engs) (k : Nat) : (m.modEng f).panel k = m.panel k := rfl
@[simp] theorem Mach.panel_modCtl (m : Mach) (f : Ctl → Ctl) (k : Nat) : (m.modCtl f).panel k = m.panel k := rfl
@[simp] theorem Mach.setDie_me (m : Mach) (n : Nat) (x : Die) : (m.setDie n x).me = m.me := rfl
@[simp] theorem Mach.setDie_core (m : Mach) (n : Nat) (x : Die) : (m.setDie n x).core = m.core := rfl
@[simp] theorem Mach.setDie_rest (m : Mach) (n : Nat) (x : Die) : (m.setDie n x).rest = m.rest := rfl
@[simp] theorem Mach.setDie_free (m : Mach) (n : Nat) (x : Die) : (m.setDie n x).free = m.free := rfl
theorem Mach.die_setDie (m : Mach) (n k : Nat) (x : Die) : (m.setDie n x).die k = if k = n then x else m.die k := SMap.get_set _ _ _ _ _
@[simp] theorem Mach.die_setDie_self (m : Mach) (n : Nat) (x : Die) : (m.setDie n x).die n = x := SMap.get_set_self _ _ _ _
@[simp] theorem Mach.panel_setDie (m : Mach) (n k : Nat) (x : Die) : (m.setDie n x).panel k = m.panel k := rfl
@[simp] theorem Mach.site_setDie (m : Mach) (n k : Nat) (x : Die) : (m.setDie n x).site k = m.site k := rfl
@[simp] theorem Mach.partn_setDie (m : Mach) (n k : Nat) (x : Die) : (m.setDie n x).partn k = m.partn k := rfl
@[simp] theorem Mach.vf_setDie (m : Mach) (n k : Nat) (x : Die) : (m.setDie n x).vf k = m.vf k := rfl
@[simp] theorem Mach.queue_setDie (m : Mach) (n k : Nat) (x : Die) : (m.setDie n x).queue k = m.queue k := rfl
@[simp] theorem Mach.launch_setDie (m : Mach) (n k : Nat) (x : Die) : (m.setDie n x).launch k = m.launch k := rfl
@[simp] theorem Mach.wq_setDie (m : Mach) (n k : Nat) (x : Die) : (m.setDie n x).wq k = m.wq k := rfl
@[simp] theorem Mach.set_at_setDie (m : Mach) (n k : Nat) (x : Die) : (m.setDie n x).set_ k = m.set_ k := rfl
@[simp] theorem Mach.netOf_setDie (m : Mach) (n k : Nat) (x : Die) : (m.setDie n x).netOf k = m.netOf k := rfl
@[simp] theorem Mach.coll_setDie (m : Mach) (n k : Nat) (x : Die) : (m.setDie n x).coll k = m.coll k := rfl
@[simp] theorem Mach.reg_setDie (m : Mach) (n k : Nat) (x : Die) : (m.setDie n x).reg k = m.reg k := rfl
@[simp] theorem Mach.die_modCore (m : Mach) (f : Core → Core) (k : Nat) : (m.modCore f).die k = m.die k := rfl
@[simp] theorem Mach.die_modRf (m : Mach) (f : Regs → Regs) (k : Nat) : (m.modRf f).die k = m.die k := rfl
@[simp] theorem Mach.die_modMem (m : Mach) (f : Mems → Mems) (k : Nat) : (m.modMem f).die k = m.die k := rfl
@[simp] theorem Mach.die_modEng (m : Mach) (f : Engs → Engs) (k : Nat) : (m.modEng f).die k = m.die k := rfl
@[simp] theorem Mach.die_modCtl (m : Mach) (f : Ctl → Ctl) (k : Nat) : (m.modCtl f).die k = m.die k := rfl
@[simp] theorem Mach.setSite_me (m : Mach) (n : Nat) (x : Site) : (m.setSite n x).me = m.me := rfl
@[simp] theorem Mach.setSite_core (m : Mach) (n : Nat) (x : Site) : (m.setSite n x).core = m.core := rfl
@[simp] theorem Mach.setSite_rest (m : Mach) (n : Nat) (x : Site) : (m.setSite n x).rest = m.rest := rfl
@[simp] theorem Mach.setSite_free (m : Mach) (n : Nat) (x : Site) : (m.setSite n x).free = m.free := rfl
theorem Mach.site_setSite (m : Mach) (n k : Nat) (x : Site) : (m.setSite n x).site k = if k = n then x else m.site k := SMap.get_set _ _ _ _ _
@[simp] theorem Mach.site_setSite_self (m : Mach) (n : Nat) (x : Site) : (m.setSite n x).site n = x := SMap.get_set_self _ _ _ _
@[simp] theorem Mach.panel_setSite (m : Mach) (n k : Nat) (x : Site) : (m.setSite n x).panel k = m.panel k := rfl
@[simp] theorem Mach.die_setSite (m : Mach) (n k : Nat) (x : Site) : (m.setSite n x).die k = m.die k := rfl
@[simp] theorem Mach.partn_setSite (m : Mach) (n k : Nat) (x : Site) : (m.setSite n x).partn k = m.partn k := rfl
@[simp] theorem Mach.vf_setSite (m : Mach) (n k : Nat) (x : Site) : (m.setSite n x).vf k = m.vf k := rfl
@[simp] theorem Mach.queue_setSite (m : Mach) (n k : Nat) (x : Site) : (m.setSite n x).queue k = m.queue k := rfl
@[simp] theorem Mach.launch_setSite (m : Mach) (n k : Nat) (x : Site) : (m.setSite n x).launch k = m.launch k := rfl
@[simp] theorem Mach.wq_setSite (m : Mach) (n k : Nat) (x : Site) : (m.setSite n x).wq k = m.wq k := rfl
@[simp] theorem Mach.set_at_setSite (m : Mach) (n k : Nat) (x : Site) : (m.setSite n x).set_ k = m.set_ k := rfl
@[simp] theorem Mach.netOf_setSite (m : Mach) (n k : Nat) (x : Site) : (m.setSite n x).netOf k = m.netOf k := rfl
@[simp] theorem Mach.coll_setSite (m : Mach) (n k : Nat) (x : Site) : (m.setSite n x).coll k = m.coll k := rfl
@[simp] theorem Mach.reg_setSite (m : Mach) (n k : Nat) (x : Site) : (m.setSite n x).reg k = m.reg k := rfl
@[simp] theorem Mach.site_modCore (m : Mach) (f : Core → Core) (k : Nat) : (m.modCore f).site k = m.site k := rfl
@[simp] theorem Mach.site_modRf (m : Mach) (f : Regs → Regs) (k : Nat) : (m.modRf f).site k = m.site k := rfl
@[simp] theorem Mach.site_modMem (m : Mach) (f : Mems → Mems) (k : Nat) : (m.modMem f).site k = m.site k := rfl
@[simp] theorem Mach.site_modEng (m : Mach) (f : Engs → Engs) (k : Nat) : (m.modEng f).site k = m.site k := rfl
@[simp] theorem Mach.site_modCtl (m : Mach) (f : Ctl → Ctl) (k : Nat) : (m.modCtl f).site k = m.site k := rfl
@[simp] theorem Mach.setPart_me (m : Mach) (n : Nat) (x : Part) : (m.setPart n x).me = m.me := rfl
@[simp] theorem Mach.setPart_core (m : Mach) (n : Nat) (x : Part) : (m.setPart n x).core = m.core := rfl
@[simp] theorem Mach.setPart_rest (m : Mach) (n : Nat) (x : Part) : (m.setPart n x).rest = m.rest := rfl
@[simp] theorem Mach.setPart_free (m : Mach) (n : Nat) (x : Part) : (m.setPart n x).free = m.free := rfl
theorem Mach.partn_setPart (m : Mach) (n k : Nat) (x : Part) : (m.setPart n x).partn k = if k = n then x else m.partn k := SMap.get_set _ _ _ _ _
@[simp] theorem Mach.partn_setPart_self (m : Mach) (n : Nat) (x : Part) : (m.setPart n x).partn n = x := SMap.get_set_self _ _ _ _
@[simp] theorem Mach.panel_setPart (m : Mach) (n k : Nat) (x : Part) : (m.setPart n x).panel k = m.panel k := rfl
@[simp] theorem Mach.die_setPart (m : Mach) (n k : Nat) (x : Part) : (m.setPart n x).die k = m.die k := rfl
@[simp] theorem Mach.site_setPart (m : Mach) (n k : Nat) (x : Part) : (m.setPart n x).site k = m.site k := rfl
@[simp] theorem Mach.vf_setPart (m : Mach) (n k : Nat) (x : Part) : (m.setPart n x).vf k = m.vf k := rfl
@[simp] theorem Mach.queue_setPart (m : Mach) (n k : Nat) (x : Part) : (m.setPart n x).queue k = m.queue k := rfl
@[simp] theorem Mach.launch_setPart (m : Mach) (n k : Nat) (x : Part) : (m.setPart n x).launch k = m.launch k := rfl
@[simp] theorem Mach.wq_setPart (m : Mach) (n k : Nat) (x : Part) : (m.setPart n x).wq k = m.wq k := rfl
@[simp] theorem Mach.set_at_setPart (m : Mach) (n k : Nat) (x : Part) : (m.setPart n x).set_ k = m.set_ k := rfl
@[simp] theorem Mach.netOf_setPart (m : Mach) (n k : Nat) (x : Part) : (m.setPart n x).netOf k = m.netOf k := rfl
@[simp] theorem Mach.coll_setPart (m : Mach) (n k : Nat) (x : Part) : (m.setPart n x).coll k = m.coll k := rfl
@[simp] theorem Mach.reg_setPart (m : Mach) (n k : Nat) (x : Part) : (m.setPart n x).reg k = m.reg k := rfl
@[simp] theorem Mach.partn_modCore (m : Mach) (f : Core → Core) (k : Nat) : (m.modCore f).partn k = m.partn k := rfl
@[simp] theorem Mach.partn_modRf (m : Mach) (f : Regs → Regs) (k : Nat) : (m.modRf f).partn k = m.partn k := rfl
@[simp] theorem Mach.partn_modMem (m : Mach) (f : Mems → Mems) (k : Nat) : (m.modMem f).partn k = m.partn k := rfl
@[simp] theorem Mach.partn_modEng (m : Mach) (f : Engs → Engs) (k : Nat) : (m.modEng f).partn k = m.partn k := rfl
@[simp] theorem Mach.partn_modCtl (m : Mach) (f : Ctl → Ctl) (k : Nat) : (m.modCtl f).partn k = m.partn k := rfl
@[simp] theorem Mach.setVf_me (m : Mach) (n : Nat) (x : VF) : (m.setVf n x).me = m.me := rfl
@[simp] theorem Mach.setVf_core (m : Mach) (n : Nat) (x : VF) : (m.setVf n x).core = m.core := rfl
@[simp] theorem Mach.setVf_rest (m : Mach) (n : Nat) (x : VF) : (m.setVf n x).rest = m.rest := rfl
@[simp] theorem Mach.setVf_free (m : Mach) (n : Nat) (x : VF) : (m.setVf n x).free = m.free := rfl
theorem Mach.vf_setVf (m : Mach) (n k : Nat) (x : VF) : (m.setVf n x).vf k = if k = n then x else m.vf k := SMap.get_set _ _ _ _ _
@[simp] theorem Mach.vf_setVf_self (m : Mach) (n : Nat) (x : VF) : (m.setVf n x).vf n = x := SMap.get_set_self _ _ _ _
@[simp] theorem Mach.panel_setVf (m : Mach) (n k : Nat) (x : VF) : (m.setVf n x).panel k = m.panel k := rfl
@[simp] theorem Mach.die_setVf (m : Mach) (n k : Nat) (x : VF) : (m.setVf n x).die k = m.die k := rfl
@[simp] theorem Mach.site_setVf (m : Mach) (n k : Nat) (x : VF) : (m.setVf n x).site k = m.site k := rfl
@[simp] theorem Mach.partn_setVf (m : Mach) (n k : Nat) (x : VF) : (m.setVf n x).partn k = m.partn k := rfl
@[simp] theorem Mach.queue_setVf (m : Mach) (n k : Nat) (x : VF) : (m.setVf n x).queue k = m.queue k := rfl
@[simp] theorem Mach.launch_setVf (m : Mach) (n k : Nat) (x : VF) : (m.setVf n x).launch k = m.launch k := rfl
@[simp] theorem Mach.wq_setVf (m : Mach) (n k : Nat) (x : VF) : (m.setVf n x).wq k = m.wq k := rfl
@[simp] theorem Mach.set_at_setVf (m : Mach) (n k : Nat) (x : VF) : (m.setVf n x).set_ k = m.set_ k := rfl
@[simp] theorem Mach.netOf_setVf (m : Mach) (n k : Nat) (x : VF) : (m.setVf n x).netOf k = m.netOf k := rfl
@[simp] theorem Mach.coll_setVf (m : Mach) (n k : Nat) (x : VF) : (m.setVf n x).coll k = m.coll k := rfl
@[simp] theorem Mach.reg_setVf (m : Mach) (n k : Nat) (x : VF) : (m.setVf n x).reg k = m.reg k := rfl
@[simp] theorem Mach.vf_modCore (m : Mach) (f : Core → Core) (k : Nat) : (m.modCore f).vf k = m.vf k := rfl
@[simp] theorem Mach.vf_modRf (m : Mach) (f : Regs → Regs) (k : Nat) : (m.modRf f).vf k = m.vf k := rfl
@[simp] theorem Mach.vf_modMem (m : Mach) (f : Mems → Mems) (k : Nat) : (m.modMem f).vf k = m.vf k := rfl
@[simp] theorem Mach.vf_modEng (m : Mach) (f : Engs → Engs) (k : Nat) : (m.modEng f).vf k = m.vf k := rfl
@[simp] theorem Mach.vf_modCtl (m : Mach) (f : Ctl → Ctl) (k : Nat) : (m.modCtl f).vf k = m.vf k := rfl
@[simp] theorem Mach.setQueue_me (m : Mach) (n : Nat) (x : Queue) : (m.setQueue n x).me = m.me := rfl
@[simp] theorem Mach.setQueue_core (m : Mach) (n : Nat) (x : Queue) : (m.setQueue n x).core = m.core := rfl
@[simp] theorem Mach.setQueue_rest (m : Mach) (n : Nat) (x : Queue) : (m.setQueue n x).rest = m.rest := rfl
@[simp] theorem Mach.setQueue_free (m : Mach) (n : Nat) (x : Queue) : (m.setQueue n x).free = m.free := rfl
theorem Mach.queue_setQueue (m : Mach) (n k : Nat) (x : Queue) : (m.setQueue n x).queue k = if k = n then x else m.queue k := SMap.get_set _ _ _ _ _
@[simp] theorem Mach.queue_setQueue_self (m : Mach) (n : Nat) (x : Queue) : (m.setQueue n x).queue n = x := SMap.get_set_self _ _ _ _
@[simp] theorem Mach.panel_setQueue (m : Mach) (n k : Nat) (x : Queue) : (m.setQueue n x).panel k = m.panel k := rfl
@[simp] theorem Mach.die_setQueue (m : Mach) (n k : Nat) (x : Queue) : (m.setQueue n x).die k = m.die k := rfl
@[simp] theorem Mach.site_setQueue (m : Mach) (n k : Nat) (x : Queue) : (m.setQueue n x).site k = m.site k := rfl
@[simp] theorem Mach.partn_setQueue (m : Mach) (n k : Nat) (x : Queue) : (m.setQueue n x).partn k = m.partn k := rfl
@[simp] theorem Mach.vf_setQueue (m : Mach) (n k : Nat) (x : Queue) : (m.setQueue n x).vf k = m.vf k := rfl
@[simp] theorem Mach.launch_setQueue (m : Mach) (n k : Nat) (x : Queue) : (m.setQueue n x).launch k = m.launch k := rfl
@[simp] theorem Mach.wq_setQueue (m : Mach) (n k : Nat) (x : Queue) : (m.setQueue n x).wq k = m.wq k := rfl
@[simp] theorem Mach.set_at_setQueue (m : Mach) (n k : Nat) (x : Queue) : (m.setQueue n x).set_ k = m.set_ k := rfl
@[simp] theorem Mach.netOf_setQueue (m : Mach) (n k : Nat) (x : Queue) : (m.setQueue n x).netOf k = m.netOf k := rfl
@[simp] theorem Mach.coll_setQueue (m : Mach) (n k : Nat) (x : Queue) : (m.setQueue n x).coll k = m.coll k := rfl
@[simp] theorem Mach.reg_setQueue (m : Mach) (n k : Nat) (x : Queue) : (m.setQueue n x).reg k = m.reg k := rfl
@[simp] theorem Mach.queue_modCore (m : Mach) (f : Core → Core) (k : Nat) : (m.modCore f).queue k = m.queue k := rfl
@[simp] theorem Mach.queue_modRf (m : Mach) (f : Regs → Regs) (k : Nat) : (m.modRf f).queue k = m.queue k := rfl
@[simp] theorem Mach.queue_modMem (m : Mach) (f : Mems → Mems) (k : Nat) : (m.modMem f).queue k = m.queue k := rfl
@[simp] theorem Mach.queue_modEng (m : Mach) (f : Engs → Engs) (k : Nat) : (m.modEng f).queue k = m.queue k := rfl
@[simp] theorem Mach.queue_modCtl (m : Mach) (f : Ctl → Ctl) (k : Nat) : (m.modCtl f).queue k = m.queue k := rfl
@[simp] theorem Mach.setLaunch_me (m : Mach) (n : Nat) (x : Launch) : (m.setLaunch n x).me = m.me := rfl
@[simp] theorem Mach.setLaunch_core (m : Mach) (n : Nat) (x : Launch) : (m.setLaunch n x).core = m.core := rfl
@[simp] theorem Mach.setLaunch_rest (m : Mach) (n : Nat) (x : Launch) : (m.setLaunch n x).rest = m.rest := rfl
@[simp] theorem Mach.setLaunch_free (m : Mach) (n : Nat) (x : Launch) : (m.setLaunch n x).free = m.free := rfl
theorem Mach.launch_setLaunch (m : Mach) (n k : Nat) (x : Launch) : (m.setLaunch n x).launch k = if k = n then x else m.launch k := SMap.get_set _ _ _ _ _
@[simp] theorem Mach.launch_setLaunch_self (m : Mach) (n : Nat) (x : Launch) : (m.setLaunch n x).launch n = x := SMap.get_set_self _ _ _ _
@[simp] theorem Mach.panel_setLaunch (m : Mach) (n k : Nat) (x : Launch) : (m.setLaunch n x).panel k = m.panel k := rfl
@[simp] theorem Mach.die_setLaunch (m : Mach) (n k : Nat) (x : Launch) : (m.setLaunch n x).die k = m.die k := rfl
@[simp] theorem Mach.site_setLaunch (m : Mach) (n k : Nat) (x : Launch) : (m.setLaunch n x).site k = m.site k := rfl
@[simp] theorem Mach.partn_setLaunch (m : Mach) (n k : Nat) (x : Launch) : (m.setLaunch n x).partn k = m.partn k := rfl
@[simp] theorem Mach.vf_setLaunch (m : Mach) (n k : Nat) (x : Launch) : (m.setLaunch n x).vf k = m.vf k := rfl
@[simp] theorem Mach.queue_setLaunch (m : Mach) (n k : Nat) (x : Launch) : (m.setLaunch n x).queue k = m.queue k := rfl
@[simp] theorem Mach.wq_setLaunch (m : Mach) (n k : Nat) (x : Launch) : (m.setLaunch n x).wq k = m.wq k := rfl
@[simp] theorem Mach.set_at_setLaunch (m : Mach) (n k : Nat) (x : Launch) : (m.setLaunch n x).set_ k = m.set_ k := rfl
@[simp] theorem Mach.netOf_setLaunch (m : Mach) (n k : Nat) (x : Launch) : (m.setLaunch n x).netOf k = m.netOf k := rfl
@[simp] theorem Mach.coll_setLaunch (m : Mach) (n k : Nat) (x : Launch) : (m.setLaunch n x).coll k = m.coll k := rfl
@[simp] theorem Mach.reg_setLaunch (m : Mach) (n k : Nat) (x : Launch) : (m.setLaunch n x).reg k = m.reg k := rfl
@[simp] theorem Mach.launch_modCore (m : Mach) (f : Core → Core) (k : Nat) : (m.modCore f).launch k = m.launch k := rfl
@[simp] theorem Mach.launch_modRf (m : Mach) (f : Regs → Regs) (k : Nat) : (m.modRf f).launch k = m.launch k := rfl
@[simp] theorem Mach.launch_modMem (m : Mach) (f : Mems → Mems) (k : Nat) : (m.modMem f).launch k = m.launch k := rfl
@[simp] theorem Mach.launch_modEng (m : Mach) (f : Engs → Engs) (k : Nat) : (m.modEng f).launch k = m.launch k := rfl
@[simp] theorem Mach.launch_modCtl (m : Mach) (f : Ctl → Ctl) (k : Nat) : (m.modCtl f).launch k = m.launch k := rfl
@[simp] theorem Mach.setWq_me (m : Mach) (n : Nat) (x : WQ) : (m.setWq n x).me = m.me := rfl
@[simp] theorem Mach.setWq_core (m : Mach) (n : Nat) (x : WQ) : (m.setWq n x).core = m.core := rfl
@[simp] theorem Mach.setWq_rest (m : Mach) (n : Nat) (x : WQ) : (m.setWq n x).rest = m.rest := rfl
@[simp] theorem Mach.setWq_free (m : Mach) (n : Nat) (x : WQ) : (m.setWq n x).free = m.free := rfl
theorem Mach.wq_setWq (m : Mach) (n k : Nat) (x : WQ) : (m.setWq n x).wq k = if k = n then x else m.wq k := SMap.get_set _ _ _ _ _
@[simp] theorem Mach.wq_setWq_self (m : Mach) (n : Nat) (x : WQ) : (m.setWq n x).wq n = x := SMap.get_set_self _ _ _ _
@[simp] theorem Mach.panel_setWq (m : Mach) (n k : Nat) (x : WQ) : (m.setWq n x).panel k = m.panel k := rfl
@[simp] theorem Mach.die_setWq (m : Mach) (n k : Nat) (x : WQ) : (m.setWq n x).die k = m.die k := rfl
@[simp] theorem Mach.site_setWq (m : Mach) (n k : Nat) (x : WQ) : (m.setWq n x).site k = m.site k := rfl
@[simp] theorem Mach.partn_setWq (m : Mach) (n k : Nat) (x : WQ) : (m.setWq n x).partn k = m.partn k := rfl
@[simp] theorem Mach.vf_setWq (m : Mach) (n k : Nat) (x : WQ) : (m.setWq n x).vf k = m.vf k := rfl
@[simp] theorem Mach.queue_setWq (m : Mach) (n k : Nat) (x : WQ) : (m.setWq n x).queue k = m.queue k := rfl
@[simp] theorem Mach.launch_setWq (m : Mach) (n k : Nat) (x : WQ) : (m.setWq n x).launch k = m.launch k := rfl
@[simp] theorem Mach.set_at_setWq (m : Mach) (n k : Nat) (x : WQ) : (m.setWq n x).set_ k = m.set_ k := rfl
@[simp] theorem Mach.netOf_setWq (m : Mach) (n k : Nat) (x : WQ) : (m.setWq n x).netOf k = m.netOf k := rfl
@[simp] theorem Mach.coll_setWq (m : Mach) (n k : Nat) (x : WQ) : (m.setWq n x).coll k = m.coll k := rfl
@[simp] theorem Mach.reg_setWq (m : Mach) (n k : Nat) (x : WQ) : (m.setWq n x).reg k = m.reg k := rfl
@[simp] theorem Mach.wq_modCore (m : Mach) (f : Core → Core) (k : Nat) : (m.modCore f).wq k = m.wq k := rfl
@[simp] theorem Mach.wq_modRf (m : Mach) (f : Regs → Regs) (k : Nat) : (m.modRf f).wq k = m.wq k := rfl
@[simp] theorem Mach.wq_modMem (m : Mach) (f : Mems → Mems) (k : Nat) : (m.modMem f).wq k = m.wq k := rfl
@[simp] theorem Mach.wq_modEng (m : Mach) (f : Engs → Engs) (k : Nat) : (m.modEng f).wq k = m.wq k := rfl
@[simp] theorem Mach.wq_modCtl (m : Mach) (f : Ctl → Ctl) (k : Nat) : (m.modCtl f).wq k = m.wq k := rfl
@[simp] theorem Mach.setSet_me (m : Mach) (n : Nat) (x : SeamSet) : (m.setSet n x).me = m.me := rfl
@[simp] theorem Mach.setSet_core (m : Mach) (n : Nat) (x : SeamSet) : (m.setSet n x).core = m.core := rfl
@[simp] theorem Mach.setSet_rest (m : Mach) (n : Nat) (x : SeamSet) : (m.setSet n x).rest = m.rest := rfl
@[simp] theorem Mach.setSet_free (m : Mach) (n : Nat) (x : SeamSet) : (m.setSet n x).free = m.free := rfl
theorem Mach.set_at_setSet (m : Mach) (n k : Nat) (x : SeamSet) : (m.setSet n x).set_ k = if k = n then x else m.set_ k := SMap.get_set _ _ _ _ _
@[simp] theorem Mach.set_at_setSet_self (m : Mach) (n : Nat) (x : SeamSet) : (m.setSet n x).set_ n = x := SMap.get_set_self _ _ _ _
@[simp] theorem Mach.panel_setSet (m : Mach) (n k : Nat) (x : SeamSet) : (m.setSet n x).panel k = m.panel k := rfl
@[simp] theorem Mach.die_setSet (m : Mach) (n k : Nat) (x : SeamSet) : (m.setSet n x).die k = m.die k := rfl
@[simp] theorem Mach.site_setSet (m : Mach) (n k : Nat) (x : SeamSet) : (m.setSet n x).site k = m.site k := rfl
@[simp] theorem Mach.partn_setSet (m : Mach) (n k : Nat) (x : SeamSet) : (m.setSet n x).partn k = m.partn k := rfl
@[simp] theorem Mach.vf_setSet (m : Mach) (n k : Nat) (x : SeamSet) : (m.setSet n x).vf k = m.vf k := rfl
@[simp] theorem Mach.queue_setSet (m : Mach) (n k : Nat) (x : SeamSet) : (m.setSet n x).queue k = m.queue k := rfl
@[simp] theorem Mach.launch_setSet (m : Mach) (n k : Nat) (x : SeamSet) : (m.setSet n x).launch k = m.launch k := rfl
@[simp] theorem Mach.wq_setSet (m : Mach) (n k : Nat) (x : SeamSet) : (m.setSet n x).wq k = m.wq k := rfl
@[simp] theorem Mach.netOf_setSet (m : Mach) (n k : Nat) (x : SeamSet) : (m.setSet n x).netOf k = m.netOf k := rfl
@[simp] theorem Mach.coll_setSet (m : Mach) (n k : Nat) (x : SeamSet) : (m.setSet n x).coll k = m.coll k := rfl
@[simp] theorem Mach.reg_setSet (m : Mach) (n k : Nat) (x : SeamSet) : (m.setSet n x).reg k = m.reg k := rfl
@[simp] theorem Mach.set_at_modCore (m : Mach) (f : Core → Core) (k : Nat) : (m.modCore f).set_ k = m.set_ k := rfl
@[simp] theorem Mach.set_at_modRf (m : Mach) (f : Regs → Regs) (k : Nat) : (m.modRf f).set_ k = m.set_ k := rfl
@[simp] theorem Mach.set_at_modMem (m : Mach) (f : Mems → Mems) (k : Nat) : (m.modMem f).set_ k = m.set_ k := rfl
@[simp] theorem Mach.set_at_modEng (m : Mach) (f : Engs → Engs) (k : Nat) : (m.modEng f).set_ k = m.set_ k := rfl
@[simp] theorem Mach.set_at_modCtl (m : Mach) (f : Ctl → Ctl) (k : Nat) : (m.modCtl f).set_ k = m.set_ k := rfl
@[simp] theorem Mach.setNet_me (m : Mach) (n : Nat) (x : List Pkt) : (m.setNet n x).me = m.me := rfl
@[simp] theorem Mach.setNet_core (m : Mach) (n : Nat) (x : List Pkt) : (m.setNet n x).core = m.core := rfl
@[simp] theorem Mach.setNet_rest (m : Mach) (n : Nat) (x : List Pkt) : (m.setNet n x).rest = m.rest := rfl
@[simp] theorem Mach.setNet_free (m : Mach) (n : Nat) (x : List Pkt) : (m.setNet n x).free = m.free := rfl
theorem Mach.netOf_setNet (m : Mach) (n k : Nat) (x : List Pkt) : (m.setNet n x).netOf k = if k = n then x else m.netOf k := SMap.get_set _ _ _ _ _
@[simp] theorem Mach.netOf_setNet_self (m : Mach) (n : Nat) (x : List Pkt) : (m.setNet n x).netOf n = x := SMap.get_set_self _ _ _ _
@[simp] theorem Mach.panel_setNet (m : Mach) (n k : Nat) (x : List Pkt) : (m.setNet n x).panel k = m.panel k := rfl
@[simp] theorem Mach.die_setNet (m : Mach) (n k : Nat) (x : List Pkt) : (m.setNet n x).die k = m.die k := rfl
@[simp] theorem Mach.site_setNet (m : Mach) (n k : Nat) (x : List Pkt) : (m.setNet n x).site k = m.site k := rfl
@[simp] theorem Mach.partn_setNet (m : Mach) (n k : Nat) (x : List Pkt) : (m.setNet n x).partn k = m.partn k := rfl
@[simp] theorem Mach.vf_setNet (m : Mach) (n k : Nat) (x : List Pkt) : (m.setNet n x).vf k = m.vf k := rfl
@[simp] theorem Mach.queue_setNet (m : Mach) (n k : Nat) (x : List Pkt) : (m.setNet n x).queue k = m.queue k := rfl
@[simp] theorem Mach.launch_setNet (m : Mach) (n k : Nat) (x : List Pkt) : (m.setNet n x).launch k = m.launch k := rfl
@[simp] theorem Mach.wq_setNet (m : Mach) (n k : Nat) (x : List Pkt) : (m.setNet n x).wq k = m.wq k := rfl
@[simp] theorem Mach.set_at_setNet (m : Mach) (n k : Nat) (x : List Pkt) : (m.setNet n x).set_ k = m.set_ k := rfl
@[simp] theorem Mach.coll_setNet (m : Mach) (n k : Nat) (x : List Pkt) : (m.setNet n x).coll k = m.coll k := rfl
@[simp] theorem Mach.reg_setNet (m : Mach) (n k : Nat) (x : List Pkt) : (m.setNet n x).reg k = m.reg k := rfl
@[simp] theorem Mach.netOf_modCore (m : Mach) (f : Core → Core) (k : Nat) : (m.modCore f).netOf k = m.netOf k := rfl
@[simp] theorem Mach.netOf_modRf (m : Mach) (f : Regs → Regs) (k : Nat) : (m.modRf f).netOf k = m.netOf k := rfl
@[simp] theorem Mach.netOf_modMem (m : Mach) (f : Mems → Mems) (k : Nat) : (m.modMem f).netOf k = m.netOf k := rfl
@[simp] theorem Mach.netOf_modEng (m : Mach) (f : Engs → Engs) (k : Nat) : (m.modEng f).netOf k = m.netOf k := rfl
@[simp] theorem Mach.netOf_modCtl (m : Mach) (f : Ctl → Ctl) (k : Nat) : (m.modCtl f).netOf k = m.netOf k := rfl
@[simp] theorem Mach.setColl_me (m : Mach) (n : Nat) (x : Coll) : (m.setColl n x).me = m.me := rfl
@[simp] theorem Mach.setColl_core (m : Mach) (n : Nat) (x : Coll) : (m.setColl n x).core = m.core := rfl
@[simp] theorem Mach.setColl_rest (m : Mach) (n : Nat) (x : Coll) : (m.setColl n x).rest = m.rest := rfl
@[simp] theorem Mach.setColl_free (m : Mach) (n : Nat) (x : Coll) : (m.setColl n x).free = m.free := rfl
theorem Mach.coll_setColl (m : Mach) (n k : Nat) (x : Coll) : (m.setColl n x).coll k = if k = n then x else m.coll k := SMap.get_set _ _ _ _ _
@[simp] theorem Mach.coll_setColl_self (m : Mach) (n : Nat) (x : Coll) : (m.setColl n x).coll n = x := SMap.get_set_self _ _ _ _
@[simp] theorem Mach.panel_setColl (m : Mach) (n k : Nat) (x : Coll) : (m.setColl n x).panel k = m.panel k := rfl
@[simp] theorem Mach.die_setColl (m : Mach) (n k : Nat) (x : Coll) : (m.setColl n x).die k = m.die k := rfl
@[simp] theorem Mach.site_setColl (m : Mach) (n k : Nat) (x : Coll) : (m.setColl n x).site k = m.site k := rfl
@[simp] theorem Mach.partn_setColl (m : Mach) (n k : Nat) (x : Coll) : (m.setColl n x).partn k = m.partn k := rfl
@[simp] theorem Mach.vf_setColl (m : Mach) (n k : Nat) (x : Coll) : (m.setColl n x).vf k = m.vf k := rfl
@[simp] theorem Mach.queue_setColl (m : Mach) (n k : Nat) (x : Coll) : (m.setColl n x).queue k = m.queue k := rfl
@[simp] theorem Mach.launch_setColl (m : Mach) (n k : Nat) (x : Coll) : (m.setColl n x).launch k = m.launch k := rfl
@[simp] theorem Mach.wq_setColl (m : Mach) (n k : Nat) (x : Coll) : (m.setColl n x).wq k = m.wq k := rfl
@[simp] theorem Mach.set_at_setColl (m : Mach) (n k : Nat) (x : Coll) : (m.setColl n x).set_ k = m.set_ k := rfl
@[simp] theorem Mach.netOf_setColl (m : Mach) (n k : Nat) (x : Coll) : (m.setColl n x).netOf k = m.netOf k := rfl
@[simp] theorem Mach.reg_setColl (m : Mach) (n k : Nat) (x : Coll) : (m.setColl n x).reg k = m.reg k := rfl
@[simp] theorem Mach.coll_modCore (m : Mach) (f : Core → Core) (k : Nat) : (m.modCore f).coll k = m.coll k := rfl
@[simp] theorem Mach.coll_modRf (m : Mach) (f : Regs → Regs) (k : Nat) : (m.modRf f).coll k = m.coll k := rfl
@[simp] theorem Mach.coll_modMem (m : Mach) (f : Mems → Mems) (k : Nat) : (m.modMem f).coll k = m.coll k := rfl
@[simp] theorem Mach.coll_modEng (m : Mach) (f : Engs → Engs) (k : Nat) : (m.modEng f).coll k = m.coll k := rfl
@[simp] theorem Mach.coll_modCtl (m : Mach) (f : Ctl → Ctl) (k : Nat) : (m.modCtl f).coll k = m.coll k := rfl
@[simp] theorem Mach.setReg_me (m : Mach) (n : Nat) (x : Dword) : (m.setReg n x).me = m.me := rfl
@[simp] theorem Mach.setReg_core (m : Mach) (n : Nat) (x : Dword) : (m.setReg n x).core = m.core := rfl
@[simp] theorem Mach.setReg_rest (m : Mach) (n : Nat) (x : Dword) : (m.setReg n x).rest = m.rest := rfl
@[simp] theorem Mach.setReg_free (m : Mach) (n : Nat) (x : Dword) : (m.setReg n x).free = m.free := rfl
theorem Mach.reg_setReg (m : Mach) (n k : Nat) (x : Dword) : (m.setReg n x).reg k = if k = n then x else m.reg k := SMap.get_set _ _ _ _ _
@[simp] theorem Mach.reg_setReg_self (m : Mach) (n : Nat) (x : Dword) : (m.setReg n x).reg n = x := SMap.get_set_self _ _ _ _
@[simp] theorem Mach.panel_setReg (m : Mach) (n k : Nat) (x : Dword) : (m.setReg n x).panel k = m.panel k := rfl
@[simp] theorem Mach.die_setReg (m : Mach) (n k : Nat) (x : Dword) : (m.setReg n x).die k = m.die k := rfl
@[simp] theorem Mach.site_setReg (m : Mach) (n k : Nat) (x : Dword) : (m.setReg n x).site k = m.site k := rfl
@[simp] theorem Mach.partn_setReg (m : Mach) (n k : Nat) (x : Dword) : (m.setReg n x).partn k = m.partn k := rfl
@[simp] theorem Mach.vf_setReg (m : Mach) (n k : Nat) (x : Dword) : (m.setReg n x).vf k = m.vf k := rfl
@[simp] theorem Mach.queue_setReg (m : Mach) (n k : Nat) (x : Dword) : (m.setReg n x).queue k = m.queue k := rfl
@[simp] theorem Mach.launch_setReg (m : Mach) (n k : Nat) (x : Dword) : (m.setReg n x).launch k = m.launch k := rfl
@[simp] theorem Mach.wq_setReg (m : Mach) (n k : Nat) (x : Dword) : (m.setReg n x).wq k = m.wq k := rfl
@[simp] theorem Mach.set_at_setReg (m : Mach) (n k : Nat) (x : Dword) : (m.setReg n x).set_ k = m.set_ k := rfl
@[simp] theorem Mach.netOf_setReg (m : Mach) (n k : Nat) (x : Dword) : (m.setReg n x).netOf k = m.netOf k := rfl
@[simp] theorem Mach.coll_setReg (m : Mach) (n k : Nat) (x : Dword) : (m.setReg n x).coll k = m.coll k := rfl
@[simp] theorem Mach.reg_modCore (m : Mach) (f : Core → Core) (k : Nat) : (m.modCore f).reg k = m.reg k := rfl
@[simp] theorem Mach.reg_modRf (m : Mach) (f : Regs → Regs) (k : Nat) : (m.modRf f).reg k = m.reg k := rfl
@[simp] theorem Mach.reg_modMem (m : Mach) (f : Mems → Mems) (k : Nat) : (m.modMem f).reg k = m.reg k := rfl
@[simp] theorem Mach.reg_modEng (m : Mach) (f : Engs → Engs) (k : Nat) : (m.modEng f).reg k = m.reg k := rfl
@[simp] theorem Mach.reg_modCtl (m : Mach) (f : Ctl → Ctl) (k : Nat) : (m.modCtl f).reg k = m.reg k := rfl

/-! ### Registers and rows of an agent -/

@[simp] theorem Core.s_setS_self (c : Core) (r : Nat) (x : SReg) (h : r ≠ 0) : (c.setS r x).s r = x := by
  simp [Core.s, Core.setS, h]
@[simp] theorem Core.s_setS_ne (c : Core) {r k : Nat} (x : SReg) (h : k ≠ r) : (c.setS r x).s k = c.s k := by
  unfold Core.setS
  split
  · rfl
  · simp [Core.s, h]
@[simp] theorem Core.p_setP_self (c : Core) (r : Nat) (x : PReg) (h : r ≠ 0) : (c.setP r x).p r = x := by
  simp [Core.p, Core.setP, h]
@[simp] theorem Core.p_setP_ne (c : Core) {r k : Nat} (x : PReg) (h : k ≠ r) : (c.setP r x).p k = c.p k := by
  unfold Core.setP
  split
  · rfl
  · simp [Core.p, h]
/-- s0 and p0 are hard-wired (R324). -/
@[simp] theorem Core.s_zero (c : Core) : c.s 0 = {} := rfl
@[simp] theorem Core.p_zero (c : Core) : c.p 0 = ⟨true, false⟩ := rfl
@[simp] theorem Core.setS_zero (c : Core) (x : SReg) : c.setS 0 x = c := rfl
@[simp] theorem Core.setP_zero (c : Core) (x : PReg) : c.setP 0 x = c := rfl
theorem Core.row_setRow (c : Core) (r k : Nat) (x : RowP) : (c.setRow r x).row k = if k = r then x else c.row k :=
  SMap.get_set _ _ _ _ _
theorem Core.hq_setHq (c : Core) (n k : Nat) (q : HQ) : (c.setHq n q).hq k = if k = n then q else c.hq k :=
  SMap.get_set _ _ _ _ _
theorem Core.csr_setCsr (c : Core) (t : Bool) (n k : Nat) (v : Dword) :
    (c.setCsr t n v).csr t k = if k = n then v else c.csr t k := SMap.get_set _ _ _ _ _
theorem Mach.csr_setCsr (m : Mach) (n k : Nat) (v : Dword) : (m.setCsr n v).csr k = if k = n then v else m.csr k :=
  SMap.get_set _ _ _ _ _
@[simp] theorem Mach.csr_modCtl (m : Mach) (f : Ctl → Ctl) (k : Nat) : (m.modCtl f).csr k = m.csr k := rfl
@[simp] theorem Mach.csr_modMem (m : Mach) (f : Mems → Mems) (k : Nat) : (m.modMem f).csr k = m.csr k := rfl
@[simp] theorem Mach.csr_modEng (m : Mach) (f : Engs → Engs) (k : Nat) : (m.modEng f).csr k = m.csr k := rfl
@[simp] theorem Mach.csr_onSys (m : Mach) (f : Sys → Sys) (k : Nat) : (m.onSys f).csr k = m.csr k := rfl

/-! ### Agents -/

@[simp] theorem Mach.agent_me (m : Mach) : m.agent m.me = m.core := by simp [Mach.agent]
@[simp] theorem Mach.setAgent_me (m : Mach) (a : Nat) (c : Core) : (m.setAgent a c).me = m.me := by
  unfold Mach.setAgent; split <;> rfl
@[simp] theorem Mach.setAgent_sys (m : Mach) (a : Nat) (c : Core) : (m.setAgent a c).sys = m.sys := by
  unfold Mach.setAgent; split <;> rfl
@[simp] theorem Mach.setAgent_free (m : Mach) (a : Nat) (c : Core) : (m.setAgent a c).free = m.free := by
  unfold Mach.setAgent; split <;> rfl
@[simp] theorem Mach.agent_setAgent (m : Mach) (a : Nat) (c : Core) : (m.setAgent a c).agent a = c := by
  unfold Mach.setAgent Mach.agent; split <;> simp_all
theorem Mach.agent_setAgent_ne (m : Mach) {a b : Nat} (c : Core) (h : b ≠ a) : (m.setAgent a c).agent b = m.agent b := by
  unfold Mach.setAgent Mach.agent; split <;> simp_all
@[simp] theorem Mach.modAgent_me (m : Mach) (a : Nat) (f : Core → Core) : (m.modAgent a f).me = m.me := by
  simp [Mach.modAgent]
@[simp] theorem Mach.modAgent_sys (m : Mach) (a : Nat) (f : Core → Core) : (m.modAgent a f).sys = m.sys := by
  simp [Mach.modAgent]
@[simp] theorem Mach.agent_modAgent (m : Mach) (a : Nat) (f : Core → Core) : (m.modAgent a f).agent a = f (m.agent a) := by
  simp [Mach.modAgent]
theorem Mach.agent_modAgent_ne (m : Mach) {a b : Nat} (f : Core → Core) (h : b ≠ a) :
    (m.modAgent a f).agent b = m.agent b := Mach.agent_setAgent_ne m _ h

@[simp] theorem Mach.panel_modAgent (m : Mach) (a : Nat) (f : Core → Core) (k : Nat) : (m.modAgent a f).panel k = m.panel k := by simp [Mach.panel]
@[simp] theorem Mach.die_modAgent (m : Mach) (a : Nat) (f : Core → Core) (k : Nat) : (m.modAgent a f).die k = m.die k := by simp [Mach.die]
@[simp] theorem Mach.site_modAgent (m : Mach) (a : Nat) (f : Core → Core) (k : Nat) : (m.modAgent a f).site k = m.site k := by simp [Mach.site]
@[simp] theorem Mach.partn_modAgent (m : Mach) (a : Nat) (f : Core → Core) (k : Nat) : (m.modAgent a f).partn k = m.partn k := by simp [Mach.partn]
@[simp] theorem Mach.vf_modAgent (m : Mach) (a : Nat) (f : Core → Core) (k : Nat) : (m.modAgent a f).vf k = m.vf k := by simp [Mach.vf]
@[simp] theorem Mach.queue_modAgent (m : Mach) (a : Nat) (f : Core → Core) (k : Nat) : (m.modAgent a f).queue k = m.queue k := by simp [Mach.queue]
@[simp] theorem Mach.launch_modAgent (m : Mach) (a : Nat) (f : Core → Core) (k : Nat) : (m.modAgent a f).launch k = m.launch k := by simp [Mach.launch]
@[simp] theorem Mach.wq_modAgent (m : Mach) (a : Nat) (f : Core → Core) (k : Nat) : (m.modAgent a f).wq k = m.wq k := by simp [Mach.wq]
@[simp] theorem Mach.set_at_modAgent (m : Mach) (a : Nat) (f : Core → Core) (k : Nat) : (m.modAgent a f).set_ k = m.set_ k := by simp [Mach.set_]
@[simp] theorem Mach.netOf_modAgent (m : Mach) (a : Nat) (f : Core → Core) (k : Nat) : (m.modAgent a f).netOf k = m.netOf k := by simp [Mach.netOf]
@[simp] theorem Mach.coll_modAgent (m : Mach) (a : Nat) (f : Core → Core) (k : Nat) : (m.modAgent a f).coll k = m.coll k := by simp [Mach.coll]
@[simp] theorem Mach.reg_modAgent (m : Mach) (a : Nat) (f : Core → Core) (k : Nat) : (m.modAgent a f).reg k = m.reg k := by simp [Mach.reg]

/-! ### What derives from the units: stacks, die clocks, running tiles; and what the outside is sent -/

@[simp] theorem Mach.stack_setPanel (m : Mach) (n : Nat) (x : Panel) (k : Nat) : (m.setPanel n x).stack k = m.stack k := rfl
@[simp] theorem Mach.stack_setDie (m : Mach) (n : Nat) (x : Die) (k : Nat) : (m.setDie n x).stack k = m.stack k := rfl
@[simp] theorem Mach.stack_setSite (m : Mach) (n : Nat) (x : Site) (k : Nat) : (m.setSite n x).stack k = m.stack k := rfl
@[simp] theorem Mach.stack_setPart (m : Mach) (n : Nat) (x : Part) (k : Nat) : (m.setPart n x).stack k = m.stack k := rfl
@[simp] theorem Mach.stack_setVf (m : Mach) (n : Nat) (x : VF) (k : Nat) : (m.setVf n x).stack k = m.stack k := rfl
@[simp] theorem Mach.stack_setQueue (m : Mach) (n : Nat) (x : Queue) (k : Nat) : (m.setQueue n x).stack k = m.stack k := rfl
@[simp] theorem Mach.stack_setLaunch (m : Mach) (n : Nat) (x : Launch) (k : Nat) : (m.setLaunch n x).stack k = m.stack k := rfl
@[simp] theorem Mach.stack_setWq (m : Mach) (n : Nat) (x : WQ) (k : Nat) : (m.setWq n x).stack k = m.stack k := rfl
@[simp] theorem Mach.stack_setSet (m : Mach) (n : Nat) (x : SeamSet) (k : Nat) : (m.setSet n x).stack k = m.stack k := rfl
@[simp] theorem Mach.stack_setNet (m : Mach) (n : Nat) (x : List Pkt) (k : Nat) : (m.setNet n x).stack k = m.stack k := rfl
@[simp] theorem Mach.stack_setColl (m : Mach) (n : Nat) (x : Coll) (k : Nat) : (m.setColl n x).stack k = m.stack k := rfl
@[simp] theorem Mach.stack_setReg (m : Mach) (n : Nat) (x : Dword) (k : Nat) : (m.setReg n x).stack k = m.stack k := rfl
@[simp] theorem Mach.stack_modCore (m : Mach) (f : Core → Core) (k : Nat) : (m.modCore f).stack k = m.stack k := rfl
@[simp] theorem Mach.stack_modRf (m : Mach) (f : Regs → Regs) (k : Nat) : (m.modRf f).stack k = m.stack k := rfl
@[simp] theorem Mach.stack_modMem (m : Mach) (f : Mems → Mems) (k : Nat) : (m.modMem f).stack k = m.stack k := rfl
@[simp] theorem Mach.stack_modEng (m : Mach) (f : Engs → Engs) (k : Nat) : (m.modEng f).stack k = m.stack k := rfl
@[simp] theorem Mach.stack_modCtl (m : Mach) (f : Ctl → Ctl) (k : Nat) : (m.modCtl f).stack k = m.stack k := rfl
@[simp] theorem Mach.clocked_setPanel (m : Mach) (n : Nat) (x : Panel) (d : Nat) : (m.setPanel n x).clocked d = m.clocked d := rfl
@[simp] theorem Mach.clocked_setSite (m : Mach) (n : Nat) (x : Site) (d : Nat) : (m.setSite n x).clocked d = m.clocked d := rfl
@[simp] theorem Mach.clocked_setPart (m : Mach) (n : Nat) (x : Part) (d : Nat) : (m.setPart n x).clocked d = m.clocked d := rfl
@[simp] theorem Mach.clocked_setVf (m : Mach) (n : Nat) (x : VF) (d : Nat) : (m.setVf n x).clocked d = m.clocked d := rfl
@[simp] theorem Mach.clocked_setQueue (m : Mach) (n : Nat) (x : Queue) (d : Nat) : (m.setQueue n x).clocked d = m.clocked d := rfl
@[simp] theorem Mach.clocked_setLaunch (m : Mach) (n : Nat) (x : Launch) (d : Nat) : (m.setLaunch n x).clocked d = m.clocked d := rfl
@[simp] theorem Mach.clocked_setWq (m : Mach) (n : Nat) (x : WQ) (d : Nat) : (m.setWq n x).clocked d = m.clocked d := rfl
@[simp] theorem Mach.clocked_setSet (m : Mach) (n : Nat) (x : SeamSet) (d : Nat) : (m.setSet n x).clocked d = m.clocked d := rfl
@[simp] theorem Mach.clocked_setNet (m : Mach) (n : Nat) (x : List Pkt) (d : Nat) : (m.setNet n x).clocked d = m.clocked d := rfl
@[simp] theorem Mach.clocked_setColl (m : Mach) (n : Nat) (x : Coll) (d : Nat) : (m.setColl n x).clocked d = m.clocked d := rfl
@[simp] theorem Mach.clocked_setReg (m : Mach) (n : Nat) (x : Dword) (d : Nat) : (m.setReg n x).clocked d = m.clocked d := rfl
@[simp] theorem Mach.clocked_modCore (m : Mach) (f : Core → Core) (d : Nat) : (m.modCore f).clocked d = m.clocked d := rfl
@[simp] theorem Mach.clocked_modRf (m : Mach) (f : Regs → Regs) (d : Nat) : (m.modRf f).clocked d = m.clocked d := rfl
@[simp] theorem Mach.clocked_modMem (m : Mach) (f : Mems → Mems) (d : Nat) : (m.modMem f).clocked d = m.clocked d := rfl
@[simp] theorem Mach.clocked_modEng (m : Mach) (f : Engs → Engs) (d : Nat) : (m.modEng f).clocked d = m.clocked d := rfl
@[simp] theorem Mach.clocked_modCtl (m : Mach) (f : Ctl → Ctl) (d : Nat) : (m.modCtl f).clocked d = m.clocked d := rfl
@[simp] theorem Mach.dieClock_setPanel (m : Mach) (n : Nat) (x : Panel) (d : Nat) : (m.setPanel n x).dieClock d = m.dieClock d := rfl
@[simp] theorem Mach.dieClock_setSite (m : Mach) (n : Nat) (x : Site) (d : Nat) : (m.setSite n x).dieClock d = m.dieClock d := rfl
@[simp] theorem Mach.dieClock_setPart (m : Mach) (n : Nat) (x : Part) (d : Nat) : (m.setPart n x).dieClock d = m.dieClock d := rfl
@[simp] theorem Mach.dieClock_setVf (m : Mach) (n : Nat) (x : VF) (d : Nat) : (m.setVf n x).dieClock d = m.dieClock d := rfl
@[simp] theorem Mach.dieClock_setQueue (m : Mach) (n : Nat) (x : Queue) (d : Nat) : (m.setQueue n x).dieClock d = m.dieClock d := rfl
@[simp] theorem Mach.dieClock_setLaunch (m : Mach) (n : Nat) (x : Launch) (d : Nat) : (m.setLaunch n x).dieClock d = m.dieClock d := rfl
@[simp] theorem Mach.dieClock_setWq (m : Mach) (n : Nat) (x : WQ) (d : Nat) : (m.setWq n x).dieClock d = m.dieClock d := rfl
@[simp] theorem Mach.dieClock_setSet (m : Mach) (n : Nat) (x : SeamSet) (d : Nat) : (m.setSet n x).dieClock d = m.dieClock d := rfl
@[simp] theorem Mach.dieClock_setNet (m : Mach) (n : Nat) (x : List Pkt) (d : Nat) : (m.setNet n x).dieClock d = m.dieClock d := rfl
@[simp] theorem Mach.dieClock_setColl (m : Mach) (n : Nat) (x : Coll) (d : Nat) : (m.setColl n x).dieClock d = m.dieClock d := rfl
@[simp] theorem Mach.dieClock_setReg (m : Mach) (n : Nat) (x : Dword) (d : Nat) : (m.setReg n x).dieClock d = m.dieClock d := rfl
@[simp] theorem Mach.dieClock_modCore (m : Mach) (f : Core → Core) (d : Nat) : (m.modCore f).dieClock d = m.dieClock d := rfl
@[simp] theorem Mach.dieClock_modRf (m : Mach) (f : Regs → Regs) (d : Nat) : (m.modRf f).dieClock d = m.dieClock d := rfl
@[simp] theorem Mach.dieClock_modMem (m : Mach) (f : Mems → Mems) (d : Nat) : (m.modMem f).dieClock d = m.dieClock d := rfl
@[simp] theorem Mach.dieClock_modEng (m : Mach) (f : Engs → Engs) (d : Nat) : (m.modEng f).dieClock d = m.dieClock d := rfl
@[simp] theorem Mach.dieClock_modCtl (m : Mach) (f : Ctl → Ctl) (d : Nat) : (m.modCtl f).dieClock d = m.dieClock d := rfl
@[simp] theorem Mach.seated_setPanel (m : Mach) (n : Nat) (x : Panel) (a : Nat) : (m.setPanel n x).seated a = m.seated a := rfl
@[simp] theorem Mach.seated_setDie (m : Mach) (n : Nat) (x : Die) (a : Nat) : (m.setDie n x).seated a = m.seated a := rfl
@[simp] theorem Mach.seated_setPart (m : Mach) (n : Nat) (x : Part) (a : Nat) : (m.setPart n x).seated a = m.seated a := rfl
@[simp] theorem Mach.seated_setVf (m : Mach) (n : Nat) (x : VF) (a : Nat) : (m.setVf n x).seated a = m.seated a := rfl
@[simp] theorem Mach.seated_setQueue (m : Mach) (n : Nat) (x : Queue) (a : Nat) : (m.setQueue n x).seated a = m.seated a := rfl
@[simp] theorem Mach.seated_setLaunch (m : Mach) (n : Nat) (x : Launch) (a : Nat) : (m.setLaunch n x).seated a = m.seated a := rfl
@[simp] theorem Mach.seated_setWq (m : Mach) (n : Nat) (x : WQ) (a : Nat) : (m.setWq n x).seated a = m.seated a := rfl
@[simp] theorem Mach.seated_setSet (m : Mach) (n : Nat) (x : SeamSet) (a : Nat) : (m.setSet n x).seated a = m.seated a := rfl
@[simp] theorem Mach.seated_setNet (m : Mach) (n : Nat) (x : List Pkt) (a : Nat) : (m.setNet n x).seated a = m.seated a := rfl
@[simp] theorem Mach.seated_setColl (m : Mach) (n : Nat) (x : Coll) (a : Nat) : (m.setColl n x).seated a = m.seated a := rfl
@[simp] theorem Mach.seated_setReg (m : Mach) (n : Nat) (x : Dword) (a : Nat) : (m.setReg n x).seated a = m.seated a := rfl
@[simp] theorem Mach.seated_modCore (m : Mach) (f : Core → Core) (a : Nat) : (m.modCore f).seated a = m.seated a := rfl
@[simp] theorem Mach.seated_modRf (m : Mach) (f : Regs → Regs) (a : Nat) : (m.modRf f).seated a = m.seated a := rfl
@[simp] theorem Mach.seated_modMem (m : Mach) (f : Mems → Mems) (a : Nat) : (m.modMem f).seated a = m.seated a := rfl
@[simp] theorem Mach.seated_modEng (m : Mach) (f : Engs → Engs) (a : Nat) : (m.modEng f).seated a = m.seated a := rfl
@[simp] theorem Mach.seated_modCtl (m : Mach) (f : Ctl → Ctl) (a : Nat) : (m.modCtl f).seated a = m.seated a := rfl
@[simp] theorem Mach.runs_setPanel (m : Mach) (n : Nat) (x : Panel) (a : Nat) : (m.setPanel n x).runs a = m.runs a := rfl
@[simp] theorem Mach.runs_setPart (m : Mach) (n : Nat) (x : Part) (a : Nat) : (m.setPart n x).runs a = m.runs a := rfl
@[simp] theorem Mach.runs_setVf (m : Mach) (n : Nat) (x : VF) (a : Nat) : (m.setVf n x).runs a = m.runs a := rfl
@[simp] theorem Mach.runs_setQueue (m : Mach) (n : Nat) (x : Queue) (a : Nat) : (m.setQueue n x).runs a = m.runs a := rfl
@[simp] theorem Mach.runs_setLaunch (m : Mach) (n : Nat) (x : Launch) (a : Nat) : (m.setLaunch n x).runs a = m.runs a := rfl
@[simp] theorem Mach.runs_setWq (m : Mach) (n : Nat) (x : WQ) (a : Nat) : (m.setWq n x).runs a = m.runs a := rfl
@[simp] theorem Mach.runs_setSet (m : Mach) (n : Nat) (x : SeamSet) (a : Nat) : (m.setSet n x).runs a = m.runs a := rfl
@[simp] theorem Mach.runs_setNet (m : Mach) (n : Nat) (x : List Pkt) (a : Nat) : (m.setNet n x).runs a = m.runs a := rfl
@[simp] theorem Mach.runs_setColl (m : Mach) (n : Nat) (x : Coll) (a : Nat) : (m.setColl n x).runs a = m.runs a := rfl
@[simp] theorem Mach.runs_setReg (m : Mach) (n : Nat) (x : Dword) (a : Nat) : (m.setReg n x).runs a = m.runs a := rfl
@[simp] theorem Mach.runs_modCore (m : Mach) (f : Core → Core) (a : Nat) : (m.modCore f).runs a = m.runs a := rfl
@[simp] theorem Mach.runs_modRf (m : Mach) (f : Regs → Regs) (a : Nat) : (m.modRf f).runs a = m.runs a := rfl
@[simp] theorem Mach.runs_modMem (m : Mach) (f : Mems → Mems) (a : Nat) : (m.modMem f).runs a = m.runs a := rfl
@[simp] theorem Mach.runs_modEng (m : Mach) (f : Engs → Engs) (a : Nat) : (m.modEng f).runs a = m.runs a := rfl
@[simp] theorem Mach.runs_modCtl (m : Mach) (f : Ctl → Ctl) (a : Nat) : (m.modCtl f).runs a = m.runs a := rfl
@[simp] theorem Mach.hasLaunch_setPanel (m : Mach) (n : Nat) (x : Panel) (k : Nat) : (m.setPanel n x).hasLaunch k = m.hasLaunch k := rfl
@[simp] theorem Mach.hasLaunch_setDie (m : Mach) (n : Nat) (x : Die) (k : Nat) : (m.setDie n x).hasLaunch k = m.hasLaunch k := rfl
@[simp] theorem Mach.hasLaunch_setSite (m : Mach) (n : Nat) (x : Site) (k : Nat) : (m.setSite n x).hasLaunch k = m.hasLaunch k := rfl
@[simp] theorem Mach.hasLaunch_setPart (m : Mach) (n : Nat) (x : Part) (k : Nat) : (m.setPart n x).hasLaunch k = m.hasLaunch k := rfl
@[simp] theorem Mach.hasLaunch_setVf (m : Mach) (n : Nat) (x : VF) (k : Nat) : (m.setVf n x).hasLaunch k = m.hasLaunch k := rfl
@[simp] theorem Mach.hasLaunch_setQueue (m : Mach) (n : Nat) (x : Queue) (k : Nat) : (m.setQueue n x).hasLaunch k = m.hasLaunch k := rfl
@[simp] theorem Mach.hasLaunch_setWq (m : Mach) (n : Nat) (x : WQ) (k : Nat) : (m.setWq n x).hasLaunch k = m.hasLaunch k := rfl
@[simp] theorem Mach.hasLaunch_setSet (m : Mach) (n : Nat) (x : SeamSet) (k : Nat) : (m.setSet n x).hasLaunch k = m.hasLaunch k := rfl
@[simp] theorem Mach.hasLaunch_setNet (m : Mach) (n : Nat) (x : List Pkt) (k : Nat) : (m.setNet n x).hasLaunch k = m.hasLaunch k := rfl
@[simp] theorem Mach.hasLaunch_setColl (m : Mach) (n : Nat) (x : Coll) (k : Nat) : (m.setColl n x).hasLaunch k = m.hasLaunch k := rfl
@[simp] theorem Mach.hasLaunch_setReg (m : Mach) (n : Nat) (x : Dword) (k : Nat) : (m.setReg n x).hasLaunch k = m.hasLaunch k := rfl
@[simp] theorem Mach.hasLaunch_modCore (m : Mach) (f : Core → Core) (k : Nat) : (m.modCore f).hasLaunch k = m.hasLaunch k := rfl
@[simp] theorem Mach.hasLaunch_modRf (m : Mach) (f : Regs → Regs) (k : Nat) : (m.modRf f).hasLaunch k = m.hasLaunch k := rfl
@[simp] theorem Mach.hasLaunch_modMem (m : Mach) (f : Mems → Mems) (k : Nat) : (m.modMem f).hasLaunch k = m.hasLaunch k := rfl
@[simp] theorem Mach.hasLaunch_modEng (m : Mach) (f : Engs → Engs) (k : Nat) : (m.modEng f).hasLaunch k = m.hasLaunch k := rfl
@[simp] theorem Mach.hasLaunch_modCtl (m : Mach) (f : Ctl → Ctl) (k : Nat) : (m.modCtl f).hasLaunch k = m.hasLaunch k := rfl
@[simp] theorem Mach.stalled_setPanel (m : Mach) (n : Nat) (x : Panel) (ps : List (Nat × Nat)) : (m.setPanel n x).stalled ps = m.stalled ps := rfl
@[simp] theorem Mach.stalled_setDie (m : Mach) (n : Nat) (x : Die) (ps : List (Nat × Nat)) : (m.setDie n x).stalled ps = m.stalled ps := rfl
@[simp] theorem Mach.stalled_setSite (m : Mach) (n : Nat) (x : Site) (ps : List (Nat × Nat)) : (m.setSite n x).stalled ps = m.stalled ps := rfl
@[simp] theorem Mach.stalled_setPart (m : Mach) (n : Nat) (x : Part) (ps : List (Nat × Nat)) : (m.setPart n x).stalled ps = m.stalled ps := rfl
@[simp] theorem Mach.stalled_setVf (m : Mach) (n : Nat) (x : VF) (ps : List (Nat × Nat)) : (m.setVf n x).stalled ps = m.stalled ps := rfl
@[simp] theorem Mach.stalled_setQueue (m : Mach) (n : Nat) (x : Queue) (ps : List (Nat × Nat)) : (m.setQueue n x).stalled ps = m.stalled ps := rfl
@[simp] theorem Mach.stalled_setLaunch (m : Mach) (n : Nat) (x : Launch) (ps : List (Nat × Nat)) : (m.setLaunch n x).stalled ps = m.stalled ps := rfl
@[simp] theorem Mach.stalled_setWq (m : Mach) (n : Nat) (x : WQ) (ps : List (Nat × Nat)) : (m.setWq n x).stalled ps = m.stalled ps := rfl
@[simp] theorem Mach.stalled_setSet (m : Mach) (n : Nat) (x : SeamSet) (ps : List (Nat × Nat)) : (m.setSet n x).stalled ps = m.stalled ps := rfl
@[simp] theorem Mach.stalled_setNet (m : Mach) (n : Nat) (x : List Pkt) (ps : List (Nat × Nat)) : (m.setNet n x).stalled ps = m.stalled ps := rfl
@[simp] theorem Mach.stalled_setColl (m : Mach) (n : Nat) (x : Coll) (ps : List (Nat × Nat)) : (m.setColl n x).stalled ps = m.stalled ps := rfl
@[simp] theorem Mach.stalled_setReg (m : Mach) (n : Nat) (x : Dword) (ps : List (Nat × Nat)) : (m.setReg n x).stalled ps = m.stalled ps := rfl
@[simp] theorem Mach.stalled_modCore (m : Mach) (f : Core → Core) (ps : List (Nat × Nat)) : (m.modCore f).stalled ps = m.stalled ps := rfl
@[simp] theorem Mach.stalled_modRf (m : Mach) (f : Regs → Regs) (ps : List (Nat × Nat)) : (m.modRf f).stalled ps = m.stalled ps := rfl
@[simp] theorem Mach.stalled_modMem (m : Mach) (f : Mems → Mems) (ps : List (Nat × Nat)) : (m.modMem f).stalled ps = m.stalled ps := rfl
@[simp] theorem Mach.stalled_modEng (m : Mach) (f : Engs → Engs) (ps : List (Nat × Nat)) : (m.modEng f).stalled ps = m.stalled ps := rfl
@[simp] theorem Mach.stalled_modCtl (m : Mach) (f : Ctl → Ctl) (ps : List (Nat × Nat)) : (m.modCtl f).stalled ps = m.stalled ps := rfl
@[simp] theorem Mach.send_out (m : Mach) (x : Out) : (m.send x).sys.out = m.sys.out ++ [x] := rfl
@[simp] theorem Mach.send_me (m : Mach) (x : Out) : (m.send x).me = m.me := rfl
@[simp] theorem Mach.send_core (m : Mach) (x : Out) : (m.send x).core = m.core := rfl
@[simp] theorem Mach.send_rest (m : Mach) (x : Out) : (m.send x).rest = m.rest := rfl
@[simp] theorem Mach.send_free (m : Mach) (x : Out) : (m.send x).free = m.free := rfl
@[simp] theorem Mach.panel_send (m : Mach) (x : Out) (k : Nat) : (m.send x).panel k = m.panel k := rfl
@[simp] theorem Mach.die_send (m : Mach) (x : Out) (k : Nat) : (m.send x).die k = m.die k := rfl
@[simp] theorem Mach.site_send (m : Mach) (x : Out) (k : Nat) : (m.send x).site k = m.site k := rfl
@[simp] theorem Mach.partn_send (m : Mach) (x : Out) (k : Nat) : (m.send x).partn k = m.partn k := rfl
@[simp] theorem Mach.vf_send (m : Mach) (x : Out) (k : Nat) : (m.send x).vf k = m.vf k := rfl
@[simp] theorem Mach.queue_send (m : Mach) (x : Out) (k : Nat) : (m.send x).queue k = m.queue k := rfl
@[simp] theorem Mach.launch_send (m : Mach) (x : Out) (k : Nat) : (m.send x).launch k = m.launch k := rfl
@[simp] theorem Mach.wq_send (m : Mach) (x : Out) (k : Nat) : (m.send x).wq k = m.wq k := rfl
@[simp] theorem Mach.set_at_send (m : Mach) (x : Out) (k : Nat) : (m.send x).set_ k = m.set_ k := rfl
@[simp] theorem Mach.netOf_send (m : Mach) (x : Out) (k : Nat) : (m.send x).netOf k = m.netOf k := rfl
@[simp] theorem Mach.coll_send (m : Mach) (x : Out) (k : Nat) : (m.send x).coll k = m.coll k := rfl
@[simp] theorem Mach.reg_send (m : Mach) (x : Out) (k : Nat) : (m.send x).reg k = m.reg k := rfl
@[simp] theorem Mach.stack_send (m : Mach) (x : Out) (k : Nat) : (m.send x).stack k = m.stack k := rfl
@[simp] theorem Mach.clocked_send (m : Mach) (x : Out) (d : Nat) : (m.send x).clocked d = m.clocked d := rfl
@[simp] theorem Mach.dieClock_send (m : Mach) (x : Out) (d : Nat) : (m.send x).dieClock d = m.dieClock d := rfl
@[simp] theorem Mach.seated_send (m : Mach) (x : Out) (a : Nat) : (m.send x).seated a = m.seated a := rfl
@[simp] theorem Mach.runs_send (m : Mach) (x : Out) (a : Nat) : (m.send x).runs a = m.runs a := rfl
@[simp] theorem Mach.hasLaunch_send (m : Mach) (x : Out) (k : Nat) : (m.send x).hasLaunch k = m.hasLaunch k := rfl
@[simp] theorem Mach.stalled_send (m : Mach) (x : Out) (ps : List (Nat × Nat)) : (m.send x).stalled ps = m.stalled ps := rfl
@[simp] theorem Mach.setHbm_hbm (m : Mach) (x : Memory) : (m.setHbm x).sys.hbm = x := rfl
@[simp] theorem Mach.setHbm_me (m : Mach) (x : Memory) : (m.setHbm x).me = m.me := rfl
@[simp] theorem Mach.setHbm_core (m : Mach) (x : Memory) : (m.setHbm x).core = m.core := rfl
@[simp] theorem Mach.setHbm_rest (m : Mach) (x : Memory) : (m.setHbm x).rest = m.rest := rfl
@[simp] theorem Mach.setHbm_free (m : Mach) (x : Memory) : (m.setHbm x).free = m.free := rfl
@[simp] theorem Mach.panel_setHbm (m : Mach) (x : Memory) (k : Nat) : (m.setHbm x).panel k = m.panel k := rfl
@[simp] theorem Mach.die_setHbm (m : Mach) (x : Memory) (k : Nat) : (m.setHbm x).die k = m.die k := rfl
@[simp] theorem Mach.site_setHbm (m : Mach) (x : Memory) (k : Nat) : (m.setHbm x).site k = m.site k := rfl
@[simp] theorem Mach.partn_setHbm (m : Mach) (x : Memory) (k : Nat) : (m.setHbm x).partn k = m.partn k := rfl
@[simp] theorem Mach.vf_setHbm (m : Mach) (x : Memory) (k : Nat) : (m.setHbm x).vf k = m.vf k := rfl
@[simp] theorem Mach.queue_setHbm (m : Mach) (x : Memory) (k : Nat) : (m.setHbm x).queue k = m.queue k := rfl
@[simp] theorem Mach.launch_setHbm (m : Mach) (x : Memory) (k : Nat) : (m.setHbm x).launch k = m.launch k := rfl
@[simp] theorem Mach.wq_setHbm (m : Mach) (x : Memory) (k : Nat) : (m.setHbm x).wq k = m.wq k := rfl
@[simp] theorem Mach.set_at_setHbm (m : Mach) (x : Memory) (k : Nat) : (m.setHbm x).set_ k = m.set_ k := rfl
@[simp] theorem Mach.netOf_setHbm (m : Mach) (x : Memory) (k : Nat) : (m.setHbm x).netOf k = m.netOf k := rfl
@[simp] theorem Mach.coll_setHbm (m : Mach) (x : Memory) (k : Nat) : (m.setHbm x).coll k = m.coll k := rfl
@[simp] theorem Mach.reg_setHbm (m : Mach) (x : Memory) (k : Nat) : (m.setHbm x).reg k = m.reg k := rfl
@[simp] theorem Mach.stack_setHbm (m : Mach) (x : Memory) (k : Nat) : (m.setHbm x).stack k = m.stack k := rfl
@[simp] theorem Mach.clocked_setHbm (m : Mach) (x : Memory) (d : Nat) : (m.setHbm x).clocked d = m.clocked d := rfl
@[simp] theorem Mach.dieClock_setHbm (m : Mach) (x : Memory) (d : Nat) : (m.setHbm x).dieClock d = m.dieClock d := rfl
@[simp] theorem Mach.seated_setHbm (m : Mach) (x : Memory) (a : Nat) : (m.setHbm x).seated a = m.seated a := rfl
@[simp] theorem Mach.runs_setHbm (m : Mach) (x : Memory) (a : Nat) : (m.setHbm x).runs a = m.runs a := rfl
@[simp] theorem Mach.hasLaunch_setHbm (m : Mach) (x : Memory) (k : Nat) : (m.setHbm x).hasLaunch k = m.hasLaunch k := rfl
@[simp] theorem Mach.stalled_setHbm (m : Mach) (x : Memory) (ps : List (Nat × Nat)) : (m.setHbm x).stalled ps = m.stalled ps := rfl
@[simp] theorem Mach.setHost_host (m : Mach) (x : Memory) : (m.setHost x).sys.host = x := rfl
@[simp] theorem Mach.setHost_me (m : Mach) (x : Memory) : (m.setHost x).me = m.me := rfl
@[simp] theorem Mach.setHost_core (m : Mach) (x : Memory) : (m.setHost x).core = m.core := rfl
@[simp] theorem Mach.setHost_rest (m : Mach) (x : Memory) : (m.setHost x).rest = m.rest := rfl
@[simp] theorem Mach.setHost_free (m : Mach) (x : Memory) : (m.setHost x).free = m.free := rfl
@[simp] theorem Mach.panel_setHost (m : Mach) (x : Memory) (k : Nat) : (m.setHost x).panel k = m.panel k := rfl
@[simp] theorem Mach.die_setHost (m : Mach) (x : Memory) (k : Nat) : (m.setHost x).die k = m.die k := rfl
@[simp] theorem Mach.site_setHost (m : Mach) (x : Memory) (k : Nat) : (m.setHost x).site k = m.site k := rfl
@[simp] theorem Mach.partn_setHost (m : Mach) (x : Memory) (k : Nat) : (m.setHost x).partn k = m.partn k := rfl
@[simp] theorem Mach.vf_setHost (m : Mach) (x : Memory) (k : Nat) : (m.setHost x).vf k = m.vf k := rfl
@[simp] theorem Mach.queue_setHost (m : Mach) (x : Memory) (k : Nat) : (m.setHost x).queue k = m.queue k := rfl
@[simp] theorem Mach.launch_setHost (m : Mach) (x : Memory) (k : Nat) : (m.setHost x).launch k = m.launch k := rfl
@[simp] theorem Mach.wq_setHost (m : Mach) (x : Memory) (k : Nat) : (m.setHost x).wq k = m.wq k := rfl
@[simp] theorem Mach.set_at_setHost (m : Mach) (x : Memory) (k : Nat) : (m.setHost x).set_ k = m.set_ k := rfl
@[simp] theorem Mach.netOf_setHost (m : Mach) (x : Memory) (k : Nat) : (m.setHost x).netOf k = m.netOf k := rfl
@[simp] theorem Mach.coll_setHost (m : Mach) (x : Memory) (k : Nat) : (m.setHost x).coll k = m.coll k := rfl
@[simp] theorem Mach.reg_setHost (m : Mach) (x : Memory) (k : Nat) : (m.setHost x).reg k = m.reg k := rfl
@[simp] theorem Mach.stack_setHost (m : Mach) (x : Memory) (k : Nat) : (m.setHost x).stack k = m.stack k := rfl
@[simp] theorem Mach.clocked_setHost (m : Mach) (x : Memory) (d : Nat) : (m.setHost x).clocked d = m.clocked d := rfl
@[simp] theorem Mach.dieClock_setHost (m : Mach) (x : Memory) (d : Nat) : (m.setHost x).dieClock d = m.dieClock d := rfl
@[simp] theorem Mach.seated_setHost (m : Mach) (x : Memory) (a : Nat) : (m.setHost x).seated a = m.seated a := rfl
@[simp] theorem Mach.runs_setHost (m : Mach) (x : Memory) (a : Nat) : (m.setHost x).runs a = m.runs a := rfl
@[simp] theorem Mach.hasLaunch_setHost (m : Mach) (x : Memory) (k : Nat) : (m.setHost x).hasLaunch k = m.hasLaunch k := rfl
@[simp] theorem Mach.stalled_setHost (m : Mach) (x : Memory) (ps : List (Nat × Nat)) : (m.setHost x).stalled ps = m.stalled ps := rfl

end Sys2Proof.Machine
end

