-- ==== Sys2Proof/Laws/Ops.lean ====
section
/-!
SUPPORT. The shared operations of a word, each said once: how a meaning runs, what a read and a write of a register
leave behind, and the frame they keep.
-/
open Sys2Proof.Machine Sys2Proof.Safety
namespace Sys2Proof.Machine

/-! ### Running a meaning -/

theorem bind_ok {α β : Type} {x : Exec α} {f : α → Exec β} {s t : State} {a : α} (h : x s = .ok (a, t)) :
    (x >>= f) s = f a t := by
  simp [bind, StateT.bind, Except.bind, h]

/-- What an effect that runs to its end did first. -/
theorem bind_inv {α β : Type} {x : Exec α} {f : α → Exec β} {s u : State} {b : β} (h : (x >>= f) s = .ok (b, u)) :
    ∃ a t, x s = .ok (a, t) ∧ f a t = .ok (b, u) := by
  cases hx : x s with
  | error e => simp [bind, StateT.bind, Except.bind, hx] at h
  | ok p => exact ⟨p.1, p.2, rfl, by simpa [bind, StateT.bind, Except.bind, hx] using h⟩

theorem pure_inv {α : Type} {a b : α} {s t : State} (h : (pure a : Exec α) s = .ok (b, t)) : b = a ∧ t = s := by
  simp only [pure, StateT.pure, Except.pure, Except.ok.injEq, Prod.mk.injEq] at h
  exact ⟨h.1.symm, h.2.symm⟩
theorem getM_inv {m : Mach} {s t : State} (h : getM s = .ok (m, t)) : m = s.m ∧ t = s := by
  simp only [getM, Except.ok.injEq, Prod.mk.injEq] at h
  exact ⟨h.1.symm, h.2.symm⟩
theorem getOld_inv {m : Mach} {s t : State} (h : getOld s = .ok (m, t)) : m = s.old ∧ t = s := by
  simp only [getOld, Except.ok.injEq, Prod.mk.injEq] at h
  exact ⟨h.1.symm, h.2.symm⟩
theorem modM_inv {f : Mach → Mach} {s t : State} (h : modM f s = .ok ((), t)) : t = { s with m := f s.m } := by
  simp only [modM, Except.ok.injEq, Prod.mk.injEq] at h
  exact h.2.symm
theorem raiseWord_not {α : Type} {c : Nat} {s : State} {p : α × State} : raiseWord c s ≠ .ok p := by simp [raiseWord]
theorem hold_not {α : Type} {c : Nat} {s : State} {p : α × State} : hold c s ≠ .ok p := by
  unfold hold; split <;> simp
theorem notReady_not {α : Type} {c : Nat} {s : State} {p : α × State} : notReady c s ≠ .ok p := by
  unfold notReady; split <;> simp

theorem holdWith_not {α : Type} {u : Mach → Mach} {s : State} {p : α × State} : holdWith u s ≠ .ok p := by
  unfold holdWith; split <;> simp
theorem noItem_not {α : Type} {n : Nat} {s : State} {p : α × State} : noItem n s ≠ .ok p := by
  unfold noItem; split <;> simp
theorem noRoom_not {α : Type} {n : Nat} {s : State} {p : α × State} : noRoom n s ≠ .ok p := holdWith_not

theorem pure_ok {α : Type} (a : α) (s : State) : (pure a : Exec α) s = .ok (a, s) := rfl

theorem orLate_ok {body late : Exec Unit} {s t : State} (h : body s = .ok ((), t)) : orLate body late s = .ok ((), t) := by
  simp [orLate, h]

/-- The checks of step 3 pass and the effect runs to its end: the word answers the state after it. -/
theorem word_ok {i : Instr} {e : Exec Unit} {s t : State} (hl : Legal i s) (he : e s = .ok ((), t)) : word i e s = .next t := by
  have hh : trap3 i s.old = none := hl
  simp [word, runExec, check3, getOld, bind, StateT.bind, Except.bind, hh, pure, StateT.pure, Except.pure, he]

end Sys2Proof.Machine
namespace Sys2Proof.Safety

/-! ### The frame -/

theorem Kept.refl {s : State} (h : Faultless s) (sr pr vr cr : List Nat) (qs : Nat → Prop) : Kept s s sr pr vr cr qs :=
  ⟨h, rfl, fun _ _ => rfl, fun _ _ => rfl, fun _ _ => rfl, fun _ _ => rfl, rfl, fun _ _ => rfl, fun _ => ⟨rfl, rfl⟩, rfl, fun _ => rfl,
    fun _ => rfl, fun _ => rfl, fun _ => rfl, ⟨rfl, rfl⟩, rfl, rfl, ⟨rfl, rfl⟩, ⟨rfl, rfl⟩, rfl⟩

theorem Kept.mono {s t : State} {sr pr vr cr sr' pr' vr' cr' : List Nat} {qs qs' : Nat → Prop}
    (h : Kept s t sr pr vr cr qs) (h1 : ∀ x ∈ sr, x ∈ sr') (h2 : ∀ x ∈ pr, x ∈ pr') (h3 : ∀ x ∈ vr, x ∈ vr')
    (h4 : ∀ x ∈ cr, x ∈ cr') (h5 : ∀ n, qs n → qs' n) : Kept s t sr' pr' vr' cr' qs' :=
  { h with
    scalars := fun r hr => h.scalars r fun hx => hr (h1 r hx)
    preds := fun r hr => h.preds r fun hx => hr (h2 r hx)
    rows := fun r hr => h.rows r fun hx => hr (h3 r hx)
    csrs := fun r hr => h.csrs r fun hx => hr (h4 r hx)
    queues := fun n hn => h.queues n fun hx => hn (h5 n hx) }

theorem Kept.trans {s t u : State} {sr pr vr cr : List Nat} {qs : Nat → Prop}
    (h : Kept s t sr pr vr cr qs) (g : Kept t u sr pr vr cr qs) : Kept s u sr pr vr cr qs where
  faultless := g.faultless
  agent := g.agent.trans h.agent
  scalars r hr := (g.scalars r hr).trans (h.scalars r hr)
  preds r hr := (g.preds r hr).trans (h.preds r hr)
  rows r hr := (g.rows r hr).trans (h.rows r hr)
  csrs r hr := (g.csrs r hr).trans (h.csrs r hr)
  pc := g.pc.trans h.pc
  queues n hn := (g.queues n hn).trans (h.queues n hn)
  bindings n := ⟨(g.bindings n).1.trans (h.bindings n).1, (g.bindings n).2.trans (h.bindings n).2⟩
  engines := by rw [g.engines, h.engines]
  bytesS a := (g.bytesS a).trans (h.bytesS a)
  bytesA a := (g.bytesA a).trans (h.bytesA a)
  bytesW a := (g.bytesW a).trans (h.bytesW a)
  bytesI a := (g.bytesI a).trans (h.bytesI a)
  groups := ⟨g.groups.1.trans h.groups.1, g.groups.2.trans h.groups.2⟩
  control := by rw [g.control, h.control]
  others := g.others.trans h.others
  package := ⟨g.package.1.trans h.package.1, g.package.2.trans h.package.2⟩
  pending := ⟨g.pending.1.trans h.pending.1, g.pending.2.trans h.pending.2⟩
  context := g.context.trans h.context

/-- A port stands for the same queue before and after a word. -/
theorem Kept.onPort {s t : State} {sr pr vr cr : List Nat} {qs : Nat → Prop} (h : Kept s t sr pr vr cr qs)
    {sc : Bool} {r n : Nat} (hp : OnPort t sc r n) : OnPort s sc r n :=
  ⟨hp.1, (h.bindings n).1 ▸ hp.2.1, (h.bindings n).2 ▸ hp.2.2.1, hp.2.2.2⟩

theorem SameBut.refl (s : State) (sr pr vr cr : List Nat) (qs : Nat → Prop) : SameBut s s sr pr vr cr qs :=
  fun hs => Kept.refl hs ..

theorem SameBut.mono {s t : State} {sr pr vr cr sr' pr' vr' cr' : List Nat} {qs qs' : Nat → Prop}
    (h : SameBut s t sr pr vr cr qs) (h1 : ∀ x ∈ sr, x ∈ sr') (h2 : ∀ x ∈ pr, x ∈ pr') (h3 : ∀ x ∈ vr, x ∈ vr')
    (h4 : ∀ x ∈ cr, x ∈ cr') (h5 : ∀ n, qs n → qs' n) : SameBut s t sr' pr' vr' cr' qs' :=
  fun hs => (h hs).mono h1 h2 h3 h4 h5

theorem SameBut.trans {s t u : State} {sr pr vr cr : List Nat} {qs : Nat → Prop}
    (h : SameBut s t sr pr vr cr qs) (g : SameBut t u sr pr vr cr qs) : SameBut s u sr pr vr cr qs :=
  fun hs => (h hs).trans (g (h hs).faultless)

/-- A control register of a command core does not change where the issuing agent's control registers do not. -/
theorem ccCsr_modCore {m : Mach} {f : Core → Core} (h : (f m.core).rf.csr = m.core.rf.csr) (p n : Nat) :
    (m.modCore f).ccCsr p n = m.ccCsr p n := by
  unfold Mach.ccCsr Mach.agent
  change (if ccOf p = m.me then f m.core else _ : Core).csr _ _ = _
  split
  · unfold Core.csr; rw [h]
  · rfl

/-- A change of the issuing agent that leaves control registers, error state and the queues' items alone leaves it without errors. -/
theorem Faultless.modCore {s : State} {f : Core → Core} (hs : Faultless s) (hc : (f s.m.core).rf.csr = s.m.core.rf.csr)
    (he : (f s.m.core).mem.err = s.m.core.mem.err)
    (hq : ∀ n, ∀ i ∈ ((f s.m.core).hq n).items, i.err = none) : Faultless { s with m := s.m.modCore f } :=
  ⟨he.trans hs.1, (congrArg (fun v : Dword => v.getLsbD 63) (ccCsr_modCore hc ..)).trans hs.2.1, hq⟩

end Sys2Proof.Safety
namespace Sys2Proof.Machine

/-- The queue that a port reaches. -/
theorem portQueue_spec {c : Core} {sc : Bool} {p n : Nat} (h : c.portQueue sc p = some n) :
    (c.hq n).bound = true ∧ (c.hq n).port = p ∧ decide (12 ≤ n) = sc := by
  have := List.find?_some h
  simp only [Bool.and_eq_true, beq_iff_eq] at this
  exact ⟨this.1.1.1, this.1.1.2, this.2⟩

end Sys2Proof.Machine
namespace Sys2Proof.Safety

/-- A change of one queue's items keeps everything else. -/
theorem SameBut.of_hq {s : State} {n : Nat} {q : HQ} {f : Mems → Mems} {qs : Nat → Prop} (hq : qs n)
    (hb : q.bound = (s.m.hq n).bound ∧ q.port = (s.m.hq n).port)
    (hi : Faultless s → ∀ i ∈ q.items, i.err = none)
    (hf : ∀ x : Mems, (f x).crow = x.crow ∧ (f x).sm = x.sm ∧ (f x).am = x.am ∧ (f x).wm = x.wm ∧ (f x).im = x.im ∧
      (f x).ag = x.ag ∧ (f x).wg = x.wg ∧ (f x).err = x.err) :
    SameBut s { s with m := (s.m.setHq n q).modMem f } [] [] [] [] qs := fun hs =>
  { faultless := Faultless.modCore (f := fun c => (c.setHq n q).modMem f) hs rfl (hf _).2.2.2.2.2.2.2 fun k i hk => by
      change i ∈ ((s.m.core.setHq n q).hq k).items at hk
      rw [Core.hq_setHq] at hk
      split at hk
      · exact hi hs i hk
      · exact hs.2.2 k i hk
    agent := rfl
    scalars := fun _ _ => rfl
    preds := fun _ _ => rfl
    rows := fun r _ => by
      simp only [Core.row]
      change SMap.get _ (f s.m.core.mem).crow r = _
      rw [(hf _).1]
    csrs := fun _ _ => rfl
    pc := rfl
    queues := fun k hk => by
      have hne : k ≠ n := fun h => hk (h ▸ hq)
      change (s.m.core.setHq n q).hq k = _
      rw [Core.hq_setHq, if_neg hne]
      rfl
    bindings := fun k => by
      change ((s.m.core.setHq n q).hq k).bound = _ ∧ ((s.m.core.setHq n q).hq k).port = _
      rw [Core.hq_setHq]
      split
      · next h => exact h ▸ hb
      · exact ⟨rfl, rfl⟩
    engines := rfl
    bytesS := fun a => by change Memory.read (f s.m.core.mem).sm a = _; rw [(hf _).2.1]
    bytesA := fun a => by change Memory.read (f s.m.core.mem).am a = _; rw [(hf _).2.2.1]
    bytesW := fun a => by change Memory.read (f s.m.core.mem).wm a = _; rw [(hf _).2.2.2.1]
    bytesI := fun a => by change Memory.read (f s.m.core.mem).im a = _; rw [(hf _).2.2.2.2.1]
    groups := ⟨(hf s.m.core.mem).2.2.2.2.2.1, (hf s.m.core.mem).2.2.2.2.2.2.1⟩
    control := rfl
    others := rfl
    package := ⟨rfl, rfl⟩
    pending := ⟨rfl, rfl⟩
    context := rfl }

/-- A read or a write that only marks when a register can be used. -/
theorem SameBut.of_ctl {s : State} {f : Ctl → Ctl} {sr pr vr cr : List Nat} {qs : Nat → Prop}
    (hf : ∀ c : Ctl, f c = { c with rdy := (f c).rdy, resp := (f c).resp }) :
    SameBut s { s with m := s.m.modCtl f } sr pr vr cr qs := fun hs =>
  ⟨Faultless.modCore (f := fun c => c.modCtl f) hs rfl rfl hs.2.2, rfl, fun _ _ => rfl, fun _ _ => rfl, fun _ _ => rfl, fun _ _ => rfl,
    rfl, fun _ _ => rfl, fun _ => ⟨rfl, rfl⟩, rfl, fun _ => rfl, fun _ => rfl, fun _ => rfl, fun _ => rfl, ⟨rfl, rfl⟩, hf _, rfl,
    ⟨rfl, rfl⟩, ⟨rfl, rfl⟩, rfl⟩

end Sys2Proof.Safety
namespace Sys2Proof.Machine

/-! ### Errors and injections: where there are none (R234, R238) -/

theorem errIn_none {c : Core} (h : c.mem.err = []) (ary off n : Nat) : errIn c ary off n = 0 := by simp [errIn, h]
theorem noteRead_none {m : Mach} {a : Nat} (h : (m.agent a).mem.err = []) (ary off n : Nat) : noteRead m a ary off n = m := by
  simp [noteRead, errIn_none h]
theorem injHits_none {m : Mach} {p : Nat} (h : Unarmed m p) (ary site off n : Nat) : injHits m p ary site off n = false := by
  have : bit (m.ccCsr p csrEINJC) 63 = false := h
  simp [injHits, this]
theorem noteWrite_none {m : Mach} {a : Nat} (he : (m.agent a).mem.err = []) (hu : Unarmed m (panelOf a)) (ary off n : Nat) :
    noteWrite m a ary off n = m := by
  simp [noteWrite, he, injHits_none hu]
theorem injInto_none {m : Mach} {p : Nat} (h : Unarmed m p) (ary site item words : Nat) :
    injInto m p ary site item words = (none, 0, m) := by
  have : bit (m.ccCsr p csrEINJC) 63 = false := h
  simp [injInto, injItem, this]
@[simp] theorem logItem_none (m : Mach) (a ary : Nat) : logItem m a ary none = m := rfl
@[simp] theorem logItem_core (m : Mach) (a ary : Nat) (e : Option ItemErr) : (logItem m a ary e).core = m.core := by cases e <;> rfl
@[simp] theorem logItem_me (m : Mach) (a ary : Nat) (e : Option ItemErr) : (logItem m a ary e).me = m.me := by cases e <;> rfl
theorem Mach.modAgent_self (m : Mach) (f : Core → Core) : m.modAgent m.me f = m.modCore f := by
  simp [Mach.modAgent, Mach.setAgent, Mach.modCore]
/-- Where no injection is armed an item just joins its queue. -/
theorem pushHq_none {m : Mach} (h : Unarmed m (panelOf m.me)) (n : Nat) (x : RowP) (src : Nat) :
    pushHq m m.me n x src =
      m.setHq n { m.hq n with items := (m.hq n).items ++ [⟨x, src, none⟩], pos := (m.hq n).pos + 1 } := by
  simp [pushHq, injInto_none h, Mach.modAgent_self, Mach.setHq, Mach.hq, Mach.modCore]
theorem rowFound_none {c : Core} (h : c.mem.err = []) (r : Nat) : c.rowFound r = c.row r := by
  simp [Core.rowFound, errIn_none h]
theorem crowRead_none {m : Mach} {a : Nat} (h : (m.agent a).mem.err = []) (r : Nat) : crowRead m a r = ((m.agent a).row r, m) := by
  simp [crowRead, rowFound_none h, noteRead_none h]
theorem crowWrite_none {m : Mach} (he : m.core.mem.err = []) (hu : Unarmed m (panelOf m.me)) (r : Nat) (x : RowP) :
    crowWrite m m.me r x = m.modCore fun c => c.setRow r x := by
  unfold crowWrite
  rw [Mach.modAgent_self]
  exact noteWrite_none (m := m.modCore fun c => c.setRow r x) (by rw [← Mach.modCore_me m, Mach.agent_me]; exact he)
    ((congrArg (fun v : Dword => v.getLsbD 63) (ccCsr_modCore (by rfl) ..)).trans hu) ..

/-! ### Reads -/

/-- What a pop does: it takes the oldest item of the queue bound to the port, logs the error it holds, if any, and changes nothing else. -/
theorem popPort_inv {sc : Bool} {p : Nat} {s t : State} {x : RowP} (h : popPort sc p s = .ok (x, t)) :
    ∃ n i rest, s.m.core.portQueue sc p = some n ∧ (s.m.hq n).cons = 5 ∧ (s.m.hq n).items = i :: rest ∧ x = i.found ∧
      t = { s with m := logItem ((s.m.setHq n { s.m.hq n with items := rest }).modMem fun y =>
        { y with race := popClears s.old.core.raceOn true i.src y.race }) s.m.me 5 i.err } := by
  unfold popPort at h
  obtain ⟨m, s1, h1, h⟩ := bind_inv h
  obtain ⟨rfl, rfl⟩ := getM_inv h1
  obtain ⟨old, s3, h3, h⟩ := bind_inv h
  obtain ⟨rfl, rfl⟩ := getOld_inv h3
  cases hn : s3.m.core.portQueue sc p with
  | none => simp only [hn] at h; exact absurd h raiseWord_not
  | some n =>
    simp only [hn] at h
    split at h
    · exact absurd h raiseWord_not
    · next hc =>
      cases hi : (s3.m.hq n).items with
      | nil =>
        simp only [hi] at h
        split at h
        · split at h
          · exact absurd h raiseWord_not
          · exact absurd h noItem_not
        · exact absurd h noItem_not
      | cons i rest =>
        simp only [hi] at h
        obtain ⟨_, s2, h2, h⟩ := bind_inv h
        obtain ⟨rfl, rfl⟩ := pure_inv h
        exact ⟨n, i, rest, rfl, by omega, hi, rfl, modM_inv h2⟩

theorem popPort_same {sc : Bool} {p : Nat} {s t : State} {x : RowP} (h : popPort sc p s = .ok (x, t)) :
    SameBut s t [] [] [] [] (OnPort s sc (p + 60)) := by
  obtain ⟨n, i, rest, hn, -, hi, -, rfl⟩ := popPort_inv h
  have hp := portQueue_spec hn
  intro hs
  rw [hs.2.2 n i (by rw [hi]; exact List.mem_cons_self ..), logItem_none]
  exact SameBut.of_hq (q := { s.m.hq n with items := rest })
    ⟨by omega, hp.1, by rw [Nat.add_sub_cancel]; exact hp.2.1, hp.2.2⟩ ⟨rfl, rfl⟩
    (fun hs j hj => hs.2.2 n j (by rw [hi]; exact List.mem_cons_of_mem _ hj))
    (fun _ => ⟨rfl, rfl, rfl, rfl, rfl, rfl, rfl, rfl⟩) hs

theorem needReady_inv {k : Nat} {pend : Bool} {s t : State} (h : needReady k pend s = .ok ((), t)) :
    t = s ∧ pend = false ∧ s.old.core.ready k ≤ s.old.core.ctl.cyc := by
  unfold needReady at h
  obtain ⟨m, s1, h1, h⟩ := bind_inv h
  obtain ⟨rfl, rfl⟩ := getOld_inv h1
  split at h
  · exact absurd h notReady_not
  · split at h
    · exact absurd h notReady_not
    · exact ⟨(pure_inv h).2, by simp_all, by omega⟩

/-- What a scalar read gives: an item of a port's queue, zero from s0, or the register as the bundle found it. -/
theorem rdS_inv {r : Nat} {s t : State} {x : SReg} (h : rdS r s = .ok (x, t)) :
    (s.old.isTile = true ∧ 60 ≤ r ∧ ∃ y, popPort true (r - 60) s = .ok (y, t) ∧ x = ⟨y.v.setWidth 64, y.p⟩) ∨
    (¬(s.old.isTile = true ∧ 60 ≤ r) ∧ x = s.old.core.s r ∧ t = s) := by
  unfold rdS at h
  obtain ⟨m, s1, h1, h⟩ := bind_inv h
  obtain ⟨rfl, rfl⟩ := getOld_inv h1
  split at h
  · next hp =>
    obtain ⟨y, s2, h2, h⟩ := bind_inv h
    obtain ⟨rfl, rfl⟩ := pure_inv h
    exact .inl ⟨hp.1, hp.2, y, h2, rfl⟩
  · next hp =>
    split at h
    · next hr =>
      obtain ⟨rfl, rfl⟩ := pure_inv h
      exact .inr ⟨hp, by simp [hr], rfl⟩
    · obtain ⟨_, s2, h2, h⟩ := bind_inv h
      obtain ⟨rfl, rfl⟩ := pure_inv h
      exact .inr ⟨hp, rfl, (needReady_inv h2).1⟩

/-- A scalar read changes nothing but the queue of a port. -/
theorem rdS_same {r : Nat} {s t : State} {x : SReg} (h : rdS r s = .ok (x, t)) :
    SameBut s t [] [] [] [] (OnPort s true r) := by
  rcases rdS_inv h with ⟨_, hr, y, hy, -⟩ | ⟨-, -, rfl⟩
  · have := popPort_same hy
    rwa [Nat.sub_add_cancel hr] at this
  · exact SameBut.refl _ _ _ _ _ _

theorem rdP_inv {r : Nat} {s t : State} {x : PReg} (h : rdP r s = .ok (x, t)) : x = s.old.core.p r ∧ t = s := by
  unfold rdP at h
  obtain ⟨m, s1, h1, h⟩ := bind_inv h
  obtain ⟨rfl, rfl⟩ := getOld_inv h1
  split at h
  · next hr =>
    obtain ⟨rfl, rfl⟩ := pure_inv h
    exact ⟨by simp [hr], rfl⟩
  · obtain ⟨_, s2, h2, h⟩ := bind_inv h
    obtain ⟨rfl, rfl⟩ := pure_inv h
    exact ⟨rfl, (needReady_inv h2).1⟩

theorem rdV_inv {r : Nat} {s t : State} {x : RowP} (h : rdV r s = .ok (x, t)) :
    (60 ≤ r ∧ popPort false (r - 60) s = .ok (x, t)) ∨ (r < 60 ∧ x = s.old.core.rowFound (s.old.rowOf r) ∧
      t = { s with m := (crowRead s.m s.m.me (s.old.rowOf r)).2 }) := by
  unfold rdV at h
  obtain ⟨m, s1, h1, h⟩ := bind_inv h
  obtain ⟨rfl, rfl⟩ := getOld_inv h1
  split at h
  · exact .inl ⟨‹_›, h⟩
  · obtain ⟨_, s2, h2, h⟩ := bind_inv h
    obtain ⟨rfl, -⟩ := needReady_inv h2
    obtain ⟨_, s3, h3, h⟩ := bind_inv h
    obtain ⟨rfl, rfl⟩ := pure_inv h
    exact .inr ⟨by omega, rfl, modM_inv h3⟩

theorem rdV_same {r : Nat} {s t : State} {x : RowP} (h : rdV r s = .ok (x, t)) :
    SameBut s t [] [] [] [] (OnPort s false r) := by
  rcases rdV_inv h with ⟨hr, hy⟩ | ⟨-, -, rfl⟩
  · have := popPort_same hy
    rwa [Nat.sub_add_cancel hr] at this
  · intro hs
    rw [crowRead_none (by rw [Mach.agent_me]; exact hs.1)]
    exact Kept.refl hs ..

/-! ### Writes -/

/-- What a push does: the item joins the queue bound to the port, last. -/
theorem pushPort_inv {sc : Bool} {p : Nat} {x : RowP} {s t : State} (h : pushPort sc p x s = .ok ((), t)) :
    ∃ n, s.m.core.portQueue sc p = some n ∧ (s.m.hq n).prod = 8 ∧ (s.m.hq n).items.length < hqDepth n ∧
      t = { s with m := pushHq s.m s.m.me n x 0 } := by
  unfold pushPort at h
  obtain ⟨m, s1, h1, h⟩ := bind_inv h
  obtain ⟨rfl, rfl⟩ := getM_inv h1
  cases hn : s1.m.core.portQueue sc p with
  | none => simp only [hn] at h; exact absurd h raiseWord_not
  | some n =>
    simp only [hn] at h
    split at h
    · exact absurd h raiseWord_not
    · split at h
      · exact absurd h noRoom_not
      · exact ⟨n, rfl, by omega, by omega, modM_inv h⟩

theorem pushPort_same {sc : Bool} {p : Nat} {x : RowP} {s t : State} (h : pushPort sc p x s = .ok ((), t)) :
    SameBut s t [] [] [] [] (OnPort s sc (p + 60)) := by
  obtain ⟨n, hn, -, -, rfl⟩ := pushPort_inv h
  have hp := portQueue_spec hn
  intro hs
  rw [pushHq_none hs.2.1]
  refine SameBut.of_hq (f := id) ⟨by omega, hp.1, by rw [Nat.add_sub_cancel]; exact hp.2.1, hp.2.2⟩ ⟨rfl, rfl⟩
    (fun hs j hj => ?_) (fun _ => ⟨rfl, rfl, rfl, rfl, rfl, rfl, rfl, rfl⟩) hs
  rcases List.mem_append.mp hj with hj | hj
  · exact hs.2.2 n j hj
  · rw [List.mem_singleton.mp hj]

theorem settle_inv {k d y : Nat} {s t : State} (h : settle k d y s = .ok ((), t)) :
    ∃ f : Ctl → Ctl, t = { s with m := s.m.modCtl f } ∧ ∀ c, f c = { c with resp := (f c).resp } := by
  unfold settle at h
  obtain ⟨m, s1, h1, h⟩ := bind_inv h
  obtain ⟨rfl, rfl⟩ := getOld_inv h1
  obtain ⟨st, s2, h2, h⟩ := bind_inv h
  simp only [isStamped, Except.ok.injEq, Prod.mk.injEq] at h2
  obtain ⟨rfl, rfl⟩ := h2
  split at h
  · exact ⟨_, modM_inv h, fun _ => rfl⟩
  · split at h
    · exact absurd h hold_not
    · split at h
      · exact absurd h hold_not
      · obtain ⟨-, rfl⟩ := pure_inv h
        exact ⟨id, rfl, fun _ => rfl⟩

theorem setReady_inv {k lat : Nat} {s t : State} (h : setReady k lat s = .ok ((), t)) :
    t = { s with m := s.m.modCtl fun c => { c with rdy := SMap.set (fun _ => 0) c.rdy k (c.cyc + lat) } } := modM_inv h

end Sys2Proof.Machine
namespace Sys2Proof.Safety

/-- A change of one scalar register, one predicate or one row keeps everything else. -/
theorem SameBut.of_setS {s : State} {r : Nat} {x : SReg} {qs : Nat → Prop} :
    SameBut s { s with m := s.m.modCore fun c => c.setS r x } [r] [] [] [] qs := fun hs =>
  { faultless := Faultless.modCore (f := fun c => c.setS r x) hs (by unfold Core.setS; split <;> rfl) (by unfold Core.setS; split <;> rfl) (by unfold Core.setS; split <;> exact hs.2.2)
    agent := rfl
    scalars := fun k hk => Core.s_setS_ne _ x (by simpa using hk)
    preds := fun _ _ => by unfold Core.setS; split <;> rfl
    rows := fun _ _ => by unfold Core.setS; split <;> rfl
    csrs := fun _ _ => by change ((s.m.core.setS r x).csr _ _) = _; unfold Core.setS; split <;> rfl
    pc := by change (s.m.core.setS r x).rf.pc = _; unfold Core.setS; split <;> rfl
    queues := fun _ _ => by change (s.m.core.setS r x).hq _ = _; unfold Core.setS; split <;> rfl
    bindings := fun _ => by
      change ((s.m.core.setS r x).hq _).bound = _ ∧ ((s.m.core.setS r x).hq _).port = _
      unfold Core.setS; split <;> exact ⟨rfl, rfl⟩
    engines := by change (s.m.core.setS r x).eng = _; unfold Core.setS; split <;> rfl
    bytesS := fun _ => by change Memory.read (s.m.core.setS r x).mem.sm _ = _; unfold Core.setS; split <;> rfl
    bytesA := fun _ => by change Memory.read (s.m.core.setS r x).mem.am _ = _; unfold Core.setS; split <;> rfl
    bytesW := fun _ => by change Memory.read (s.m.core.setS r x).mem.wm _ = _; unfold Core.setS; split <;> rfl
    bytesI := fun _ => by change Memory.read (s.m.core.setS r x).mem.im _ = _; unfold Core.setS; split <;> rfl
    groups := by
      change (s.m.core.setS r x).mem.ag = _ ∧ (s.m.core.setS r x).mem.wg = _
      unfold Core.setS; split <;> exact ⟨rfl, rfl⟩
    control := by change (s.m.core.setS r x).ctl = { s.m.core.ctl with rdy := (s.m.core.setS r x).ctl.rdy, resp := (s.m.core.setS r x).ctl.resp }; unfold Core.setS; split <;> rfl
    others := rfl
    package := ⟨rfl, rfl⟩
    pending := ⟨rfl, rfl⟩
    context := rfl }

theorem SameBut.of_setP {s : State} {r : Nat} {x : PReg} {qs : Nat → Prop} :
    SameBut s { s with m := s.m.modCore fun c => c.setP r x } [] [r] [] [] qs := fun hs =>
  { faultless := Faultless.modCore (f := fun c => c.setP r x) hs (by unfold Core.setP; split <;> rfl) (by unfold Core.setP; split <;> rfl) (by unfold Core.setP; split <;> exact hs.2.2)
    agent := rfl
    scalars := fun _ _ => by change (s.m.core.setP r x).s _ = _; unfold Core.setP; split <;> rfl
    preds := fun k hk => Core.p_setP_ne _ x (by simpa using hk)
    rows := fun _ _ => by change (s.m.core.setP r x).row _ = _; unfold Core.setP; split <;> rfl
    csrs := fun _ _ => by change ((s.m.core.setP r x).csr _ _) = _; unfold Core.setP; split <;> rfl
    pc := by change (s.m.core.setP r x).rf.pc = _; unfold Core.setP; split <;> rfl
    queues := fun _ _ => by change (s.m.core.setP r x).hq _ = _; unfold Core.setP; split <;> rfl
    bindings := fun _ => by
      change ((s.m.core.setP r x).hq _).bound = _ ∧ ((s.m.core.setP r x).hq _).port = _
      unfold Core.setP; split <;> exact ⟨rfl, rfl⟩
    engines := by change (s.m.core.setP r x).eng = _; unfold Core.setP; split <;> rfl
    bytesS := fun _ => by change Memory.read (s.m.core.setP r x).mem.sm _ = _; unfold Core.setP; split <;> rfl
    bytesA := fun _ => by change Memory.read (s.m.core.setP r x).mem.am _ = _; unfold Core.setP; split <;> rfl
    bytesW := fun _ => by change Memory.read (s.m.core.setP r x).mem.wm _ = _; unfold Core.setP; split <;> rfl
    bytesI := fun _ => by change Memory.read (s.m.core.setP r x).mem.im _ = _; unfold Core.setP; split <;> rfl
    groups := by
      change (s.m.core.setP r x).mem.ag = _ ∧ (s.m.core.setP r x).mem.wg = _
      unfold Core.setP; split <;> exact ⟨rfl, rfl⟩
    control := by change (s.m.core.setP r x).ctl = { s.m.core.ctl with rdy := (s.m.core.setP r x).ctl.rdy, resp := (s.m.core.setP r x).ctl.resp }; unfold Core.setP; split <;> rfl
    others := rfl
    package := ⟨rfl, rfl⟩
    pending := ⟨rfl, rfl⟩
    context := rfl }

theorem SameBut.of_setRow {s : State} {r : Nat} {x : RowP} {qs : Nat → Prop} :
    SameBut s { s with m := s.m.modCore fun c => c.setRow r x } [] [] [r] [] qs := fun hs =>
  { faultless := Faultless.modCore (f := fun c => c.setRow r x) hs rfl rfl hs.2.2
    agent := rfl
    scalars := fun _ _ => rfl
    preds := fun _ _ => rfl
    rows := fun k hk => by
      change (s.m.core.setRow r x).row k = _
      rw [Core.row_setRow, if_neg (by simpa using hk)]
    csrs := fun _ _ => rfl
    pc := rfl
    queues := fun _ _ => rfl
    bindings := fun _ => ⟨rfl, rfl⟩
    engines := rfl
    bytesS := fun _ => rfl
    bytesA := fun _ => rfl
    bytesW := fun _ => rfl
    bytesI := fun _ => rfl
    groups := ⟨rfl, rfl⟩
    control := rfl
    others := rfl
    package := ⟨rfl, rfl⟩
    pending := ⟨rfl, rfl⟩
    context := rfl }

end Sys2Proof.Safety
namespace Sys2Proof.Machine

/-- What a scalar write does: a port's queue receives the item, s0 discards, another register holds the value and can be
used `lat` cycles later. -/
theorem wrS_inv {r lat : Nat} {x : SReg} {s t : State} (h : wrS r x lat s = .ok ((), t)) :
    (s.old.isTile = true ∧ 60 ≤ r ∧ pushPort true (r - 60) ⟨x.v.setWidth 2048, x.p⟩ s = .ok ((), t)) ∨
    (¬(s.old.isTile = true ∧ 60 ≤ r) ∧ r = 0 ∧ t = s) ∨
    (¬(s.old.isTile = true ∧ 60 ≤ r) ∧ r ≠ 0 ∧ ∃ f : Ctl → Ctl, (∀ c, f c = { c with resp := (f c).resp }) ∧
      t = { s with m := ((s.m.modCtl f).modCore fun c => c.setS r x).modCtl fun c =>
        { c with rdy := SMap.set (fun _ => 0) c.rdy (rdyS r) (c.cyc + lat) } }) := by
  unfold wrS at h
  obtain ⟨m, s1, h1, h⟩ := bind_inv h
  obtain ⟨rfl, rfl⟩ := getOld_inv h1
  split at h
  · next hp => exact .inl ⟨hp.1, hp.2, h⟩
  · next hp =>
    split at h
    · next hr => exact .inr (.inl ⟨hp, hr, (pure_inv h).2⟩)
    · next hr =>
      obtain ⟨_, s2, h2, h⟩ := bind_inv h
      obtain ⟨f, rfl, hf⟩ := settle_inv h2
      obtain ⟨_, s3, h3, h⟩ := bind_inv h
      rw [modM_inv h3] at h
      exact .inr (.inr ⟨hp, hr, f, hf, setReady_inv h⟩)

/-- A scalar write changes nothing but the register, or the queue of a port. -/
theorem wrS_same {r lat : Nat} {x : SReg} {s t : State} (h : wrS r x lat s = .ok ((), t)) :
    SameBut s t [r] [] [] [] (OnPort s true r) := by
  rcases wrS_inv h with ⟨_, hr, hy⟩ | ⟨-, -, rfl⟩ | ⟨-, -, f, hf, rfl⟩
  · have := pushPort_same hy
    rw [Nat.sub_add_cancel hr] at this
    exact this.mono (by simp) (by simp) (by simp) (by simp) fun _ => id
  · exact SameBut.refl _ _ _ _ _ _
  · exact ((SameBut.of_ctl fun c => by rw [hf c]).trans (SameBut.of_setS (s := { s with m := s.m.modCtl f }))).trans
      (SameBut.of_ctl (fun _ => rfl) (s := { s with m := (s.m.modCtl f).modCore fun c => c.setS r x }))

theorem wrP_inv {r lat : Nat} {x : PReg} {s t : State} (h : wrP r x lat s = .ok ((), t)) :
    (r = 0 ∧ t = s) ∨ (r ≠ 0 ∧ t = { s with m := (s.m.modCore fun c => c.setP r x).modCtl fun c =>
        { c with rdy := SMap.set (fun _ => 0) c.rdy (rdyP r) (c.cyc + lat) } }) := by
  unfold wrP at h
  split at h
  · exact .inl ⟨‹_›, (pure_inv h).2⟩
  · obtain ⟨_, s3, h3, h⟩ := bind_inv h
    rw [modM_inv h3] at h
    exact .inr ⟨‹_›, setReady_inv h⟩

theorem wrP_same {r lat : Nat} {x : PReg} {s t : State} (h : wrP r x lat s = .ok ((), t)) (qs : Nat → Prop) :
    SameBut s t [] [r] [] [] qs := by
  rcases wrP_inv h with ⟨-, rfl⟩ | ⟨-, rfl⟩
  · exact SameBut.refl _ _ _ _ _ _
  · exact (SameBut.of_setP (s := s)).trans (SameBut.of_ctl (fun _ => rfl) (s := { s with m := s.m.modCore fun c => c.setP r x }))

theorem wrV_inv {r lat : Nat} {x : RowP} {s t : State} (h : wrV r x lat s = .ok ((), t)) :
    (60 ≤ r ∧ pushPort false (r - 60) x s = .ok ((), t)) ∨
    (r < 60 ∧ ∃ f : Ctl → Ctl, (∀ c, f c = { c with resp := (f c).resp }) ∧
      t = { s with m := (crowWrite (s.m.modCtl f) s.m.me (s.old.rowOf r) x).modCtl fun c =>
        { c with rdy := SMap.set (fun _ => 0) c.rdy (rdyRow (s.old.rowOf r)) (c.cyc + lat) } }) := by
  unfold wrV at h
  obtain ⟨m, s1, h1, h⟩ := bind_inv h
  obtain ⟨rfl, rfl⟩ := getOld_inv h1
  split at h
  · next hp => exact .inl ⟨hp, h⟩
  · dsimp only at h
    split at h
    · exact absurd h hold_not
    · obtain ⟨_, s2, h2, h⟩ := bind_inv h
      obtain ⟨f, rfl, hf⟩ := settle_inv h2
      obtain ⟨_, s3, h3, h⟩ := bind_inv h
      rw [modM_inv h3] at h
      exact .inr ⟨by omega, f, hf, setReady_inv h⟩

theorem wrV_same {r lat : Nat} {x : RowP} {s t : State} (h : wrV r x lat s = .ok ((), t)) :
    SameBut s t [] [] (if r < 60 then [s.old.rowOf r] else []) [] (OnPort s false r) := by
  rcases wrV_inv h with ⟨hr, hy⟩ | ⟨hr, f, hf, rfl⟩
  · have := pushPort_same hy
    rw [Nat.sub_add_cancel hr] at this
    exact this.mono (by simp) (by simp) (by simp) (by simp) fun _ => id
  · rw [if_pos hr]
    intro hs
    have h1 : Kept s { s with m := s.m.modCtl f } [] [] [s.old.rowOf r] [] (OnPort s false r) :=
      SameBut.of_ctl (fun c => by rw [hf c]) hs
    have hc := crowWrite_none (m := s.m.modCtl f) h1.faultless.1 h1.faultless.2.1 (s.old.rowOf r) x
    rw [show s.m.me = (s.m.modCtl f).me from rfl, hc]
    exact (((SameBut.of_ctl fun c => by rw [hf c]).trans (SameBut.of_setRow (s := { s with m := s.m.modCtl f }))).trans
      (SameBut.of_ctl (fun _ => rfl) (s := { s with m := (s.m.modCtl f).modCore fun c => c.setRow (s.old.rowOf r) x }))) hs

end Sys2Proof.Machine
end

