-- ==== Sys2Proof/Laws/Operands.lean ====
section
/-!
SUPPORT. Operand forms: immediates, transfers, and the frame of a word that reads two scalars.
-/
open Sys2Proof.Machine Sys2Proof.Safety
namespace Sys2Proof.Safety

/-- A frame over fewer queues is one over more. -/
theorem SameBut.ports {s t : State} {sr pr vr cr : List Nat} {qs qs' : Nat → Prop}
    (h : SameBut s t sr pr vr cr qs) (h5 : ∀ n, qs n → qs' n) : SameBut s t sr pr vr cr qs' :=
  h.mono (fun _ h => h) (fun _ h => h) (fun _ h => h) (fun _ h => h) h5

/-- Two scalar reads and then an effect: the frame of the whole. -/
theorem SameBut.reads2 {s s1 s2 t : State} {a b : Nat} {sr pr vr cr} {q : Nat → Prop} (ha : SameBut s s1 [] [] [] [] (OnPort s true a))
    (hb : SameBut s1 s2 [] [] [] [] (OnPort s1 true b)) (hw : SameBut s2 t sr pr vr cr q) (qs : Nat → Prop)
    (h1 : ∀ n, OnPort s true a n → qs n) (h2 : ∀ n, OnPort s true b n → qs n) (h3 : ∀ n, q n → qs n) : SameBut s t sr pr vr cr qs := by
  intro hs
  have hb' := hb.mono (qs' := qs) (sr' := sr) (pr' := pr) (vr' := vr) (cr' := cr) (by simp) (by simp) (by simp) (by simp)
    fun n h => h2 n ((ha hs).onPort h)
  have ha' := ha.mono (qs' := qs) (sr' := sr) (pr' := pr) (vr' := vr) (cr' := cr) (by simp) (by simp) (by simp) (by simp) h1
  exact ((ha'.trans hb').trans (hw.ports h3)) hs

/-- A word keeps its KX payload through its reads, and so its immediate. -/
theorem kxOf_same {s t : State} (h : t.bundle = s.bundle) : kxOf t = kxOf s := by unfold kxOf; rw [h]
theorem immOf_same {w} (k : BitVec w) {s t : State} (h : t.bundle = s.bundle) : immOf k t = immOf k s := by
  unfold immOf; rw [kxOf_same h]

/-- A transfer changes the next address only. -/
theorem SameBut.of_taken (s : State) (g : Dword) (a b c d e) : SameBut s (taken s g) a b c d e := by
  intro hs
  refine ⟨Faultless.modCore (f := fun c => c.modRf fun r => { r with npc := g }) hs rfl rfl hs.2.2, rfl, fun _ _ => rfl, fun _ _ => rfl,
    fun _ _ => rfl, fun _ _ => rfl, rfl, fun _ _ => rfl, fun _ => ⟨rfl, rfl⟩, rfl, fun _ => rfl,
    fun _ => rfl, fun _ => rfl, fun _ => rfl, ⟨rfl, rfl⟩, rfl, rfl, ⟨rfl, rfl⟩, ⟨rfl, rfl⟩, ?_⟩
  show (Option.map _ (s.bundle.map _)) = _
  cases s.bundle <;> rfl

end Sys2Proof.Safety
namespace Sys2Proof.Machine

/-- The signed value of a field. -/
theorem sext_toInt {v} (z : BitVec v) (hv : 0 < v) : sext v z.toNat = z.toInt := by
    unfold sext
    rw [if_neg (by omega), Nat.mod_eq_of_lt z.isLt, BitVec.toInt_eq_toNat_cond]
    have h2 : 2 ^ v = 2 * 2 ^ (v - 1) := by rw [← Nat.pow_succ']; congr 1; omega
    simp only [h2]
    by_cases h : z.toNat < 2 ^ (v-1)
    · rw [if_pos h, if_pos (by omega)]
    · rw [if_neg h, if_neg (by omega)]

/-- An immediate with its KX, if there is one (R316). -/
theorem extSigned_immOf {w : Nat} (hw : 0 < w) (k : BitVec w) (s : State) : extSigned w (fld k) (kxOf s) = immOf k s := by
  unfold extSigned immOf
  cases kxOf s with
  | none => exact sext_toInt _ hw
  | some p => 
    dsimp only
    rw [Nat.mod_eq_of_lt k.isLt]
    have : p.toNat * 2 ^ w + k.toNat = (p ++ k).toNat := by
      rw [BitVec.toNat_append, Nat.shiftLeft_eq, ← Nat.shiftLeft_eq, Nat.shiftLeft_add_eq_or_of_lt k.isLt]
    rw [this, Nat.add_comm]
    exact sext_toInt _ (by omega)

/-- The KX payload that the word finds. -/
theorem getExt_ok (s : State) : getExt s = .ok (kxOf s, s) := by unfold getExt kxOf; cases s.bundle <;> rfl

/-- The immediate of a word. -/
theorem imm_ok {w : Nat} (hw : 0 < w) (k : BitVec w) (s : State) : imm w (fld k) s = .ok (BitVec.ofInt 64 (immOf k s), s) := by
  unfold imm
  rw [bind_ok (getExt_ok s), extSigned_immOf hw]; rfl

/-- A transfer to a target in the store is taken (R348). -/
theorem transfer_ok {s : State} {g : Dword} (h : InStore s g) : transfer g s = .ok ((), taken s g) := by
  unfold transfer
  rw [bind_ok (by rfl : getOld s = .ok (s.old, s))]
  have : inCode s.old.isTile g.toNat = true := by unfold inCode; unfold InStore at h; simpa using h
  unfold need
  rw [this, if_pos rfl]
  rfl

/-- A scalar read leaves the machine the bundle found as it was, but for a port's queue. -/
theorem rdS_old {r : Nat} {s t : State} {x : SReg} (h : rdS r s = .ok (x, t)) :
    t.old.core.rf = s.old.core.rf ∧ t.old.core.ctl = s.old.core.ctl ∧ t.old.isTile = s.old.isTile := by
  rcases rdS_inv h with ⟨_, _, y, hy, _⟩ | ⟨_, _, rfl⟩
  · obtain ⟨n, i, rest, _, _, _, _, rfl⟩ := popPort_inv hy
    unfold State.old
    cases s.bundle with
    | some b => exact ⟨rfl, rfl, rfl⟩
    | none =>
      refine ⟨?_, ?_, congrArg isTileAgent (logItem_me ..)⟩
      all_goals dsimp only; rw [logItem_core]; rfl
  · exact ⟨rfl, rfl, rfl⟩
/-- A scalar read leaves the bundle as it was. -/
theorem rdS_bundle {r : Nat} {s t : State} {x : SReg} (h : rdS r s = .ok (x, t)) : t.bundle = s.bundle := by
  rcases rdS_inv h with ⟨_, _, y, hy, _⟩ | ⟨_, _, rfl⟩
  · obtain ⟨n, i, rest, _, _, _, _, rfl⟩ := popPort_inv hy
    rfl
  · rfl

/-- A read of an operand free of poison. -/
theorem rdClean_ok {r : Nat} {s t : State} {v : Dword} (h : rdS r s = .ok (⟨v, false⟩, t)) : rdClean r s = .ok (v, t) := by
  unfold rdClean
  rw [bind_ok h]
  rfl

end Sys2Proof.Machine
end

