-- ==== Sys2Proof/Laws/PerInstr.lean ====
section
/-!
SUPPORT. The per-instruction family RoundTrip: the word that `encode` makes of an instruction is decoded to that
instruction, with its L bit, its guard and every operand (13_instruction_encoding R314, R315, Tables 13-1 to 13-16). One
lemma per constructor; a step that has no word has nothing to decode.
-/
set_option linter.unusedSimpArgs false

namespace Sys2Proof

/-- Taking a field out of joined fields. -/
theorem Word32.field_high {v w s l : Nat} (x : BitVec v) (y : BitVec w) (h : w ≤ s) :
    (x ++ y).extractLsb' s l = x.extractLsb' (s - w) l := BitVec.extractLsb'_append_eq_of_le h
theorem Word32.field_low {v w s l : Nat} (x : BitVec v) (y : BitVec w) (h : s + l ≤ w) :
    (x ++ y).extractLsb' s l = y.extractLsb' s l := BitVec.extractLsb'_append_eq_of_add_le h

/-- A word of an engine is read back field by field. -/
theorem decode_fields {e : BitVec 3} {l : Bool} {g : BitVec 4} {o : BitVec 6} {x : BitVec 18} {i : Instr}
    (he : e.toNat ≠ 7) (h : decodeOp e.toNat o.toNat x = .ok i) :
    decode (e ++ BitVec.ofBool l ++ g ++ o ++ x) = .ok ⟨l, g, i⟩ := by
  have h1 : wordEng (e ++ BitVec.ofBool l ++ g ++ o ++ x) = e.toNat := by
    unfold wordEng
    simp (disch := decide) only [Word32.field_high, BitVec.extractLsb'_eq_self, Nat.reduceSub]
  have h2 : wordOp (e ++ BitVec.ofBool l ++ g ++ o ++ x) = o.toNat := by
    unfold wordOp
    simp (disch := decide) only [Word32.field_high, Word32.field_low, BitVec.extractLsb'_eq_self, Nat.reduceSub]
  have h3 : wordOperands (e ++ BitVec.ofBool l ++ g ++ o ++ x) = x := by
    unfold wordOperands
    simp (disch := decide) only [Word32.field_low, BitVec.extractLsb'_eq_self]
  have h4 : wordGuard (e ++ BitVec.ofBool l ++ g ++ o ++ x) = g := by
    unfold wordGuard
    simp (disch := decide) only [Word32.field_high, Word32.field_low, BitVec.extractLsb'_eq_self, Nat.reduceSub]
  have h5 : wordLast (e ++ BitVec.ofBool l ++ g ++ o ++ x) = l := by
    unfold wordLast
    rw [BitVec.getLsbD_append, BitVec.getLsbD_append, BitVec.getLsbD_append, BitVec.getLsbD_append]
    cases l <;> rfl
  simp only [decode, h1, h2, h3, h4, h5, he, if_false, h]

namespace Laws.RoundTrip

/-- The word of `i`, whatever its L bit and guard, stands for `i` and for nothing else; a K word has no guard. -/
def Statement (i : Instr) : Prop :=
  ∀ (l : Bool) (g : BitVec 4) (w : Word32), encode ⟨l, g, i⟩ = some w →
    decode w = .ok ⟨l, if wordEng w = 7 then 0 else g, i⟩

/-- An instruction with engine, opcode and operands that its engine's table gives back. -/
theorem of_code {i : Instr} {e : BitVec 3} {o : BitVec 6} {x : BitVec 18} (he : e.toNat ≠ 7)
    (hc : ∀ l g, encode ⟨l, g, i⟩ = some (e ++ BitVec.ofBool l ++ g ++ o ++ x))
    (h : decodeOp e.toNat o.toNat x = .ok i) : Statement i := by
  intro l g w hw
  rw [hc] at hw
  cases hw
  have h1 : wordEng (e ++ BitVec.ofBool l ++ g ++ o ++ x) = e.toNat := by
    unfold wordEng
    simp (disch := decide) only [Word32.field_high, BitVec.extractLsb'_eq_self, Nat.reduceSub]
  rw [decode_fields he h, if_neg (by rw [h1]; exact he)]

/-- A step that has no word. -/
theorem of_none {i : Instr} (hc : ∀ l g, encode ⟨l, g, i⟩ = none) : Statement i := by
  intro l g w hw
  rw [hc] at hw
  cases hw


theorem add (d : BitVec 6) (a : BitVec 6) (b : BitVec 6) : Statement (.add d a b) := by
  refine of_code (e := 0) (o := 1) (x := d ++ a ++ b) (by decide) (fun _ _ => rfl) ?_
  change decodeC 1 _ = _
  simp only [decodeC]
  simp (disch := decide) only [Word32.field_high, Word32.field_low, BitVec.extractLsb'_eq_self, Nat.reduceSub]

theorem addi (d : BitVec 6) (a : BitVec 6) (i : BitVec 6) : Statement (.addi d a i) := by
  refine of_code (e := 0) (o := 2) (x := d ++ a ++ i) (by decide) (fun _ _ => rfl) ?_
  change decodeC 2 _ = _
  simp only [decodeC]
  simp (disch := decide) only [Word32.field_high, Word32.field_low, BitVec.extractLsb'_eq_self, Nat.reduceSub]

theorem sub (d : BitVec 6) (a : BitVec 6) (b : BitVec 6) : Statement (.sub d a b) := by
  refine of_code (e := 0) (o := 3) (x := d ++ a ++ b) (by decide) (fun _ _ => rfl) ?_
  change decodeC 3 _ = _
  simp only [decodeC]
  simp (disch := decide) only [Word32.field_high, Word32.field_low, BitVec.extractLsb'_eq_self, Nat.reduceSub]

theorem mul (d : BitVec 6) (a : BitVec 6) (b : BitVec 6) : Statement (.mul d a b) := by
  refine of_code (e := 0) (o := 4) (x := d ++ a ++ b) (by decide) (fun _ _ => rfl) ?_
  change decodeC 4 _ = _
  simp only [decodeC]
  simp (disch := decide) only [Word32.field_high, Word32.field_low, BitVec.extractLsb'_eq_self, Nat.reduceSub]

theorem mulh (d : BitVec 6) (a : BitVec 6) (b : BitVec 6) : Statement (.mulh d a b) := by
  refine of_code (e := 0) (o := 5) (x := d ++ a ++ b) (by decide) (fun _ _ => rfl) ?_
  change decodeC 5 _ = _
  simp only [decodeC]
  simp (disch := decide) only [Word32.field_high, Word32.field_low, BitVec.extractLsb'_eq_self, Nat.reduceSub]

theorem mulhu (d : BitVec 6) (a : BitVec 6) (b : BitVec 6) : Statement (.mulhu d a b) := by
  refine of_code (e := 0) (o := 6) (x := d ++ a ++ b) (by decide) (fun _ _ => rfl) ?_
  change decodeC 6 _ = _
  simp only [decodeC]
  simp (disch := decide) only [Word32.field_high, Word32.field_low, BitVec.extractLsb'_eq_self, Nat.reduceSub]

theorem div (d : BitVec 6) (a : BitVec 6) (b : BitVec 6) : Statement (.div d a b) := by
  refine of_code (e := 0) (o := 7) (x := d ++ a ++ b) (by decide) (fun _ _ => rfl) ?_
  change decodeC 7 _ = _
  simp only [decodeC]
  simp (disch := decide) only [Word32.field_high, Word32.field_low, BitVec.extractLsb'_eq_self, Nat.reduceSub]

theorem divu (d : BitVec 6) (a : BitVec 6) (b : BitVec 6) : Statement (.divu d a b) := by
  refine of_code (e := 0) (o := 8) (x := d ++ a ++ b) (by decide) (fun _ _ => rfl) ?_
  change decodeC 8 _ = _
  simp only [decodeC]
  simp (disch := decide) only [Word32.field_high, Word32.field_low, BitVec.extractLsb'_eq_self, Nat.reduceSub]

theorem rem (d : BitVec 6) (a : BitVec 6) (b : BitVec 6) : Statement (.rem d a b) := by
  refine of_code (e := 0) (o := 9) (x := d ++ a ++ b) (by decide) (fun _ _ => rfl) ?_
  change decodeC 9 _ = _
  simp only [decodeC]
  simp (disch := decide) only [Word32.field_high, Word32.field_low, BitVec.extractLsb'_eq_self, Nat.reduceSub]

theorem remu (d : BitVec 6) (a : BitVec 6) (b : BitVec 6) : Statement (.remu d a b) := by
  refine of_code (e := 0) (o := 10) (x := d ++ a ++ b) (by decide) (fun _ _ => rfl) ?_
  change decodeC 10 _ = _
  simp only [decodeC]
  simp (disch := decide) only [Word32.field_high, Word32.field_low, BitVec.extractLsb'_eq_self, Nat.reduceSub]

theorem and (d : BitVec 6) (a : BitVec 6) (b : BitVec 6) : Statement (.and d a b) := by
  refine of_code (e := 0) (o := 11) (x := d ++ a ++ b) (by decide) (fun _ _ => rfl) ?_
  change decodeC 11 _ = _
  simp only [decodeC]
  simp (disch := decide) only [Word32.field_high, Word32.field_low, BitVec.extractLsb'_eq_self, Nat.reduceSub]

theorem andi (d : BitVec 6) (a : BitVec 6) (i : BitVec 6) : Statement (.andi d a i) := by
  refine of_code (e := 0) (o := 12) (x := d ++ a ++ i) (by decide) (fun _ _ => rfl) ?_
  change decodeC 12 _ = _
  simp only [decodeC]
  simp (disch := decide) only [Word32.field_high, Word32.field_low, BitVec.extractLsb'_eq_self, Nat.reduceSub]

theorem or (d : BitVec 6) (a : BitVec 6) (b : BitVec 6) : Statement (.or d a b) := by
  refine of_code (e := 0) (o := 13) (x := d ++ a ++ b) (by decide) (fun _ _ => rfl) ?_
  change decodeC 13 _ = _
  simp only [decodeC]
  simp (disch := decide) only [Word32.field_high, Word32.field_low, BitVec.extractLsb'_eq_self, Nat.reduceSub]

theorem ori (d : BitVec 6) (a : BitVec 6) (i : BitVec 6) : Statement (.ori d a i) := by
  refine of_code (e := 0) (o := 14) (x := d ++ a ++ i) (by decide) (fun _ _ => rfl) ?_
  change decodeC 14 _ = _
  simp only [decodeC]
  simp (disch := decide) only [Word32.field_high, Word32.field_low, BitVec.extractLsb'_eq_self, Nat.reduceSub]

theorem xor (d : BitVec 6) (a : BitVec 6) (b : BitVec 6) : Statement (.xor d a b) := by
  refine of_code (e := 0) (o := 15) (x := d ++ a ++ b) (by decide) (fun _ _ => rfl) ?_
  change decodeC 15 _ = _
  simp only [decodeC]
  simp (disch := decide) only [Word32.field_high, Word32.field_low, BitVec.extractLsb'_eq_self, Nat.reduceSub]

theorem xori (d : BitVec 6) (a : BitVec 6) (i : BitVec 6) : Statement (.xori d a i) := by
  refine of_code (e := 0) (o := 16) (x := d ++ a ++ i) (by decide) (fun _ _ => rfl) ?_
  change decodeC 16 _ = _
  simp only [decodeC]
  simp (disch := decide) only [Word32.field_high, Word32.field_low, BitVec.extractLsb'_eq_self, Nat.reduceSub]

theorem shl (d : BitVec 6) (a : BitVec 6) (b : BitVec 6) : Statement (.shl d a b) := by
  refine of_code (e := 0) (o := 17) (x := d ++ a ++ b) (by decide) (fun _ _ => rfl) ?_
  change decodeC 17 _ = _
  simp only [decodeC]
  simp (disch := decide) only [Word32.field_high, Word32.field_low, BitVec.extractLsb'_eq_self, Nat.reduceSub]

theorem shli (d : BitVec 6) (a : BitVec 6) (k : BitVec 6) : Statement (.shli d a k) := by
  refine of_code (e := 0) (o := 18) (x := d ++ a ++ k) (by decide) (fun _ _ => rfl) ?_
  change decodeC 18 _ = _
  simp only [decodeC]
  simp (disch := decide) only [Word32.field_high, Word32.field_low, BitVec.extractLsb'_eq_self, Nat.reduceSub]

theorem shr (d : BitVec 6) (a : BitVec 6) (b : BitVec 6) : Statement (.shr d a b) := by
  refine of_code (e := 0) (o := 19) (x := d ++ a ++ b) (by decide) (fun _ _ => rfl) ?_
  change decodeC 19 _ = _
  simp only [decodeC]
  simp (disch := decide) only [Word32.field_high, Word32.field_low, BitVec.extractLsb'_eq_self, Nat.reduceSub]

theorem shri (d : BitVec 6) (a : BitVec 6) (k : BitVec 6) : Statement (.shri d a k) := by
  refine of_code (e := 0) (o := 20) (x := d ++ a ++ k) (by decide) (fun _ _ => rfl) ?_
  change decodeC 20 _ = _
  simp only [decodeC]
  simp (disch := decide) only [Word32.field_high, Word32.field_low, BitVec.extractLsb'_eq_self, Nat.reduceSub]

theorem sra (d : BitVec 6) (a : BitVec 6) (b : BitVec 6) : Statement (.sra d a b) := by
  refine of_code (e := 0) (o := 21) (x := d ++ a ++ b) (by decide) (fun _ _ => rfl) ?_
  change decodeC 21 _ = _
  simp only [decodeC]
  simp (disch := decide) only [Word32.field_high, Word32.field_low, BitVec.extractLsb'_eq_self, Nat.reduceSub]

theorem srai (d : BitVec 6) (a : BitVec 6) (k : BitVec 6) : Statement (.srai d a k) := by
  refine of_code (e := 0) (o := 22) (x := d ++ a ++ k) (by decide) (fun _ _ => rfl) ?_
  change decodeC 22 _ = _
  simp only [decodeC]
  simp (disch := decide) only [Word32.field_high, Word32.field_low, BitVec.extractLsb'_eq_self, Nat.reduceSub]

theorem clz (d : BitVec 6) (a : BitVec 6) : Statement (.clz d a) := by
  refine of_code (e := 0) (o := 23) (x := d ++ a ++ 0#6) (by decide) (fun _ _ => rfl) ?_
  change decodeC 23 _ = _
  simp only [decodeC]
  rw [if_pos]
  rotate_left
  · simp (disch := decide) only [Word32.field_high, Word32.field_low, BitVec.extractLsb'_eq_self, Nat.reduceSub]
    try rfl
  simp (disch := decide) only [Word32.field_high, Word32.field_low, BitVec.extractLsb'_eq_self, Nat.reduceSub]

theorem popc (d : BitVec 6) (a : BitVec 6) : Statement (.popc d a) := by
  refine of_code (e := 0) (o := 24) (x := d ++ a ++ 0#6) (by decide) (fun _ _ => rfl) ?_
  change decodeC 24 _ = _
  simp only [decodeC]
  rw [if_pos]
  rotate_left
  · simp (disch := decide) only [Word32.field_high, Word32.field_low, BitVec.extractLsb'_eq_self, Nat.reduceSub]
    try rfl
  simp (disch := decide) only [Word32.field_high, Word32.field_low, BitVec.extractLsb'_eq_self, Nat.reduceSub]

theorem min (d : BitVec 6) (a : BitVec 6) (b : BitVec 6) : Statement (.min d a b) := by
  refine of_code (e := 0) (o := 25) (x := d ++ a ++ b) (by decide) (fun _ _ => rfl) ?_
  change decodeC 25 _ = _
  simp only [decodeC]
  simp (disch := decide) only [Word32.field_high, Word32.field_low, BitVec.extractLsb'_eq_self, Nat.reduceSub]

theorem max (d : BitVec 6) (a : BitVec 6) (b : BitVec 6) : Statement (.max d a b) := by
  refine of_code (e := 0) (o := 26) (x := d ++ a ++ b) (by decide) (fun _ _ => rfl) ?_
  change decodeC 26 _ = _
  simp only [decodeC]
  simp (disch := decide) only [Word32.field_high, Word32.field_low, BitVec.extractLsb'_eq_self, Nat.reduceSub]

theorem minu (d : BitVec 6) (a : BitVec 6) (b : BitVec 6) : Statement (.minu d a b) := by
  refine of_code (e := 0) (o := 27) (x := d ++ a ++ b) (by decide) (fun _ _ => rfl) ?_
  change decodeC 27 _ = _
  simp only [decodeC]
  simp (disch := decide) only [Word32.field_high, Word32.field_low, BitVec.extractLsb'_eq_self, Nat.reduceSub]

theorem maxu (d : BitVec 6) (a : BitVec 6) (b : BitVec 6) : Statement (.maxu d a b) := by
  refine of_code (e := 0) (o := 28) (x := d ++ a ++ b) (by decide) (fun _ _ => rfl) ?_
  change decodeC 28 _ = _
  simp only [decodeC]
  simp (disch := decide) only [Word32.field_high, Word32.field_low, BitVec.extractLsb'_eq_self, Nat.reduceSub]

theorem sel (d : BitVec 6) (a : BitVec 6) (n : BitVec 1) (p : BitVec 4) : Statement (.sel d a n p) := by
  refine of_code (e := 0) (o := 29) (x := d ++ a ++ n ++ 0#1 ++ p) (by decide) (fun _ _ => rfl) ?_
  change decodeC 29 _ = _
  simp only [decodeC]
  rw [if_pos]
  rotate_left
  · simp (disch := decide) only [Word32.field_high, Word32.field_low, BitVec.extractLsb'_eq_self, Nat.reduceSub]
    try rfl
  simp (disch := decide) only [Word32.field_high, Word32.field_low, BitVec.extractLsb'_eq_self, Nat.reduceSub]

theorem li (d : BitVec 6) (i : BitVec 12) : Statement (.li d i) := by
  refine of_code (e := 0) (o := 30) (x := d ++ i) (by decide) (fun _ _ => rfl) ?_
  change decodeC 30 _ = _
  simp only [decodeC]
  simp (disch := decide) only [Word32.field_high, Word32.field_low, BitVec.extractLsb'_eq_self, Nat.reduceSub]

theorem addx (d : BitVec 6) (a : BitVec 6) (k : BitVec 6) : Statement (.addx d a k) := by
  refine of_code (e := 0) (o := 31) (x := d ++ a ++ k) (by decide) (fun _ _ => rfl) ?_
  change decodeC 31 _ = _
  simp only [decodeC]
  simp (disch := decide) only [Word32.field_high, Word32.field_low, BitVec.extractLsb'_eq_self, Nat.reduceSub]

theorem cmpEq (p : BitVec 3) (a : BitVec 6) (b : BitVec 6) : Statement (.cmpEq p a b) := by
  refine of_code (e := 0) (o := 32) (x := p ++ 0#3 ++ a ++ b) (by decide) (fun _ _ => rfl) ?_
  change decodeC 32 _ = _
  simp only [decodeC]
  rw [if_pos]
  rotate_left
  · simp (disch := decide) only [Word32.field_high, Word32.field_low, BitVec.extractLsb'_eq_self, Nat.reduceSub]
    try rfl
  simp (disch := decide) only [Word32.field_high, Word32.field_low, BitVec.extractLsb'_eq_self, Nat.reduceSub]

theorem cmpNe (p : BitVec 3) (a : BitVec 6) (b : BitVec 6) : Statement (.cmpNe p a b) := by
  refine of_code (e := 0) (o := 33) (x := p ++ 0#3 ++ a ++ b) (by decide) (fun _ _ => rfl) ?_
  change decodeC 33 _ = _
  simp only [decodeC]
  rw [if_pos]
  rotate_left
  · simp (disch := decide) only [Word32.field_high, Word32.field_low, BitVec.extractLsb'_eq_self, Nat.reduceSub]
    try rfl
  simp (disch := decide) only [Word32.field_high, Word32.field_low, BitVec.extractLsb'_eq_self, Nat.reduceSub]

theorem cmpLt (p : BitVec 3) (a : BitVec 6) (b : BitVec 6) : Statement (.cmpLt p a b) := by
  refine of_code (e := 0) (o := 34) (x := p ++ 0#3 ++ a ++ b) (by decide) (fun _ _ => rfl) ?_
  change decodeC 34 _ = _
  simp only [decodeC]
  rw [if_pos]
  rotate_left
  · simp (disch := decide) only [Word32.field_high, Word32.field_low, BitVec.extractLsb'_eq_self, Nat.reduceSub]
    try rfl
  simp (disch := decide) only [Word32.field_high, Word32.field_low, BitVec.extractLsb'_eq_self, Nat.reduceSub]

theorem cmpLe (p : BitVec 3) (a : BitVec 6) (b : BitVec 6) : Statement (.cmpLe p a b) := by
  refine of_code (e := 0) (o := 35) (x := p ++ 0#3 ++ a ++ b) (by decide) (fun _ _ => rfl) ?_
  change decodeC 35 _ = _
  simp only [decodeC]
  rw [if_pos]
  rotate_left
  · simp (disch := decide) only [Word32.field_high, Word32.field_low, BitVec.extractLsb'_eq_self, Nat.reduceSub]
    try rfl
  simp (disch := decide) only [Word32.field_high, Word32.field_low, BitVec.extractLsb'_eq_self, Nat.reduceSub]

theorem cmpLtu (p : BitVec 3) (a : BitVec 6) (b : BitVec 6) : Statement (.cmpLtu p a b) := by
  refine of_code (e := 0) (o := 36) (x := p ++ 0#3 ++ a ++ b) (by decide) (fun _ _ => rfl) ?_
  change decodeC 36 _ = _
  simp only [decodeC]
  rw [if_pos]
  rotate_left
  · simp (disch := decide) only [Word32.field_high, Word32.field_low, BitVec.extractLsb'_eq_self, Nat.reduceSub]
    try rfl
  simp (disch := decide) only [Word32.field_high, Word32.field_low, BitVec.extractLsb'_eq_self, Nat.reduceSub]

theorem cmpLeu (p : BitVec 3) (a : BitVec 6) (b : BitVec 6) : Statement (.cmpLeu p a b) := by
  refine of_code (e := 0) (o := 37) (x := p ++ 0#3 ++ a ++ b) (by decide) (fun _ _ => rfl) ?_
  change decodeC 37 _ = _
  simp only [decodeC]
  rw [if_pos]
  rotate_left
  · simp (disch := decide) only [Word32.field_high, Word32.field_low, BitVec.extractLsb'_eq_self, Nat.reduceSub]
    try rfl
  simp (disch := decide) only [Word32.field_high, Word32.field_low, BitVec.extractLsb'_eq_self, Nat.reduceSub]

theorem cmpiEq (p : BitVec 3) (a : BitVec 6) (i : BitVec 6) : Statement (.cmpiEq p a i) := by
  refine of_code (e := 0) (o := 38) (x := p ++ 0#3 ++ a ++ i) (by decide) (fun _ _ => rfl) ?_
  change decodeC 38 _ = _
  simp only [decodeC]
  rw [if_pos]
  rotate_left
  · simp (disch := decide) only [Word32.field_high, Word32.field_low, BitVec.extractLsb'_eq_self, Nat.reduceSub]
    try rfl
  simp (disch := decide) only [Word32.field_high, Word32.field_low, BitVec.extractLsb'_eq_self, Nat.reduceSub]

theorem cmpiNe (p : BitVec 3) (a : BitVec 6) (i : BitVec 6) : Statement (.cmpiNe p a i) := by
  refine of_code (e := 0) (o := 39) (x := p ++ 0#3 ++ a ++ i) (by decide) (fun _ _ => rfl) ?_
  change decodeC 39 _ = _
  simp only [decodeC]
  rw [if_pos]
  rotate_left
  · simp (disch := decide) only [Word32.field_high, Word32.field_low, BitVec.extractLsb'_eq_self, Nat.reduceSub]
    try rfl
  simp (disch := decide) only [Word32.field_high, Word32.field_low, BitVec.extractLsb'_eq_self, Nat.reduceSub]

theorem cmpiLt (p : BitVec 3) (a : BitVec 6) (i : BitVec 6) : Statement (.cmpiLt p a i) := by
  refine of_code (e := 0) (o := 40) (x := p ++ 0#3 ++ a ++ i) (by decide) (fun _ _ => rfl) ?_
  change decodeC 40 _ = _
  simp only [decodeC]
  rw [if_pos]
  rotate_left
  · simp (disch := decide) only [Word32.field_high, Word32.field_low, BitVec.extractLsb'_eq_self, Nat.reduceSub]
    try rfl
  simp (disch := decide) only [Word32.field_high, Word32.field_low, BitVec.extractLsb'_eq_self, Nat.reduceSub]

theorem cmpiLe (p : BitVec 3) (a : BitVec 6) (i : BitVec 6) : Statement (.cmpiLe p a i) := by
  refine of_code (e := 0) (o := 41) (x := p ++ 0#3 ++ a ++ i) (by decide) (fun _ _ => rfl) ?_
  change decodeC 41 _ = _
  simp only [decodeC]
  rw [if_pos]
  rotate_left
  · simp (disch := decide) only [Word32.field_high, Word32.field_low, BitVec.extractLsb'_eq_self, Nat.reduceSub]
    try rfl
  simp (disch := decide) only [Word32.field_high, Word32.field_low, BitVec.extractLsb'_eq_self, Nat.reduceSub]

theorem cmpiLtu (p : BitVec 3) (a : BitVec 6) (i : BitVec 6) : Statement (.cmpiLtu p a i) := by
  refine of_code (e := 0) (o := 42) (x := p ++ 0#3 ++ a ++ i) (by decide) (fun _ _ => rfl) ?_
  change decodeC 42 _ = _
  simp only [decodeC]
  rw [if_pos]
  rotate_left
  · simp (disch := decide) only [Word32.field_high, Word32.field_low, BitVec.extractLsb'_eq_self, Nat.reduceSub]
    try rfl
  simp (disch := decide) only [Word32.field_high, Word32.field_low, BitVec.extractLsb'_eq_self, Nat.reduceSub]

theorem cmpiLeu (p : BitVec 3) (a : BitVec 6) (i : BitVec 6) : Statement (.cmpiLeu p a i) := by
  refine of_code (e := 0) (o := 43) (x := p ++ 0#3 ++ a ++ i) (by decide) (fun _ _ => rfl) ?_
  change decodeC 43 _ = _
  simp only [decodeC]
  rw [if_pos]
  rotate_left
  · simp (disch := decide) only [Word32.field_high, Word32.field_low, BitVec.extractLsb'_eq_self, Nat.reduceSub]
    try rfl
  simp (disch := decide) only [Word32.field_high, Word32.field_low, BitVec.extractLsb'_eq_self, Nat.reduceSub]

theorem pset (f : BitVec 2) (d : BitVec 4) (a : BitVec 4) (b : BitVec 4) : Statement (.pset f d a b) := by
  refine of_code (e := 0) (o := 44) (x := f ++ d ++ a ++ b ++ 0#4) (by decide) (fun _ _ => rfl) ?_
  change decodeC 44 _ = _
  simp only [decodeC]
  rw [if_pos]
  rotate_left
  · simp (disch := decide) only [Word32.field_high, Word32.field_low, BitVec.extractLsb'_eq_self, Nat.reduceSub]
    try rfl
  simp (disch := decide) only [Word32.field_high, Word32.field_low, BitVec.extractLsb'_eq_self, Nat.reduceSub]

theorem pmov (d : BitVec 6) (a : BitVec 6) (k : BitVec 2) : Statement (.pmov d a k) := by
  refine of_code (e := 0) (o := 45) (x := d ++ a ++ k ++ 0#4) (by decide) (fun _ _ => rfl) ?_
  change decodeC 45 _ = _
  simp only [decodeC]
  rw [if_pos]
  rotate_left
  · simp (disch := decide) only [Word32.field_high, Word32.field_low, BitVec.extractLsb'_eq_self, Nat.reduceSub]
    try rfl
  simp (disch := decide) only [Word32.field_high, Word32.field_low, BitVec.extractLsb'_eq_self, Nat.reduceSub]

theorem br (i : BitVec 18) : Statement (.br i) := by
  refine of_code (e := 0) (o := 46) (x := i) (by decide) (fun _ _ => rfl) ?_
  change decodeC 46 _ = _
  simp only [decodeC]
  simp (disch := decide) only [Word32.field_high, Word32.field_low, BitVec.extractLsb'_eq_self, Nat.reduceSub]

theorem call (i : BitVec 18) : Statement (.call i) := by
  refine of_code (e := 0) (o := 47) (x := i) (by decide) (fun _ _ => rfl) ?_
  change decodeC 47 _ = _
  simp only [decodeC]
  simp (disch := decide) only [Word32.field_high, Word32.field_low, BitVec.extractLsb'_eq_self, Nat.reduceSub]

theorem ret : Statement .ret := of_code (e := 0) (o := 48) (x := 0#18) (by decide) (fun _ _ => rfl) rfl

theorem jr (d : BitVec 6) (a : BitVec 6) : Statement (.jr d a) := by
  refine of_code (e := 0) (o := 49) (x := d ++ a ++ 0#6) (by decide) (fun _ _ => rfl) ?_
  change decodeC 49 _ = _
  simp only [decodeC]
  rw [if_pos]
  rotate_left
  · simp (disch := decide) only [Word32.field_high, Word32.field_low, BitVec.extractLsb'_eq_self, Nat.reduceSub]
    try rfl
  simp (disch := decide) only [Word32.field_high, Word32.field_low, BitVec.extractLsb'_eq_self, Nat.reduceSub]

theorem bq (q : BitVec 2) (t : BitVec 2) (i : BitVec 14) : Statement (.bq q t i) := by
  refine of_code (e := 0) (o := 50) (x := q ++ t ++ i) (by decide) (fun _ _ => rfl) ?_
  change decodeC 50 _ = _
  simp only [decodeC]
  simp (disch := decide) only [Word32.field_high, Word32.field_low, BitVec.extractLsb'_eq_self, Nat.reduceSub]

theorem loop (a : BitVec 6) (k : BitVec 3) (e : BitVec 9) : Statement (.loop a k e) := by
  refine of_code (e := 0) (o := 51) (x := a ++ k ++ e) (by decide) (fun _ _ => rfl) ?_
  change decodeC 51 _ = _
  simp only [decodeC]
  simp (disch := decide) only [Word32.field_high, Word32.field_low, BitVec.extractLsb'_eq_self, Nat.reduceSub]

theorem loopi (k : BitVec 3) (n : BitVec 8) (e : BitVec 7) : Statement (.loopi k n e) := by
  refine of_code (e := 0) (o := 52) (x := k ++ n ++ e) (by decide) (fun _ _ => rfl) ?_
  change decodeC 52 _ = _
  simp only [decodeC]
  simp (disch := decide) only [Word32.field_high, Word32.field_low, BitVec.extractLsb'_eq_self, Nat.reduceSub]

theorem csrr (d : BitVec 6) (c : BitVec 12) : Statement (.csrr d c) := by
  refine of_code (e := 0) (o := 53) (x := d ++ c) (by decide) (fun _ _ => rfl) ?_
  change decodeC 53 _ = _
  simp only [decodeC]
  simp (disch := decide) only [Word32.field_high, Word32.field_low, BitVec.extractLsb'_eq_self, Nat.reduceSub]

theorem csrw (s : BitVec 6) (c : BitVec 12) : Statement (.csrw s c) := by
  refine of_code (e := 0) (o := 54) (x := s ++ c) (by decide) (fun _ _ => rfl) ?_
  change decodeC 54 _ = _
  simp only [decodeC]
  simp (disch := decide) only [Word32.field_high, Word32.field_low, BitVec.extractLsb'_eq_self, Nat.reduceSub]

theorem csrs (s : BitVec 6) (c : BitVec 12) : Statement (.csrs s c) := by
  refine of_code (e := 0) (o := 55) (x := s ++ c) (by decide) (fun _ _ => rfl) ?_
  change decodeC 55 _ = _
  simp only [decodeC]
  simp (disch := decide) only [Word32.field_high, Word32.field_low, BitVec.extractLsb'_eq_self, Nat.reduceSub]

theorem csrc (s : BitVec 6) (c : BitVec 12) : Statement (.csrc s c) := by
  refine of_code (e := 0) (o := 56) (x := s ++ c) (by decide) (fun _ _ => rfl) ?_
  change decodeC 56 _ = _
  simp only [decodeC]
  simp (disch := decide) only [Word32.field_high, Word32.field_low, BitVec.extractLsb'_eq_self, Nat.reduceSub]

theorem ldb (d : BitVec 6) (a : BitVec 6) (s : BitVec 1) (i : BitVec 5) : Statement (.ldb d a s i) := by
  refine of_code (e := 1) (o := 1) (x := d ++ a ++ s ++ i) (by decide) (fun _ _ => rfl) ?_
  change decodeL 1 _ = _
  simp only [decodeL]
  simp (disch := decide) only [Word32.field_high, Word32.field_low, BitVec.extractLsb'_eq_self, Nat.reduceSub]

theorem ldbu (d : BitVec 6) (a : BitVec 6) (s : BitVec 1) (i : BitVec 5) : Statement (.ldbu d a s i) := by
  refine of_code (e := 1) (o := 2) (x := d ++ a ++ s ++ i) (by decide) (fun _ _ => rfl) ?_
  change decodeL 2 _ = _
  simp only [decodeL]
  simp (disch := decide) only [Word32.field_high, Word32.field_low, BitVec.extractLsb'_eq_self, Nat.reduceSub]

theorem ldh (d : BitVec 6) (a : BitVec 6) (s : BitVec 1) (i : BitVec 5) : Statement (.ldh d a s i) := by
  refine of_code (e := 1) (o := 3) (x := d ++ a ++ s ++ i) (by decide) (fun _ _ => rfl) ?_
  change decodeL 3 _ = _
  simp only [decodeL]
  simp (disch := decide) only [Word32.field_high, Word32.field_low, BitVec.extractLsb'_eq_self, Nat.reduceSub]

theorem ldhu (d : BitVec 6) (a : BitVec 6) (s : BitVec 1) (i : BitVec 5) : Statement (.ldhu d a s i) := by
  refine of_code (e := 1) (o := 4) (x := d ++ a ++ s ++ i) (by decide) (fun _ _ => rfl) ?_
  change decodeL 4 _ = _
  simp only [decodeL]
  simp (disch := decide) only [Word32.field_high, Word32.field_low, BitVec.extractLsb'_eq_self, Nat.reduceSub]

theorem ldw (d : BitVec 6) (a : BitVec 6) (s : BitVec 1) (i : BitVec 5) : Statement (.ldw d a s i) := by
  refine of_code (e := 1) (o := 5) (x := d ++ a ++ s ++ i) (by decide) (fun _ _ => rfl) ?_
  change decodeL 5 _ = _
  simp only [decodeL]
  simp (disch := decide) only [Word32.field_high, Word32.field_low, BitVec.extractLsb'_eq_self, Nat.reduceSub]

theorem ldwu (d : BitVec 6) (a : BitVec 6) (s : BitVec 1) (i : BitVec 5) : Statement (.ldwu d a s i) := by
  refine of_code (e := 1) (o := 6) (x := d ++ a ++ s ++ i) (by decide) (fun _ _ => rfl) ?_
  change decodeL 6 _ = _
  simp only [decodeL]
  simp (disch := decide) only [Word32.field_high, Word32.field_low, BitVec.extractLsb'_eq_self, Nat.reduceSub]

theorem ldd (d : BitVec 6) (a : BitVec 6) (s : BitVec 1) (i : BitVec 5) : Statement (.ldd d a s i) := by
  refine of_code (e := 1) (o := 7) (x := d ++ a ++ s ++ i) (by decide) (fun _ _ => rfl) ?_
  change decodeL 7 _ = _
  simp only [decodeL]
  simp (disch := decide) only [Word32.field_high, Word32.field_low, BitVec.extractLsb'_eq_self, Nat.reduceSub]

theorem stb (s : BitVec 6) (a : BitVec 6) (i : BitVec 6) : Statement (.stb s a i) := by
  refine of_code (e := 1) (o := 8) (x := s ++ a ++ i) (by decide) (fun _ _ => rfl) ?_
  change decodeL 8 _ = _
  simp only [decodeL]
  simp (disch := decide) only [Word32.field_high, Word32.field_low, BitVec.extractLsb'_eq_self, Nat.reduceSub]

theorem sth (s : BitVec 6) (a : BitVec 6) (i : BitVec 6) : Statement (.sth s a i) := by
  refine of_code (e := 1) (o := 9) (x := s ++ a ++ i) (by decide) (fun _ _ => rfl) ?_
  change decodeL 9 _ = _
  simp only [decodeL]
  simp (disch := decide) only [Word32.field_high, Word32.field_low, BitVec.extractLsb'_eq_self, Nat.reduceSub]

theorem stw (s : BitVec 6) (a : BitVec 6) (i : BitVec 6) : Statement (.stw s a i) := by
  refine of_code (e := 1) (o := 10) (x := s ++ a ++ i) (by decide) (fun _ _ => rfl) ?_
  change decodeL 10 _ = _
  simp only [decodeL]
  simp (disch := decide) only [Word32.field_high, Word32.field_low, BitVec.extractLsb'_eq_self, Nat.reduceSub]

theorem std (s : BitVec 6) (a : BitVec 6) (i : BitVec 6) : Statement (.std s a i) := by
  refine of_code (e := 1) (o := 11) (x := s ++ a ++ i) (by decide) (fun _ _ => rfl) ?_
  change decodeL 11 _ = _
  simp only [decodeL]
  simp (disch := decide) only [Word32.field_high, Word32.field_low, BitVec.extractLsb'_eq_self, Nat.reduceSub]

theorem ldv (d : BitVec 6) (a : BitVec 6) (s : BitVec 1) (i : BitVec 5) : Statement (.ldv d a s i) := by
  refine of_code (e := 1) (o := 12) (x := d ++ a ++ s ++ i) (by decide) (fun _ _ => rfl) ?_
  change decodeL 12 _ = _
  simp only [decodeL]
  simp (disch := decide) only [Word32.field_high, Word32.field_low, BitVec.extractLsb'_eq_self, Nat.reduceSub]

theorem stv (s : BitVec 6) (a : BitVec 6) (i : BitVec 6) : Statement (.stv s a i) := by
  refine of_code (e := 1) (o := 13) (x := s ++ a ++ i) (by decide) (fun _ _ => rfl) ?_
  change decodeL 13 _ = _
  simp only [decodeL]
  simp (disch := decide) only [Word32.field_high, Word32.field_low, BitVec.extractLsb'_eq_self, Nat.reduceSub]

theorem amo (d : BitVec 6) (a : BitVec 6) (f : BitVec 4) (o : BitVec 2) : Statement (.amo d a f o) := by
  refine of_code (e := 1) (o := 14) (x := d ++ a ++ f ++ o) (by decide) (fun _ _ => rfl) ?_
  change decodeL 14 _ = _
  simp only [decodeL]
  simp (disch := decide) only [Word32.field_high, Word32.field_low, BitVec.extractLsb'_eq_self, Nat.reduceSub]

theorem cas (d : BitVec 6) (a : BitVec 6) (o : BitVec 2) : Statement (.cas d a o) := by
  refine of_code (e := 1) (o := 15) (x := d ++ a ++ 0#4 ++ o) (by decide) (fun _ _ => rfl) ?_
  change decodeL 15 _ = _
  simp only [decodeL]
  rw [if_pos]
  rotate_left
  · simp (disch := decide) only [Word32.field_high, Word32.field_low, BitVec.extractLsb'_eq_self, Nat.reduceSub]
    try rfl
  simp (disch := decide) only [Word32.field_high, Word32.field_low, BitVec.extractLsb'_eq_self, Nat.reduceSub]

theorem ownx (a : BitVec 6) (b : BitVec 6) : Statement (.ownx a b) := by
  refine of_code (e := 1) (o := 16) (x := 0#6 ++ a ++ b) (by decide) (fun _ _ => rfl) ?_
  change decodeL 16 _ = _
  simp only [decodeL]
  rw [if_pos]
  rotate_left
  · simp (disch := decide) only [Word32.field_high, Word32.field_low, BitVec.extractLsb'_eq_self, Nat.reduceSub]
    try rfl
  simp (disch := decide) only [Word32.field_high, Word32.field_low, BitVec.extractLsb'_eq_self, Nat.reduceSub]

theorem owna (a : BitVec 6) : Statement (.owna a) := by
  refine of_code (e := 1) (o := 17) (x := 0#6 ++ a ++ 0#6) (by decide) (fun _ _ => rfl) ?_
  change decodeL 17 _ = _
  simp only [decodeL]
  rw [if_pos]
  rotate_left
  · refine ⟨?_, ?_⟩ <;> (simp (disch := decide) only [Word32.field_high, Word32.field_low, BitVec.extractLsb'_eq_self, Nat.reduceSub]; try rfl)
  simp (disch := decide) only [Word32.field_high, Word32.field_low, BitVec.extractLsb'_eq_self, Nat.reduceSub]

theorem owns (a : BitVec 6) (k : BitVec 1) : Statement (.owns a k) := by
  refine of_code (e := 1) (o := 18) (x := 0#6 ++ a ++ 0#5 ++ k) (by decide) (fun _ _ => rfl) ?_
  change decodeL 18 _ = _
  simp only [decodeL]
  rw [if_pos]
  rotate_left
  · refine ⟨?_, ?_⟩ <;> (simp (disch := decide) only [Word32.field_high, Word32.field_low, BitVec.extractLsb'_eq_self, Nat.reduceSub]; try rfl)
  simp (disch := decide) only [Word32.field_high, Word32.field_low, BitVec.extractLsb'_eq_self, Nat.reduceSub]

theorem ownf (a : BitVec 6) : Statement (.ownf a) := by
  refine of_code (e := 1) (o := 19) (x := 0#6 ++ a ++ 0#6) (by decide) (fun _ _ => rfl) ?_
  change decodeL 19 _ = _
  simp only [decodeL]
  rw [if_pos]
  rotate_left
  · refine ⟨?_, ?_⟩ <;> (simp (disch := decide) only [Word32.field_high, Word32.field_low, BitVec.extractLsb'_eq_self, Nat.reduceSub]; try rfl)
  simp (disch := decide) only [Word32.field_high, Word32.field_low, BitVec.extractLsb'_eq_self, Nat.reduceSub]

theorem ownq (d : BitVec 6) (a : BitVec 6) : Statement (.ownq d a) := by
  refine of_code (e := 1) (o := 20) (x := d ++ a ++ 0#6) (by decide) (fun _ _ => rfl) ?_
  change decodeL 20 _ = _
  simp only [decodeL]
  rw [if_pos]
  rotate_left
  · simp (disch := decide) only [Word32.field_high, Word32.field_low, BitVec.extractLsb'_eq_self, Nat.reduceSub]
    try rfl
  simp (disch := decide) only [Word32.field_high, Word32.field_low, BitVec.extractLsb'_eq_self, Nat.reduceSub]

theorem semsig (a : BitVec 6) (b : BitVec 6) : Statement (.semsig a b) := by
  refine of_code (e := 1) (o := 21) (x := 0#6 ++ a ++ b) (by decide) (fun _ _ => rfl) ?_
  change decodeL 21 _ = _
  simp only [decodeL]
  rw [if_pos]
  rotate_left
  · simp (disch := decide) only [Word32.field_high, Word32.field_low, BitVec.extractLsb'_eq_self, Nat.reduceSub]
    try rfl
  simp (disch := decide) only [Word32.field_high, Word32.field_low, BitVec.extractLsb'_eq_self, Nat.reduceSub]

theorem semwait (a : BitVec 6) (b : BitVec 6) : Statement (.semwait a b) := by
  refine of_code (e := 1) (o := 22) (x := 0#6 ++ a ++ b) (by decide) (fun _ _ => rfl) ?_
  change decodeL 22 _ = _
  simp only [decodeL]
  rw [if_pos]
  rotate_left
  · simp (disch := decide) only [Word32.field_high, Word32.field_low, BitVec.extractLsb'_eq_self, Nat.reduceSub]
    try rfl
  simp (disch := decide) only [Word32.field_high, Word32.field_low, BitVec.extractLsb'_eq_self, Nat.reduceSub]

theorem semtry (d : BitVec 6) (a : BitVec 6) (b : BitVec 6) : Statement (.semtry d a b) := by
  refine of_code (e := 1) (o := 23) (x := d ++ a ++ b) (by decide) (fun _ _ => rfl) ?_
  change decodeL 23 _ = _
  simp only [decodeL]
  simp (disch := decide) only [Word32.field_high, Word32.field_low, BitVec.extractLsb'_eq_self, Nat.reduceSub]

theorem prefg (a : BitVec 6) (k : BitVec 3) : Statement (.prefg a k) := by
  refine of_code (e := 1) (o := 24) (x := 0#6 ++ a ++ k ++ 0#3) (by decide) (fun _ _ => rfl) ?_
  change decodeL 24 _ = _
  simp only [decodeL]
  rw [if_pos]
  rotate_left
  · refine ⟨?_, ?_⟩ <;> (simp (disch := decide) only [Word32.field_high, Word32.field_low, BitVec.extractLsb'_eq_self, Nat.reduceSub]; try rfl)
  simp (disch := decide) only [Word32.field_high, Word32.field_low, BitVec.extractLsb'_eq_self, Nat.reduceSub]

theorem vadd (d : BitVec 6) (a : BitVec 6) (b : BitVec 6) : Statement (.vadd d a b) := by
  refine of_code (e := 2) (o := 1) (x := d ++ a ++ b) (by decide) (fun _ _ => rfl) ?_
  change decodeV 1 _ = _
  simp only [decodeV]
  simp (disch := decide) only [Word32.field_high, Word32.field_low, BitVec.extractLsb'_eq_self, Nat.reduceSub]

theorem vsub (d : BitVec 6) (a : BitVec 6) (b : BitVec 6) : Statement (.vsub d a b) := by
  refine of_code (e := 2) (o := 2) (x := d ++ a ++ b) (by decide) (fun _ _ => rfl) ?_
  change decodeV 2 _ = _
  simp only [decodeV]
  simp (disch := decide) only [Word32.field_high, Word32.field_low, BitVec.extractLsb'_eq_self, Nat.reduceSub]

theorem vmul (d : BitVec 6) (a : BitVec 6) (b : BitVec 6) : Statement (.vmul d a b) := by
  refine of_code (e := 2) (o := 3) (x := d ++ a ++ b) (by decide) (fun _ _ => rfl) ?_
  change decodeV 3 _ = _
  simp only [decodeV]
  simp (disch := decide) only [Word32.field_high, Word32.field_low, BitVec.extractLsb'_eq_self, Nat.reduceSub]

theorem vfma (d : BitVec 6) (a : BitVec 6) (b : BitVec 6) : Statement (.vfma d a b) := by
  refine of_code (e := 2) (o := 4) (x := d ++ a ++ b) (by decide) (fun _ _ => rfl) ?_
  change decodeV 4 _ = _
  simp only [decodeV]
  simp (disch := decide) only [Word32.field_high, Word32.field_low, BitVec.extractLsb'_eq_self, Nat.reduceSub]

theorem vfms (d : BitVec 6) (a : BitVec 6) (b : BitVec 6) : Statement (.vfms d a b) := by
  refine of_code (e := 2) (o := 5) (x := d ++ a ++ b) (by decide) (fun _ _ => rfl) ?_
  change decodeV 5 _ = _
  simp only [decodeV]
  simp (disch := decide) only [Word32.field_high, Word32.field_low, BitVec.extractLsb'_eq_self, Nat.reduceSub]

theorem vmin (d : BitVec 6) (a : BitVec 6) (b : BitVec 6) : Statement (.vmin d a b) := by
  refine of_code (e := 2) (o := 6) (x := d ++ a ++ b) (by decide) (fun _ _ => rfl) ?_
  change decodeV 6 _ = _
  simp only [decodeV]
  simp (disch := decide) only [Word32.field_high, Word32.field_low, BitVec.extractLsb'_eq_self, Nat.reduceSub]

theorem vmax (d : BitVec 6) (a : BitVec 6) (b : BitVec 6) : Statement (.vmax d a b) := by
  refine of_code (e := 2) (o := 7) (x := d ++ a ++ b) (by decide) (fun _ _ => rfl) ?_
  change decodeV 7 _ = _
  simp only [decodeV]
  simp (disch := decide) only [Word32.field_high, Word32.field_low, BitVec.extractLsb'_eq_self, Nat.reduceSub]

theorem vabs (d : BitVec 6) (a : BitVec 6) : Statement (.vabs d a) := by
  refine of_code (e := 2) (o := 8) (x := d ++ a ++ 0#6) (by decide) (fun _ _ => rfl) ?_
  change decodeV 8 _ = _
  simp only [decodeV]
  rw [if_pos]
  rotate_left
  · simp (disch := decide) only [Word32.field_high, Word32.field_low, BitVec.extractLsb'_eq_self, Nat.reduceSub]
    try rfl
  simp (disch := decide) only [Word32.field_high, Word32.field_low, BitVec.extractLsb'_eq_self, Nat.reduceSub]

theorem vneg (d : BitVec 6) (a : BitVec 6) : Statement (.vneg d a) := by
  refine of_code (e := 2) (o := 9) (x := d ++ a ++ 0#6) (by decide) (fun _ _ => rfl) ?_
  change decodeV 9 _ = _
  simp only [decodeV]
  rw [if_pos]
  rotate_left
  · simp (disch := decide) only [Word32.field_high, Word32.field_low, BitVec.extractLsb'_eq_self, Nat.reduceSub]
    try rfl
  simp (disch := decide) only [Word32.field_high, Word32.field_low, BitVec.extractLsb'_eq_self, Nat.reduceSub]

theorem vand (d : BitVec 6) (a : BitVec 6) (b : BitVec 6) : Statement (.vand d a b) := by
  refine of_code (e := 2) (o := 10) (x := d ++ a ++ b) (by decide) (fun _ _ => rfl) ?_
  change decodeV 10 _ = _
  simp only [decodeV]
  simp (disch := decide) only [Word32.field_high, Word32.field_low, BitVec.extractLsb'_eq_self, Nat.reduceSub]

theorem vor (d : BitVec 6) (a : BitVec 6) (b : BitVec 6) : Statement (.vor d a b) := by
  refine of_code (e := 2) (o := 11) (x := d ++ a ++ b) (by decide) (fun _ _ => rfl) ?_
  change decodeV 11 _ = _
  simp only [decodeV]
  simp (disch := decide) only [Word32.field_high, Word32.field_low, BitVec.extractLsb'_eq_self, Nat.reduceSub]

theorem vxor (d : BitVec 6) (a : BitVec 6) (b : BitVec 6) : Statement (.vxor d a b) := by
  refine of_code (e := 2) (o := 12) (x := d ++ a ++ b) (by decide) (fun _ _ => rfl) ?_
  change decodeV 12 _ = _
  simp only [decodeV]
  simp (disch := decide) only [Word32.field_high, Word32.field_low, BitVec.extractLsb'_eq_self, Nat.reduceSub]

theorem vnot (d : BitVec 6) (a : BitVec 6) : Statement (.vnot d a) := by
  refine of_code (e := 2) (o := 13) (x := d ++ a ++ 0#6) (by decide) (fun _ _ => rfl) ?_
  change decodeV 13 _ = _
  simp only [decodeV]
  rw [if_pos]
  rotate_left
  · simp (disch := decide) only [Word32.field_high, Word32.field_low, BitVec.extractLsb'_eq_self, Nat.reduceSub]
    try rfl
  simp (disch := decide) only [Word32.field_high, Word32.field_low, BitVec.extractLsb'_eq_self, Nat.reduceSub]

theorem vshl (d : BitVec 6) (a : BitVec 6) (k : BitVec 6) : Statement (.vshl d a k) := by
  refine of_code (e := 2) (o := 14) (x := d ++ a ++ k) (by decide) (fun _ _ => rfl) ?_
  change decodeV 14 _ = _
  simp only [decodeV]
  simp (disch := decide) only [Word32.field_high, Word32.field_low, BitVec.extractLsb'_eq_self, Nat.reduceSub]

theorem vshr (d : BitVec 6) (a : BitVec 6) (k : BitVec 6) : Statement (.vshr d a k) := by
  refine of_code (e := 2) (o := 15) (x := d ++ a ++ k) (by decide) (fun _ _ => rfl) ?_
  change decodeV 15 _ = _
  simp only [decodeV]
  simp (disch := decide) only [Word32.field_high, Word32.field_low, BitVec.extractLsb'_eq_self, Nat.reduceSub]

theorem vsra (d : BitVec 6) (a : BitVec 6) (k : BitVec 6) : Statement (.vsra d a k) := by
  refine of_code (e := 2) (o := 16) (x := d ++ a ++ k) (by decide) (fun _ _ => rfl) ?_
  change decodeV 16 _ = _
  simp only [decodeV]
  simp (disch := decide) only [Word32.field_high, Word32.field_low, BitVec.extractLsb'_eq_self, Nat.reduceSub]

theorem vrshr (d : BitVec 6) (a : BitVec 6) (n : BitVec 1) (k : BitVec 5) : Statement (.vrshr d a n k) := by
  refine of_code (e := 2) (o := 17) (x := d ++ a ++ n ++ k) (by decide) (fun _ _ => rfl) ?_
  change decodeV 17 _ = _
  simp only [decodeV]
  simp (disch := decide) only [Word32.field_high, Word32.field_low, BitVec.extractLsb'_eq_self, Nat.reduceSub]

theorem vcmp (d : BitVec 6) (a : BitVec 6) (b : BitVec 6) : Statement (.vcmp d a b) := by
  refine of_code (e := 2) (o := 18) (x := d ++ a ++ b) (by decide) (fun _ _ => rfl) ?_
  change decodeV 18 _ = _
  simp only [decodeV]
  simp (disch := decide) only [Word32.field_high, Word32.field_low, BitVec.extractLsb'_eq_self, Nat.reduceSub]

theorem vsel (d : BitVec 6) (a : BitVec 6) (b : BitVec 6) : Statement (.vsel d a b) := by
  refine of_code (e := 2) (o := 19) (x := d ++ a ++ b) (by decide) (fun _ _ => rfl) ?_
  change decodeV 19 _ = _
  simp only [decodeV]
  simp (disch := decide) only [Word32.field_high, Word32.field_low, BitVec.extractLsb'_eq_self, Nat.reduceSub]

theorem vmov (d : BitVec 6) (a : BitVec 6) : Statement (.vmov d a) := by
  refine of_code (e := 2) (o := 20) (x := d ++ a ++ 0#6) (by decide) (fun _ _ => rfl) ?_
  change decodeV 20 _ = _
  simp only [decodeV]
  rw [if_pos]
  rotate_left
  · simp (disch := decide) only [Word32.field_high, Word32.field_low, BitVec.extractLsb'_eq_self, Nat.reduceSub]
    try rfl
  simp (disch := decide) only [Word32.field_high, Word32.field_low, BitVec.extractLsb'_eq_self, Nat.reduceSub]

theorem vzero (d : BitVec 6) : Statement (.vzero d) := by
  refine of_code (e := 2) (o := 21) (x := d ++ 0#12) (by decide) (fun _ _ => rfl) ?_
  change decodeV 21 _ = _
  simp only [decodeV]
  rw [if_pos]
  rotate_left
  · simp (disch := decide) only [Word32.field_high, Word32.field_low, BitVec.extractLsb'_eq_self, Nat.reduceSub]
    try rfl
  simp (disch := decide) only [Word32.field_high, Word32.field_low, BitVec.extractLsb'_eq_self, Nat.reduceSub]

theorem vbcast (d : BitVec 6) (a : BitVec 6) : Statement (.vbcast d a) := by
  refine of_code (e := 2) (o := 22) (x := d ++ a ++ 0#6) (by decide) (fun _ _ => rfl) ?_
  change decodeV 22 _ = _
  simp only [decodeV]
  rw [if_pos]
  rotate_left
  · simp (disch := decide) only [Word32.field_high, Word32.field_low, BitVec.extractLsb'_eq_self, Nat.reduceSub]
    try rfl
  simp (disch := decide) only [Word32.field_high, Word32.field_low, BitVec.extractLsb'_eq_self, Nat.reduceSub]

theorem vext (d : BitVec 6) (a : BitVec 6) (b : BitVec 6) : Statement (.vext d a b) := by
  refine of_code (e := 2) (o := 23) (x := d ++ a ++ b) (by decide) (fun _ _ => rfl) ?_
  change decodeV 23 _ = _
  simp only [decodeV]
  simp (disch := decide) only [Word32.field_high, Word32.field_low, BitVec.extractLsb'_eq_self, Nat.reduceSub]

theorem vins (d : BitVec 6) (a : BitVec 6) (b : BitVec 6) : Statement (.vins d a b) := by
  refine of_code (e := 2) (o := 24) (x := d ++ a ++ b) (by decide) (fun _ _ => rfl) ?_
  change decodeV 24 _ = _
  simp only [decodeV]
  simp (disch := decide) only [Word32.field_high, Word32.field_low, BitVec.extractLsb'_eq_self, Nat.reduceSub]

theorem vslide (d : BitVec 6) (a : BitVec 6) (b : BitVec 6) : Statement (.vslide d a b) := by
  refine of_code (e := 2) (o := 25) (x := d ++ a ++ b) (by decide) (fun _ _ => rfl) ?_
  change decodeV 25 _ = _
  simp only [decodeV]
  simp (disch := decide) only [Word32.field_high, Word32.field_low, BitVec.extractLsb'_eq_self, Nat.reduceSub]

theorem vslidei (d : BitVec 6) (a : BitVec 6) (r : BitVec 1) (z : BitVec 1) (k : BitVec 4) : Statement (.vslidei d a r z k) := by
  refine of_code (e := 2) (o := 26) (x := d ++ a ++ r ++ z ++ k) (by decide) (fun _ _ => rfl) ?_
  change decodeV 26 _ = _
  simp only [decodeV]
  simp (disch := decide) only [Word32.field_high, Word32.field_low, BitVec.extractLsb'_eq_self, Nat.reduceSub]

theorem vperm (d : BitVec 6) (a : BitVec 6) (b : BitVec 6) : Statement (.vperm d a b) := by
  refine of_code (e := 2) (o := 27) (x := d ++ a ++ b) (by decide) (fun _ _ => rfl) ?_
  change decodeV 27 _ = _
  simp only [decodeV]
  simp (disch := decide) only [Word32.field_high, Word32.field_low, BitVec.extractLsb'_eq_self, Nat.reduceSub]

theorem viota (d : BitVec 6) (a : BitVec 6) : Statement (.viota d a) := by
  refine of_code (e := 2) (o := 28) (x := d ++ a ++ 0#6) (by decide) (fun _ _ => rfl) ?_
  change decodeV 28 _ = _
  simp only [decodeV]
  rw [if_pos]
  rotate_left
  · simp (disch := decide) only [Word32.field_high, Word32.field_low, BitVec.extractLsb'_eq_self, Nat.reduceSub]
    try rfl
  simp (disch := decide) only [Word32.field_high, Word32.field_low, BitVec.extractLsb'_eq_self, Nat.reduceSub]

theorem vred (d : BitVec 6) (a : BitVec 6) (f : BitVec 2) : Statement (.vred d a f) := by
  refine of_code (e := 2) (o := 29) (x := d ++ a ++ f ++ 0#4) (by decide) (fun _ _ => rfl) ?_
  change decodeV 29 _ = _
  simp only [decodeV]
  rw [if_pos]
  rotate_left
  · simp (disch := decide) only [Word32.field_high, Word32.field_low, BitVec.extractLsb'_eq_self, Nat.reduceSub]
    try rfl
  simp (disch := decide) only [Word32.field_high, Word32.field_low, BitVec.extractLsb'_eq_self, Nat.reduceSub]

theorem vmac2 (d : BitVec 6) (a : BitVec 6) (b : BitVec 6) : Statement (.vmac2 d a b) := by
  refine of_code (e := 2) (o := 30) (x := d ++ a ++ b) (by decide) (fun _ _ => rfl) ?_
  change decodeV 30 _ = _
  simp only [decodeV]
  simp (disch := decide) only [Word32.field_high, Word32.field_low, BitVec.extractLsb'_eq_self, Nat.reduceSub]

theorem vdot4 (d : BitVec 6) (a : BitVec 6) (b : BitVec 6) : Statement (.vdot4 d a b) := by
  refine of_code (e := 2) (o := 31) (x := d ++ a ++ b) (by decide) (fun _ _ => rfl) ?_
  change decodeV 31 _ = _
  simp only [decodeV]
  simp (disch := decide) only [Word32.field_high, Word32.field_low, BitVec.extractLsb'_eq_self, Nat.reduceSub]

theorem vcvt (d : BitVec 6) (a : BitVec 6) (t : BitVec 4) (h : BitVec 2) : Statement (.vcvt d a t h) := by
  refine of_code (e := 2) (o := 32) (x := d ++ a ++ t ++ h) (by decide) (fun _ _ => rfl) ?_
  change decodeV 32 _ = _
  simp only [decodeV]
  simp (disch := decide) only [Word32.field_high, Word32.field_low, BitVec.extractLsb'_eq_self, Nat.reduceSub]

theorem vcvts (d : BitVec 6) (a : BitVec 6) (h : BitVec 2) : Statement (.vcvts d a h) := by
  refine of_code (e := 2) (o := 33) (x := d ++ a ++ 0#4 ++ h) (by decide) (fun _ _ => rfl) ?_
  change decodeV 33 _ = _
  simp only [decodeV]
  rw [if_pos]
  rotate_left
  · simp (disch := decide) only [Word32.field_high, Word32.field_low, BitVec.extractLsb'_eq_self, Nat.reduceSub]
    try rfl
  simp (disch := decide) only [Word32.field_high, Word32.field_low, BitVec.extractLsb'_eq_self, Nat.reduceSub]

theorem vtype (k : BitVec 5) (t : BitVec 4) : Statement (.vtype k t) := by
  refine of_code (e := 2) (o := 34) (x := 0#1 ++ k ++ t ++ 0#8) (by decide) (fun _ _ => rfl) ?_
  change decodeV 34 _ = _
  simp only [decodeV]
  rw [if_pos]
  rotate_left
  · refine ⟨?_, ?_⟩ <;> (simp (disch := decide) only [Word32.field_high, Word32.field_low, BitVec.extractLsb'_eq_self, Nat.reduceSub]; try rfl)
  simp (disch := decide) only [Word32.field_high, Word32.field_low, BitVec.extractLsb'_eq_self, Nat.reduceSub]

theorem vwin (s : BitVec 2) (v : BitVec 5) : Statement (.vwin s v) := by
  refine of_code (e := 2) (o := 35) (x := s ++ 0#11 ++ v) (by decide) (fun _ _ => rfl) ?_
  change decodeV 35 _ = _
  simp only [decodeV]
  rw [if_pos]
  rotate_left
  · simp (disch := decide) only [Word32.field_high, Word32.field_low, BitVec.extractLsb'_eq_self, Nat.reduceSub]
    try rfl
  simp (disch := decide) only [Word32.field_high, Word32.field_low, BitVec.extractLsb'_eq_self, Nat.reduceSub]

theorem fexp2 (d : BitVec 6) (a : BitVec 6) : Statement (.fexp2 d a) := by
  refine of_code (e := 5) (o := 1) (x := d ++ a ++ 0#6) (by decide) (fun _ _ => rfl) ?_
  change decodeF 1 _ = _
  simp only [decodeF]
  rw [if_pos]
  rotate_left
  · simp (disch := decide) only [Word32.field_high, Word32.field_low, BitVec.extractLsb'_eq_self, Nat.reduceSub]
    try rfl
  simp (disch := decide) only [Word32.field_high, Word32.field_low, BitVec.extractLsb'_eq_self, Nat.reduceSub]

theorem flog2 (d : BitVec 6) (a : BitVec 6) : Statement (.flog2 d a) := by
  refine of_code (e := 5) (o := 2) (x := d ++ a ++ 0#6) (by decide) (fun _ _ => rfl) ?_
  change decodeF 2 _ = _
  simp only [decodeF]
  rw [if_pos]
  rotate_left
  · simp (disch := decide) only [Word32.field_high, Word32.field_low, BitVec.extractLsb'_eq_self, Nat.reduceSub]
    try rfl
  simp (disch := decide) only [Word32.field_high, Word32.field_low, BitVec.extractLsb'_eq_self, Nat.reduceSub]

theorem frcp (d : BitVec 6) (a : BitVec 6) : Statement (.frcp d a) := by
  refine of_code (e := 5) (o := 3) (x := d ++ a ++ 0#6) (by decide) (fun _ _ => rfl) ?_
  change decodeF 3 _ = _
  simp only [decodeF]
  rw [if_pos]
  rotate_left
  · simp (disch := decide) only [Word32.field_high, Word32.field_low, BitVec.extractLsb'_eq_self, Nat.reduceSub]
    try rfl
  simp (disch := decide) only [Word32.field_high, Word32.field_low, BitVec.extractLsb'_eq_self, Nat.reduceSub]

theorem frsq (d : BitVec 6) (a : BitVec 6) : Statement (.frsq d a) := by
  refine of_code (e := 5) (o := 4) (x := d ++ a ++ 0#6) (by decide) (fun _ _ => rfl) ?_
  change decodeF 4 _ = _
  simp only [decodeF]
  rw [if_pos]
  rotate_left
  · simp (disch := decide) only [Word32.field_high, Word32.field_low, BitVec.extractLsb'_eq_self, Nat.reduceSub]
    try rfl
  simp (disch := decide) only [Word32.field_high, Word32.field_low, BitVec.extractLsb'_eq_self, Nat.reduceSub]

theorem fsqrt (d : BitVec 6) (a : BitVec 6) : Statement (.fsqrt d a) := by
  refine of_code (e := 5) (o := 5) (x := d ++ a ++ 0#6) (by decide) (fun _ _ => rfl) ?_
  change decodeF 5 _ = _
  simp only [decodeF]
  rw [if_pos]
  rotate_left
  · simp (disch := decide) only [Word32.field_high, Word32.field_low, BitVec.extractLsb'_eq_self, Nat.reduceSub]
    try rfl
  simp (disch := decide) only [Word32.field_high, Word32.field_low, BitVec.extractLsb'_eq_self, Nat.reduceSub]

theorem ftanh (d : BitVec 6) (a : BitVec 6) : Statement (.ftanh d a) := by
  refine of_code (e := 5) (o := 6) (x := d ++ a ++ 0#6) (by decide) (fun _ _ => rfl) ?_
  change decodeF 6 _ = _
  simp only [decodeF]
  rw [if_pos]
  rotate_left
  · simp (disch := decide) only [Word32.field_high, Word32.field_low, BitVec.extractLsb'_eq_self, Nat.reduceSub]
    try rfl
  simp (disch := decide) only [Word32.field_high, Word32.field_low, BitVec.extractLsb'_eq_self, Nat.reduceSub]

theorem fsigm (d : BitVec 6) (a : BitVec 6) : Statement (.fsigm d a) := by
  refine of_code (e := 5) (o := 7) (x := d ++ a ++ 0#6) (by decide) (fun _ _ => rfl) ?_
  change decodeF 7 _ = _
  simp only [decodeF]
  rw [if_pos]
  rotate_left
  · simp (disch := decide) only [Word32.field_high, Word32.field_low, BitVec.extractLsb'_eq_self, Nat.reduceSub]
    try rfl
  simp (disch := decide) only [Word32.field_high, Word32.field_low, BitVec.extractLsb'_eq_self, Nat.reduceSub]

theorem ferf (d : BitVec 6) (a : BitVec 6) : Statement (.ferf d a) := by
  refine of_code (e := 5) (o := 8) (x := d ++ a ++ 0#6) (by decide) (fun _ _ => rfl) ?_
  change decodeF 8 _ = _
  simp only [decodeF]
  rw [if_pos]
  rotate_left
  · simp (disch := decide) only [Word32.field_high, Word32.field_low, BitVec.extractLsb'_eq_self, Nat.reduceSub]
    try rfl
  simp (disch := decide) only [Word32.field_high, Word32.field_low, BitVec.extractLsb'_eq_self, Nat.reduceSub]

theorem rng (d : BitVec 6) : Statement (.rng d) := by
  refine of_code (e := 5) (o := 9) (x := d ++ 0#12) (by decide) (fun _ _ => rfl) ?_
  change decodeF 9 _ = _
  simp only [decodeF]
  rw [if_pos]
  rotate_left
  · simp (disch := decide) only [Word32.field_high, Word32.field_low, BitVec.extractLsb'_eq_self, Nat.reduceSub]
    try rfl
  simp (disch := decide) only [Word32.field_high, Word32.field_low, BitVec.extractLsb'_eq_self, Nat.reduceSub]

theorem vpart (d : BitVec 6) (a : BitVec 6) (b : BitVec 6) : Statement (.vpart d a b) := by
  refine of_code (e := 5) (o := 10) (x := d ++ a ++ b) (by decide) (fun _ _ => rfl) ?_
  change decodeF 10 _ = _
  simp only [decodeF]
  simp (disch := decide) only [Word32.field_high, Word32.field_low, BitVec.extractLsb'_eq_self, Nat.reduceSub]

theorem vtopk (d : BitVec 6) (a : BitVec 6) (k : BitVec 3) (s : BitVec 3) : Statement (.vtopk d a k s) := by
  refine of_code (e := 5) (o := 11) (x := d ++ a ++ k ++ s) (by decide) (fun _ _ => rfl) ?_
  change decodeF 11 _ = _
  simp only [decodeF]
  simp (disch := decide) only [Word32.field_high, Word32.field_low, BitVec.extractLsb'_eq_self, Nat.reduceSub]

theorem mxq (d : BitVec 6) (a : BitVec 6) (h : BitVec 2) : Statement (.mxq d a h) := by
  refine of_code (e := 5) (o := 12) (x := d ++ a ++ 0#4 ++ h) (by decide) (fun _ _ => rfl) ?_
  change decodeF 12 _ = _
  simp only [decodeF]
  rw [if_pos]
  rotate_left
  · simp (disch := decide) only [Word32.field_high, Word32.field_low, BitVec.extractLsb'_eq_self, Nat.reduceSub]
    try rfl
  simp (disch := decide) only [Word32.field_high, Word32.field_low, BitVec.extractLsb'_eq_self, Nat.reduceSub]

theorem mxd (d : BitVec 6) (a : BitVec 6) (h : BitVec 2) : Statement (.mxd d a h) := by
  refine of_code (e := 5) (o := 13) (x := d ++ a ++ 0#4 ++ h) (by decide) (fun _ _ => rfl) ?_
  change decodeF 13 _ = _
  simp only [decodeF]
  rw [if_pos]
  rotate_left
  · simp (disch := decide) only [Word32.field_high, Word32.field_low, BitVec.extractLsb'_eq_self, Nat.reduceSub]
    try rfl
  simp (disch := decide) only [Word32.field_high, Word32.field_low, BitVec.extractLsb'_eq_self, Nat.reduceSub]

theorem fscale (d : BitVec 6) (a : BitVec 6) (b : BitVec 6) : Statement (.fscale d a b) := by
  refine of_code (e := 5) (o := 14) (x := d ++ a ++ b) (by decide) (fun _ _ => rfl) ?_
  change decodeF 14 _ = _
  simp only [decodeF]
  simp (disch := decide) only [Word32.field_high, Word32.field_low, BitVec.extractLsb'_eq_self, Nat.reduceSub]

theorem fclass (d : BitVec 6) (a : BitVec 6) : Statement (.fclass d a) := by
  refine of_code (e := 5) (o := 15) (x := d ++ a ++ 0#6) (by decide) (fun _ _ => rfl) ?_
  change decodeF 15 _ = _
  simp only [decodeF]
  rw [if_pos]
  rotate_left
  · simp (disch := decide) only [Word32.field_high, Word32.field_low, BitVec.extractLsb'_eq_self, Nat.reduceSub]
    try rfl
  simp (disch := decide) only [Word32.field_high, Word32.field_low, BitVec.extractLsb'_eq_self, Nat.reduceSub]

theorem fminmaxn (d : BitVec 6) (a : BitVec 6) (b : BitVec 6) : Statement (.fminmaxn d a b) := by
  refine of_code (e := 5) (o := 16) (x := d ++ a ++ b) (by decide) (fun _ _ => rfl) ?_
  change decodeF 16 _ = _
  simp only [decodeF]
  simp (disch := decide) only [Word32.field_high, Word32.field_low, BitVec.extractLsb'_eq_self, Nat.reduceSub]

theorem mcfgT (a : BitVec 4) (b : BitVec 4) : Statement (.mcfgT a b) := by
  refine of_code (e := 3) (o := 1) (x := 0#6 ++ a ++ b ++ 0#4) (by decide) (fun _ _ => rfl) ?_
  change decodeM 1 _ = _
  simp only [decodeM]
  rw [if_pos]
  rotate_left
  · refine ⟨?_, ?_⟩ <;> (simp (disch := decide) only [Word32.field_high, Word32.field_low, BitVec.extractLsb'_eq_self, Nat.reduceSub]; try rfl)
  simp (disch := decide) only [Word32.field_high, Word32.field_low, BitVec.extractLsb'_eq_self, Nat.reduceSub]

theorem mcfgW (a : BitVec 6) : Statement (.mcfgW a) := by
  refine of_code (e := 3) (o := 1) (x := 16#6 ++ a ++ 0#6) (by decide) (fun _ _ => rfl) ?_
  change decodeM 1 _ = _
  simp only [decodeM]
  rw [if_neg]
  rotate_left
  · simp (disch := decide) only [Word32.field_high, Word32.field_low, BitVec.extractLsb'_eq_self, Nat.reduceSub]
    decide
  rw [if_pos]
  rotate_left
  · refine ⟨?_, ?_⟩ <;> (simp (disch := decide) only [Word32.field_high, Word32.field_low, BitVec.extractLsb'_eq_self, Nat.reduceSub]; try rfl)
  simp (disch := decide) only [Word32.field_high, Word32.field_low, BitVec.extractLsb'_eq_self, Nat.reduceSub]

theorem mlda (n : BitVec 1) (a : BitVec 6) (b : BitVec 6) : Statement (.mlda n a b) := by
  refine of_code (e := 3) (o := 2) (x := n ++ 0#5 ++ a ++ b) (by decide) (fun _ _ => rfl) ?_
  change decodeM 2 _ = _
  simp only [decodeM]
  rw [if_pos]
  rotate_left
  · simp (disch := decide) only [Word32.field_high, Word32.field_low, BitVec.extractLsb'_eq_self, Nat.reduceSub]
    try rfl
  simp (disch := decide) only [Word32.field_high, Word32.field_low, BitVec.extractLsb'_eq_self, Nat.reduceSub]

theorem mgath (n : BitVec 1) (a : BitVec 6) (b : BitVec 6) : Statement (.mgath n a b) := by
  refine of_code (e := 3) (o := 3) (x := n ++ 0#5 ++ a ++ b) (by decide) (fun _ _ => rfl) ?_
  change decodeM 3 _ = _
  simp only [decodeM]
  rw [if_pos]
  rotate_left
  · simp (disch := decide) only [Word32.field_high, Word32.field_low, BitVec.extractLsb'_eq_self, Nat.reduceSub]
    try rfl
  simp (disch := decide) only [Word32.field_high, Word32.field_low, BitVec.extractLsb'_eq_self, Nat.reduceSub]

theorem mma (k : BitVec 5) (n : BitVec 1) : Statement (.mma k n) := by
  refine of_code (e := 3) (o := 4) (x := 0#1 ++ k ++ n ++ 0#11) (by decide) (fun _ _ => rfl) ?_
  change decodeM 4 _ = _
  simp only [decodeM]
  rw [if_pos]
  rotate_left
  · refine ⟨?_, ?_⟩ <;> (simp (disch := decide) only [Word32.field_high, Word32.field_low, BitVec.extractLsb'_eq_self, Nat.reduceSub]; try rfl)
  simp (disch := decide) only [Word32.field_high, Word32.field_low, BitVec.extractLsb'_eq_self, Nat.reduceSub]

theorem mmaz (k : BitVec 5) (n : BitVec 1) : Statement (.mmaz k n) := by
  refine of_code (e := 3) (o := 5) (x := 0#1 ++ k ++ n ++ 0#11) (by decide) (fun _ _ => rfl) ?_
  change decodeM 5 _ = _
  simp only [decodeM]
  rw [if_pos]
  rotate_left
  · refine ⟨?_, ?_⟩ <;> (simp (disch := decide) only [Word32.field_high, Word32.field_low, BitVec.extractLsb'_eq_self, Nat.reduceSub]; try rfl)
  simp (disch := decide) only [Word32.field_high, Word32.field_low, BitVec.extractLsb'_eq_self, Nat.reduceSub]

theorem mmask (r : BitVec 6) (c : BitVec 7) : Statement (.mmask r c) := by
  refine of_code (e := 3) (o := 6) (x := r ++ c ++ 0#5) (by decide) (fun _ _ => rfl) ?_
  change decodeM 6 _ = _
  simp only [decodeM]
  rw [if_pos]
  rotate_left
  · simp (disch := decide) only [Word32.field_high, Word32.field_low, BitVec.extractLsb'_eq_self, Nat.reduceSub]
    try rfl
  simp (disch := decide) only [Word32.field_high, Word32.field_low, BitVec.extractLsb'_eq_self, Nat.reduceSub]

theorem mdrain (k : BitVec 5) (n : BitVec 4) : Statement (.mdrain k n) := by
  refine of_code (e := 3) (o := 7) (x := 0#1 ++ k ++ n ++ 0#8) (by decide) (fun _ _ => rfl) ?_
  change decodeM 7 _ = _
  simp only [decodeM]
  rw [if_pos]
  rotate_left
  · refine ⟨?_, ?_⟩ <;> (simp (disch := decide) only [Word32.field_high, Word32.field_low, BitVec.extractLsb'_eq_self, Nat.reduceSub]; try rfl)
  simp (disch := decide) only [Word32.field_high, Word32.field_low, BitVec.extractLsb'_eq_self, Nat.reduceSub]

theorem mzero (k : BitVec 5) (t : BitVec 4) : Statement (.mzero k t) := by
  refine of_code (e := 3) (o := 8) (x := 0#1 ++ k ++ t ++ 0#8) (by decide) (fun _ _ => rfl) ?_
  change decodeM 8 _ = _
  simp only [decodeM]
  rw [if_pos]
  rotate_left
  · refine ⟨?_, ?_⟩ <;> (simp (disch := decide) only [Word32.field_high, Word32.field_low, BitVec.extractLsb'_eq_self, Nat.reduceSub]; try rfl)
  simp (disch := decide) only [Word32.field_high, Word32.field_low, BitVec.extractLsb'_eq_self, Nat.reduceSub]

theorem mspill (k : BitVec 5) (a : BitVec 6) : Statement (.mspill k a) := by
  refine of_code (e := 3) (o := 9) (x := 0#1 ++ k ++ a ++ 0#6) (by decide) (fun _ _ => rfl) ?_
  change decodeM 9 _ = _
  simp only [decodeM]
  rw [if_pos]
  rotate_left
  · refine ⟨?_, ?_⟩ <;> (simp (disch := decide) only [Word32.field_high, Word32.field_low, BitVec.extractLsb'_eq_self, Nat.reduceSub]; try rfl)
  simp (disch := decide) only [Word32.field_high, Word32.field_low, BitVec.extractLsb'_eq_self, Nat.reduceSub]

theorem mfill (k : BitVec 5) (a : BitVec 6) (t : BitVec 4) : Statement (.mfill k a t) := by
  refine of_code (e := 3) (o := 10) (x := 0#1 ++ k ++ a ++ t ++ 0#2) (by decide) (fun _ _ => rfl) ?_
  change decodeM 10 _ = _
  simp only [decodeM]
  rw [if_pos]
  rotate_left
  · refine ⟨?_, ?_⟩ <;> (simp (disch := decide) only [Word32.field_high, Word32.field_low, BitVec.extractLsb'_eq_self, Nat.reduceSub]; try rfl)
  simp (disch := decide) only [Word32.field_high, Word32.field_low, BitVec.extractLsb'_eq_self, Nat.reduceSub]

theorem mwait (k : BitVec 5) (x : BitVec 1) : Statement (.mwait k x) := by
  refine of_code (e := 3) (o := 11) (x := 0#1 ++ k ++ 0#11 ++ x) (by decide) (fun _ _ => rfl) ?_
  change decodeM 11 _ = _
  simp only [decodeM]
  rw [if_pos]
  rotate_left
  · refine ⟨?_, ?_⟩ <;> (simp (disch := decide) only [Word32.field_high, Word32.field_low, BitVec.extractLsb'_eq_self, Nat.reduceSub]; try rfl)
  simp (disch := decide) only [Word32.field_high, Word32.field_low, BitVec.extractLsb'_eq_self, Nat.reduceSub]

theorem mstat (d : BitVec 6) : Statement (.mstat d) := by
  refine of_code (e := 3) (o := 12) (x := d ++ 0#12) (by decide) (fun _ _ => rfl) ?_
  change decodeM 12 _ = _
  simp only [decodeM]
  rw [if_pos]
  rotate_left
  · simp (disch := decide) only [Word32.field_high, Word32.field_low, BitVec.extractLsb'_eq_self, Nat.reduceSub]
    try rfl
  simp (disch := decide) only [Word32.field_high, Word32.field_low, BitVec.extractLsb'_eq_self, Nat.reduceSub]

theorem sload (n : BitVec 2) (a : BitVec 6) : Statement (.sload n a) := by
  refine of_code (e := 4) (o := 1) (x := n ++ 0#4 ++ a ++ 0#6) (by decide) (fun _ _ => rfl) ?_
  change decodeX 1 _ = _
  simp only [decodeX]
  rw [if_pos]
  rotate_left
  · refine ⟨?_, ?_⟩ <;> (simp (disch := decide) only [Word32.field_high, Word32.field_low, BitVec.extractLsb'_eq_self, Nat.reduceSub]; try rfl)
  simp (disch := decide) only [Word32.field_high, Word32.field_low, BitVec.extractLsb'_eq_self, Nat.reduceSub]

theorem sgo (n : BitVec 2) : Statement (.sgo n) := by
  refine of_code (e := 4) (o := 2) (x := n ++ 0#16) (by decide) (fun _ _ => rfl) ?_
  change decodeX 2 _ = _
  simp only [decodeX]
  rw [if_pos]
  rotate_left
  · simp (disch := decide) only [Word32.field_high, Word32.field_low, BitVec.extractLsb'_eq_self, Nat.reduceSub]
    try rfl
  simp (disch := decide) only [Word32.field_high, Word32.field_low, BitVec.extractLsb'_eq_self, Nat.reduceSub]

theorem sstop (n : BitVec 2) : Statement (.sstop n) := by
  refine of_code (e := 4) (o := 3) (x := n ++ 0#16) (by decide) (fun _ _ => rfl) ?_
  change decodeX 3 _ = _
  simp only [decodeX]
  rw [if_pos]
  rotate_left
  · simp (disch := decide) only [Word32.field_high, Word32.field_low, BitVec.extractLsb'_eq_self, Nat.reduceSub]
    try rfl
  simp (disch := decide) only [Word32.field_high, Word32.field_low, BitVec.extractLsb'_eq_self, Nat.reduceSub]

theorem swait (n : BitVec 2) : Statement (.swait n) := by
  refine of_code (e := 4) (o := 4) (x := n ++ 0#16) (by decide) (fun _ _ => rfl) ?_
  change decodeX 4 _ = _
  simp only [decodeX]
  rw [if_pos]
  rotate_left
  · simp (disch := decide) only [Word32.field_high, Word32.field_low, BitVec.extractLsb'_eq_self, Nat.reduceSub]
    try rfl
  simp (disch := decide) only [Word32.field_high, Word32.field_low, BitVec.extractLsb'_eq_self, Nat.reduceSub]

theorem qbind (n : BitVec 4) (p : BitVec 4) (c : BitVec 4) (o : BitVec 2) : Statement (.qbind n p c o) := by
  refine of_code (e := 4) (o := 5) (x := n ++ p ++ c ++ o ++ 0#4) (by decide) (fun _ _ => rfl) ?_
  change decodeX 5 _ = _
  simp only [decodeX]
  rw [if_pos]
  rotate_left
  · simp (disch := decide) only [Word32.field_high, Word32.field_low, BitVec.extractLsb'_eq_self, Nat.reduceSub]
    try rfl
  simp (disch := decide) only [Word32.field_high, Word32.field_low, BitVec.extractLsb'_eq_self, Nat.reduceSub]

theorem qflush (n : BitVec 4) : Statement (.qflush n) := by
  refine of_code (e := 4) (o := 6) (x := n ++ 0#14) (by decide) (fun _ _ => rfl) ?_
  change decodeX 6 _ = _
  simp only [decodeX]
  rw [if_pos]
  rotate_left
  · simp (disch := decide) only [Word32.field_high, Word32.field_low, BitVec.extractLsb'_eq_self, Nat.reduceSub]
    try rfl
  simp (disch := decide) only [Word32.field_high, Word32.field_low, BitVec.extractLsb'_eq_self, Nat.reduceSub]

theorem qstat (d : BitVec 6) (n : BitVec 4) : Statement (.qstat d n) := by
  refine of_code (e := 4) (o := 7) (x := d ++ n ++ 0#8) (by decide) (fun _ _ => rfl) ?_
  change decodeX 7 _ = _
  simp only [decodeX]
  rw [if_pos]
  rotate_left
  · simp (disch := decide) only [Word32.field_high, Word32.field_low, BitVec.extractLsb'_eq_self, Nat.reduceSub]
    try rfl
  simp (disch := decide) only [Word32.field_high, Word32.field_low, BitVec.extractLsb'_eq_self, Nat.reduceSub]

theorem cpy (d : BitVec 6) (a : BitVec 6) (c : BitVec 6) : Statement (.cpy d a c) := by
  refine of_code (e := 4) (o := 8) (x := d ++ a ++ c) (by decide) (fun _ _ => rfl) ?_
  change decodeX 8 _ = _
  simp only [decodeX]
  simp (disch := decide) only [Word32.field_high, Word32.field_low, BitVec.extractLsb'_eq_self, Nat.reduceSub]

theorem cpyp (d : BitVec 6) (a : BitVec 6) (c : BitVec 6) : Statement (.cpyp d a c) := by
  refine of_code (e := 4) (o := 9) (x := d ++ a ++ c) (by decide) (fun _ _ => rfl) ?_
  change decodeX 9 _ = _
  simp only [decodeX]
  simp (disch := decide) only [Word32.field_high, Word32.field_low, BitVec.extractLsb'_eq_self, Nat.reduceSub]

theorem cpym (d : BitVec 6) (a : BitVec 6) (c : BitVec 6) : Statement (.cpym d a c) := by
  refine of_code (e := 4) (o := 10) (x := d ++ a ++ c) (by decide) (fun _ _ => rfl) ?_
  change decodeX 10 _ = _
  simp only [decodeX]
  simp (disch := decide) only [Word32.field_high, Word32.field_low, BitVec.extractLsb'_eq_self, Nat.reduceSub]

theorem cwait (n : BitVec 1) (a : BitVec 6) (x : BitVec 1) : Statement (.cwait n a x) := by
  refine of_code (e := 4) (o := 11) (x := n ++ 0#5 ++ a ++ 0#5 ++ x) (by decide) (fun _ _ => rfl) ?_
  change decodeX 11 _ = _
  simp only [decodeX]
  rw [if_pos]
  rotate_left
  · refine ⟨?_, ?_⟩ <;> (simp (disch := decide) only [Word32.field_high, Word32.field_low, BitVec.extractLsb'_eq_self, Nat.reduceSub]; try rfl)
  simp (disch := decide) only [Word32.field_high, Word32.field_low, BitVec.extractLsb'_eq_self, Nat.reduceSub]

theorem cwpos (d : BitVec 6) (n : BitVec 1) : Statement (.cwpos d n) := by
  refine of_code (e := 4) (o := 12) (x := d ++ n ++ 0#11) (by decide) (fun _ _ => rfl) ?_
  change decodeX 12 _ = _
  simp only [decodeX]
  rw [if_pos]
  rotate_left
  · simp (disch := decide) only [Word32.field_high, Word32.field_low, BitVec.extractLsb'_eq_self, Nat.reduceSub]
    try rfl
  simp (disch := decide) only [Word32.field_high, Word32.field_low, BitVec.extractLsb'_eq_self, Nat.reduceSub]

theorem seamo (d : BitVec 6) (a : BitVec 6) : Statement (.seamo d a) := by
  refine of_code (e := 4) (o := 13) (x := d ++ a ++ 0#6) (by decide) (fun _ _ => rfl) ?_
  change decodeX 13 _ = _
  simp only [decodeX]
  rw [if_pos]
  rotate_left
  · simp (disch := decide) only [Word32.field_high, Word32.field_low, BitVec.extractLsb'_eq_self, Nat.reduceSub]
    try rfl
  simp (disch := decide) only [Word32.field_high, Word32.field_low, BitVec.extractLsb'_eq_self, Nat.reduceSub]

theorem seamg (h : BitVec 6) (t : BitVec 6) (a : BitVec 6) : Statement (.seamg h t a) := by
  refine of_code (e := 4) (o := 14) (x := h ++ t ++ a) (by decide) (fun _ _ => rfl) ?_
  change decodeX 14 _ = _
  simp only [decodeX]
  simp (disch := decide) only [Word32.field_high, Word32.field_low, BitVec.extractLsb'_eq_self, Nat.reduceSub]

theorem seamp (h : BitVec 6) (t : BitVec 6) (a : BitVec 6) : Statement (.seamp h t a) := by
  refine of_code (e := 4) (o := 15) (x := h ++ t ++ a) (by decide) (fun _ _ => rfl) ?_
  change decodeX 15 _ = _
  simp only [decodeX]
  simp (disch := decide) only [Word32.field_high, Word32.field_low, BitVec.extractLsb'_eq_self, Nat.reduceSub]

theorem seamcClose (d : BitVec 6) (h : BitVec 6) : Statement (.seamcClose d h) := by
  refine of_code (e := 4) (o := 16) (x := d ++ h ++ 0#6) (by decide) (fun _ _ => rfl) ?_
  change decodeX 16 _ = _
  simp only [decodeX]
  rw [if_pos]
  rotate_left
  · simp (disch := decide) only [Word32.field_high, Word32.field_low, BitVec.extractLsb'_eq_self, Nat.reduceSub]
    try rfl
  simp (disch := decide) only [Word32.field_high, Word32.field_low, BitVec.extractLsb'_eq_self, Nat.reduceSub]

theorem seamcSettle (t : BitVec 6) (h : BitVec 6) : Statement (.seamcSettle t h) := by
  refine of_code (e := 4) (o := 16) (x := t ++ h ++ 1#6) (by decide) (fun _ _ => rfl) ?_
  change decodeX 16 _ = _
  simp only [decodeX]
  rw [if_neg]
  rotate_left
  · simp (disch := decide) only [Word32.field_high, Word32.field_low, BitVec.extractLsb'_eq_self, Nat.reduceSub]
    decide
  rw [if_pos]
  rotate_left
  · simp (disch := decide) only [Word32.field_high, Word32.field_low, BitVec.extractLsb'_eq_self, Nat.reduceSub]
    try rfl
  simp (disch := decide) only [Word32.field_high, Word32.field_low, BitVec.extractLsb'_eq_self, Nat.reduceSub]

theorem seams (d : BitVec 6) (h : BitVec 6) (t : BitVec 6) : Statement (.seams d h t) := by
  refine of_code (e := 4) (o := 17) (x := d ++ h ++ t) (by decide) (fun _ _ => rfl) ?_
  change decodeX 17 _ = _
  simp only [decodeX]
  simp (disch := decide) only [Word32.field_high, Word32.field_low, BitVec.extractLsb'_eq_self, Nat.reduceSub]

theorem wpop (d : BitVec 6) (n : BitVec 2) (b : BitVec 1) : Statement (.wpop d n b) := by
  refine of_code (e := 4) (o := 18) (x := d ++ n ++ b ++ 0#9) (by decide) (fun _ _ => rfl) ?_
  change decodeX 18 _ = _
  simp only [decodeX]
  rw [if_pos]
  rotate_left
  · simp (disch := decide) only [Word32.field_high, Word32.field_low, BitVec.extractLsb'_eq_self, Nat.reduceSub]
    try rfl
  simp (disch := decide) only [Word32.field_high, Word32.field_low, BitVec.extractLsb'_eq_self, Nat.reduceSub]

theorem wpopQ (n : BitVec 2) (b : BitVec 1) (m : BitVec 4) : Statement (.wpopQ n b m) := by
  refine of_code (e := 4) (o := 18) (x := 0#6 ++ n ++ b ++ 1#1 ++ m ++ 0#4) (by decide) (fun _ _ => rfl) ?_
  change decodeX 18 _ = _
  simp only [decodeX]
  rw [if_neg]
  rotate_left
  · intro h
    have h8 := congrArg (fun v => v.getLsbD 8) h
    rw [BitVec.getLsbD_extractLsb', BitVec.getLsbD_append, BitVec.getLsbD_append, BitVec.getLsbD_append] at h8
    revert h8
    simp [BitVec.getLsbD_append]
  rw [if_pos]
  rotate_left
  · refine ⟨?_, ?_, ?_⟩ <;> (simp (disch := decide) only [Word32.field_high, Word32.field_low, BitVec.extractLsb'_eq_self, Nat.reduceSub]; try rfl)
  simp (disch := decide) only [Word32.field_high, Word32.field_low, BitVec.extractLsb'_eq_self, Nat.reduceSub]

theorem wpush (d : BitVec 6) (a : BitVec 6) (n : BitVec 2) (b : BitVec 1) : Statement (.wpush d a n b) := by
  refine of_code (e := 4) (o := 19) (x := d ++ a ++ n ++ b ++ 0#3) (by decide) (fun _ _ => rfl) ?_
  change decodeX 19 _ = _
  simp only [decodeX]
  rw [if_pos]
  rotate_left
  · simp (disch := decide) only [Word32.field_high, Word32.field_low, BitVec.extractLsb'_eq_self, Nat.reduceSub]
    try rfl
  simp (disch := decide) only [Word32.field_high, Word32.field_low, BitVec.extractLsb'_eq_self, Nat.reduceSub]

theorem wclose (n : BitVec 2) : Statement (.wclose n) := by
  refine of_code (e := 4) (o := 20) (x := 0#12 ++ n ++ 0#4) (by decide) (fun _ _ => rfl) ?_
  change decodeX 20 _ = _
  simp only [decodeX]
  rw [if_pos]
  rotate_left
  · refine ⟨?_, ?_⟩ <;> (simp (disch := decide) only [Word32.field_high, Word32.field_low, BitVec.extractLsb'_eq_self, Nat.reduceSub]; try rfl)
  simp (disch := decide) only [Word32.field_high, Word32.field_low, BitVec.extractLsb'_eq_self, Nat.reduceSub]

theorem coll (d : BitVec 6) (a : BitVec 6) : Statement (.coll d a) := by
  refine of_code (e := 4) (o := 21) (x := d ++ a ++ 0#6) (by decide) (fun _ _ => rfl) ?_
  change decodeX 21 _ = _
  simp only [decodeX]
  rw [if_pos]
  rotate_left
  · simp (disch := decide) only [Word32.field_high, Word32.field_low, BitVec.extractLsb'_eq_self, Nat.reduceSub]
    try rfl
  simp (disch := decide) only [Word32.field_high, Word32.field_low, BitVec.extractLsb'_eq_self, Nat.reduceSub]

theorem collw (d : BitVec 6) (a : BitVec 6) (b : BitVec 1) : Statement (.collw d a b) := by
  refine of_code (e := 4) (o := 22) (x := d ++ a ++ 0#5 ++ b) (by decide) (fun _ _ => rfl) ?_
  change decodeX 22 _ = _
  simp only [decodeX]
  rw [if_pos]
  rotate_left
  · simp (disch := decide) only [Word32.field_high, Word32.field_low, BitVec.extractLsb'_eq_self, Nat.reduceSub]
    try rfl
  simp (disch := decide) only [Word32.field_high, Word32.field_low, BitVec.extractLsb'_eq_self, Nat.reduceSub]

theorem life (a : BitVec 6) (b : BitVec 6) (c : BitVec 2) (x : BitVec 1) : Statement (.life a b c x) := by
  refine of_code (e := 4) (o := 23) (x := a ++ b ++ c ++ x ++ 0#3) (by decide) (fun _ _ => rfl) ?_
  change decodeX 23 _ = _
  simp only [decodeX]
  rw [if_pos]
  rotate_left
  · simp (disch := decide) only [Word32.field_high, Word32.field_low, BitVec.extractLsb'_eq_self, Nat.reduceSub]
    try rfl
  simp (disch := decide) only [Word32.field_high, Word32.field_low, BitVec.extractLsb'_eq_self, Nat.reduceSub]

theorem refr (a : BitVec 6) (b : BitVec 6) : Statement (.refr a b) := by
  refine of_code (e := 4) (o := 24) (x := a ++ b ++ 0#6) (by decide) (fun _ _ => rfl) ?_
  change decodeX 24 _ = _
  simp only [decodeX]
  rw [if_pos]
  rotate_left
  · simp (disch := decide) only [Word32.field_high, Word32.field_low, BitVec.extractLsb'_eq_self, Nat.reduceSub]
    try rfl
  simp (disch := decide) only [Word32.field_high, Word32.field_low, BitVec.extractLsb'_eq_self, Nat.reduceSub]

theorem ageq (d : BitVec 6) (a : BitVec 6) : Statement (.ageq d a) := by
  refine of_code (e := 4) (o := 25) (x := d ++ a ++ 0#6) (by decide) (fun _ _ => rfl) ?_
  change decodeX 25 _ = _
  simp only [decodeX]
  rw [if_pos]
  rotate_left
  · simp (disch := decide) only [Word32.field_high, Word32.field_low, BitVec.extractLsb'_eq_self, Nat.reduceSub]
    try rfl
  simp (disch := decide) only [Word32.field_high, Word32.field_low, BitVec.extractLsb'_eq_self, Nat.reduceSub]

theorem dmaq (d : BitVec 6) (a : BitVec 6) (b : BitVec 6) : Statement (.dmaq d a b) := by
  refine of_code (e := 4) (o := 26) (x := d ++ a ++ b) (by decide) (fun _ _ => rfl) ?_
  change decodeX 26 _ = _
  simp only [decodeX]
  simp (disch := decide) only [Word32.field_high, Word32.field_low, BitVec.extractLsb'_eq_self, Nat.reduceSub]

theorem nop : Statement .nop := of_code (e := 6) (o := 0) (x := 0#18) (by decide) (fun _ _ => rfl) rfl

theorem bar (v : BitVec 2) : Statement (.bar v) := by
  refine of_code (e := 6) (o := 1) (x := 0#16 ++ v) (by decide) (fun _ _ => rfl) ?_
  change decodeS 1 _ = _
  simp only [decodeS]
  rw [if_pos]
  rotate_left
  · simp (disch := decide) only [Word32.field_high, Word32.field_low, BitVec.extractLsb'_eq_self, Nat.reduceSub]
    try rfl
  simp (disch := decide) only [Word32.field_high, Word32.field_low, BitVec.extractLsb'_eq_self, Nat.reduceSub]

theorem barq (d : BitVec 6) (v : BitVec 2) : Statement (.barq d v) := by
  refine of_code (e := 6) (o := 2) (x := d ++ 0#10 ++ v) (by decide) (fun _ _ => rfl) ?_
  change decodeS 2 _ = _
  simp only [decodeS]
  rw [if_pos]
  rotate_left
  · simp (disch := decide) only [Word32.field_high, Word32.field_low, BitVec.extractLsb'_eq_self, Nat.reduceSub]
    try rfl
  simp (disch := decide) only [Word32.field_high, Word32.field_low, BitVec.extractLsb'_eq_self, Nat.reduceSub]

theorem fence (c : BitVec 3) : Statement (.fence c) := by
  refine of_code (e := 6) (o := 3) (x := 0#15 ++ c) (by decide) (fun _ _ => rfl) ?_
  change decodeS 3 _ = _
  simp only [decodeS]
  rw [if_pos]
  rotate_left
  · simp (disch := decide) only [Word32.field_high, Word32.field_low, BitVec.extractLsb'_eq_self, Nat.reduceSub]
    try rfl
  simp (disch := decide) only [Word32.field_high, Word32.field_low, BitVec.extractLsb'_eq_self, Nat.reduceSub]

theorem chk (k : BitVec 2) (r : BitVec 6) (i : BitVec 10) : Statement (.chk k r i) := by
  refine of_code (e := 6) (o := 4) (x := k ++ r ++ i) (by decide) (fun _ _ => rfl) ?_
  change decodeS 4 _ = _
  simp only [decodeS]
  simp (disch := decide) only [Word32.field_high, Word32.field_low, BitVec.extractLsb'_eq_self, Nat.reduceSub]

theorem chkt (k : BitVec 2) (r : BitVec 6) : Statement (.chkt k r) := by
  refine of_code (e := 6) (o := 5) (x := k ++ r ++ 0#10) (by decide) (fun _ _ => rfl) ?_
  change decodeS 5 _ = _
  simp only [decodeS]
  rw [if_pos]
  rotate_left
  · simp (disch := decide) only [Word32.field_high, Word32.field_low, BitVec.extractLsb'_eq_self, Nat.reduceSub]
    try rfl
  simp (disch := decide) only [Word32.field_high, Word32.field_low, BitVec.extractLsb'_eq_self, Nat.reduceSub]

theorem pclr (k : BitVec 2) (r : BitVec 6) : Statement (.pclr k r) := by
  refine of_code (e := 6) (o := 6) (x := k ++ r ++ 0#10) (by decide) (fun _ _ => rfl) ?_
  change decodeS 6 _ = _
  simp only [decodeS]
  rw [if_pos]
  rotate_left
  · simp (disch := decide) only [Word32.field_high, Word32.field_low, BitVec.extractLsb'_eq_self, Nat.reduceSub]
    try rfl
  simp (disch := decide) only [Word32.field_high, Word32.field_low, BitVec.extractLsb'_eq_self, Nat.reduceSub]

theorem trap (n : BitVec 12) : Statement (.trap n) := by
  refine of_code (e := 6) (o := 7) (x := 0#6 ++ n) (by decide) (fun _ _ => rfl) ?_
  change decodeS 7 _ = _
  simp only [decodeS]
  rw [if_pos]
  rotate_left
  · simp (disch := decide) only [Word32.field_high, Word32.field_low, BitVec.extractLsb'_eq_self, Nat.reduceSub]
    try rfl
  simp (disch := decide) only [Word32.field_high, Word32.field_low, BitVec.extractLsb'_eq_self, Nat.reduceSub]

theorem tret : Statement .tret := of_code (e := 6) (o := 8) (x := 0#18) (by decide) (fun _ _ => rfl) rfl

theorem yield : Statement .yield := of_code (e := 6) (o := 9) (x := 0#18) (by decide) (fun _ _ => rfl) rfl

theorem swpt (k : BitVec 12) : Statement (.swpt k) := by
  refine of_code (e := 6) (o := 10) (x := 0#6 ++ k) (by decide) (fun _ _ => rfl) ?_
  change decodeS 10 _ = _
  simp only [decodeS]
  rw [if_pos]
  rotate_left
  · simp (disch := decide) only [Word32.field_high, Word32.field_low, BitVec.extractLsb'_eq_self, Nat.reduceSub]
    try rfl
  simp (disch := decide) only [Word32.field_high, Word32.field_low, BitVec.extractLsb'_eq_self, Nat.reduceSub]

theorem done : Statement .done := of_code (e := 6) (o := 11) (x := 0#18) (by decide) (fun _ _ => rfl) rfl

theorem waite (d : BitVec 6) (a : BitVec 6) (m : BitVec 6) : Statement (.waite d a m) := by
  refine of_code (e := 6) (o := 12) (x := d ++ a ++ m) (by decide) (fun _ _ => rfl) ?_
  change decodeS 12 _ = _
  simp only [decodeS]
  simp (disch := decide) only [Word32.field_high, Word32.field_low, BitVec.extractLsb'_eq_self, Nat.reduceSub]

theorem brk (n : BitVec 12) : Statement (.brk n) := by
  refine of_code (e := 6) (o := 13) (x := 0#6 ++ n) (by decide) (fun _ _ => rfl) ?_
  change decodeS 13 _ = _
  simp only [decodeS]
  rw [if_pos]
  rotate_left
  · simp (disch := decide) only [Word32.field_high, Word32.field_low, BitVec.extractLsb'_eq_self, Nat.reduceSub]
    try rfl
  simp (disch := decide) only [Word32.field_high, Word32.field_low, BitVec.extractLsb'_eq_self, Nat.reduceSub]

theorem gcond (a : BitVec 6) (b : BitVec 6) : Statement (.gcond a b) := by
  refine of_code (e := 6) (o := 14) (x := 0#6 ++ a ++ b) (by decide) (fun _ _ => rfl) ?_
  change decodeS 14 _ = _
  simp only [decodeS]
  rw [if_pos]
  rotate_left
  · simp (disch := decide) only [Word32.field_high, Word32.field_low, BitVec.extractLsb'_eq_self, Nat.reduceSub]
    try rfl
  simp (disch := decide) only [Word32.field_high, Word32.field_low, BitVec.extractLsb'_eq_self, Nat.reduceSub]

theorem ecall : Statement .ecall := of_code (e := 6) (o := 15) (x := 0#18) (by decide) (fun _ _ => rfl) rfl

theorem frz (d : BitVec 6) (a : BitVec 6) (y : BitVec 1) : Statement (.frz d a y) := by
  refine of_code (e := 6) (o := 16) (x := d ++ a ++ 0#5 ++ y) (by decide) (fun _ _ => rfl) ?_
  change decodeS 16 _ = _
  simp only [decodeS]
  rw [if_pos]
  rotate_left
  · simp (disch := decide) only [Word32.field_high, Word32.field_low, BitVec.extractLsb'_eq_self, Nat.reduceSub]
    try rfl
  simp (disch := decide) only [Word32.field_high, Word32.field_low, BitVec.extractLsb'_eq_self, Nat.reduceSub]

theorem thaw (d : BitVec 6) (a : BitVec 6) (b : BitVec 6) : Statement (.thaw d a b) := by
  refine of_code (e := 6) (o := 17) (x := d ++ a ++ b) (by decide) (fun _ _ => rfl) ?_
  change decodeS 17 _ = _
  simp only [decodeS]
  simp (disch := decide) only [Word32.field_high, Word32.field_low, BitVec.extractLsb'_eq_self, Nat.reduceSub]

theorem park (d : BitVec 6) (a : BitVec 6) : Statement (.park d a) := by
  refine of_code (e := 6) (o := 18) (x := d ++ a ++ 0#6) (by decide) (fun _ _ => rfl) ?_
  change decodeS 18 _ = _
  simp only [decodeS]
  rw [if_pos]
  rotate_left
  · simp (disch := decide) only [Word32.field_high, Word32.field_low, BitVec.extractLsb'_eq_self, Nat.reduceSub]
    try rfl
  simp (disch := decide) only [Word32.field_high, Word32.field_low, BitVec.extractLsb'_eq_self, Nat.reduceSub]

theorem pmpw (n : BitVec 4) (a : BitVec 6) (b : BitVec 6) : Statement (.pmpw n a b) := by
  refine of_code (e := 6) (o := 19) (x := n ++ 0#2 ++ a ++ b) (by decide) (fun _ _ => rfl) ?_
  change decodeS 19 _ = _
  simp only [decodeS]
  rw [if_pos]
  rotate_left
  · simp (disch := decide) only [Word32.field_high, Word32.field_low, BitVec.extractLsb'_eq_self, Nat.reduceSub]
    try rfl
  simp (disch := decide) only [Word32.field_high, Word32.field_low, BitVec.extractLsb'_eq_self, Nat.reduceSub]

theorem tlbi (a : BitVec 6) (b : BitVec 6) : Statement (.tlbi a b) := by
  refine of_code (e := 6) (o := 20) (x := 0#6 ++ a ++ b) (by decide) (fun _ _ => rfl) ?_
  change decodeS 20 _ = _
  simp only [decodeS]
  rw [if_pos]
  rotate_left
  · simp (disch := decide) only [Word32.field_high, Word32.field_low, BitVec.extractLsb'_eq_self, Nat.reduceSub]
    try rfl
  simp (disch := decide) only [Word32.field_high, Word32.field_low, BitVec.extractLsb'_eq_self, Nat.reduceSub]

theorem keyl (a : BitVec 6) (b : BitVec 6) : Statement (.keyl a b) := by
  refine of_code (e := 6) (o := 21) (x := 0#6 ++ a ++ b) (by decide) (fun _ _ => rfl) ?_
  change decodeS 21 _ = _
  simp only [decodeS]
  rw [if_pos]
  rotate_left
  · simp (disch := decide) only [Word32.field_high, Word32.field_low, BitVec.extractLsb'_eq_self, Nat.reduceSub]
    try rfl
  simp (disch := decide) only [Word32.field_high, Word32.field_low, BitVec.extractLsb'_eq_self, Nat.reduceSub]

theorem slotb (d : BitVec 6) (a : BitVec 6) (b : BitVec 6) : Statement (.slotb d a b) := by
  refine of_code (e := 6) (o := 22) (x := d ++ a ++ b) (by decide) (fun _ _ => rfl) ?_
  change decodeS 22 _ = _
  simp only [decodeS]
  simp (disch := decide) only [Word32.field_high, Word32.field_low, BitVec.extractLsb'_eq_self, Nat.reduceSub]

theorem siteq (d : BitVec 6) (a : BitVec 6) : Statement (.siteq d a) := by
  refine of_code (e := 6) (o := 23) (x := d ++ a ++ 0#6) (by decide) (fun _ _ => rfl) ?_
  change decodeS 23 _ = _
  simp only [decodeS]
  rw [if_pos]
  rotate_left
  · simp (disch := decide) only [Word32.field_high, Word32.field_low, BitVec.extractLsb'_eq_self, Nat.reduceSub]
    try rfl
  simp (disch := decide) only [Word32.field_high, Word32.field_low, BitVec.extractLsb'_eq_self, Nat.reduceSub]

theorem sitec (d : BitVec 6) (a : BitVec 6) (b : BitVec 6) : Statement (.sitec d a b) := by
  refine of_code (e := 6) (o := 24) (x := d ++ a ++ b) (by decide) (fun _ _ => rfl) ?_
  change decodeS 24 _ = _
  simp only [decodeS]
  simp (disch := decide) only [Word32.field_high, Word32.field_low, BitVec.extractLsb'_eq_self, Nat.reduceSub]

theorem qcbb (d : BitVec 6) (a : BitVec 6) (b : BitVec 6) : Statement (.qcbb d a b) := by
  refine of_code (e := 6) (o := 25) (x := d ++ a ++ b) (by decide) (fun _ _ => rfl) ?_
  change decodeS 25 _ = _
  simp only [decodeS]
  simp (disch := decide) only [Word32.field_high, Word32.field_low, BitVec.extractLsb'_eq_self, Nat.reduceSub]

theorem halt : Statement .halt := of_code (e := 6) (o := 26) (x := 0#18) (by decide) (fun _ _ => rfl) rfl

theorem bh (s : BitVec 1) (v : BitVec 1) (p : BitVec 8) (t : BitVec 16) : Statement (.bh s v p t) := by
  intro l g w hw
  cases hw
  have h1 : wordEng (7#3 ++ BitVec.ofBool l ++ 0#2 ++ s ++ v ++ p ++ t) = 7 := by
    unfold wordEng
    simp (disch := decide) only [Word32.field_high, Word32.field_low, BitVec.extractLsb'_eq_self, Nat.reduceSub]
    rfl
  have h2 : decodeK (7#3 ++ BitVec.ofBool l ++ 0#2 ++ s ++ v ++ p ++ t) = .ok (.bh s v p t) := by
    unfold decodeK
    simp (disch := decide) only [Word32.field_high, Word32.field_low, BitVec.extractLsb'_eq_self, Nat.reduceSub]
    rfl
  have h3 : wordLast (7#3 ++ BitVec.ofBool l ++ 0#2 ++ s ++ v ++ p ++ t) = l := by
    unfold wordLast
    rw [BitVec.getLsbD_append, BitVec.getLsbD_append, BitVec.getLsbD_append, BitVec.getLsbD_append, BitVec.getLsbD_append, BitVec.getLsbD_append]
    cases l <;> rfl
  simp only [decode, h1, h2, h3, if_true]

theorem kx (i : BitVec 26) : Statement (.kx i) := by
  intro l g w hw
  cases hw
  have h1 : wordEng (7#3 ++ BitVec.ofBool l ++ 1#2 ++ i) = 7 := by
    unfold wordEng
    simp (disch := decide) only [Word32.field_high, Word32.field_low, BitVec.extractLsb'_eq_self, Nat.reduceSub]
    rfl
  have h2 : decodeK (7#3 ++ BitVec.ofBool l ++ 1#2 ++ i) = .ok (.kx i) := by
    unfold decodeK
    simp (disch := decide) only [Word32.field_high, Word32.field_low, BitVec.extractLsb'_eq_self, Nat.reduceSub]
    rfl
  have h3 : wordLast (7#3 ++ BitVec.ofBool l ++ 1#2 ++ i) = l := by
    unfold wordLast
    rw [BitVec.getLsbD_append, BitVec.getLsbD_append, BitVec.getLsbD_append]
    cases l <;> rfl
  simp only [decode, h1, h2, h3, if_true]

theorem coldStart : Statement .coldStart := of_none fun _ _ => rfl

theorem bstatGo : Statement .bstatGo := of_none fun _ _ => rfl

theorem wsreqGo : Statement .wsreqGo := of_none fun _ _ => rfl

theorem warmStartDecision : Statement .warmStartDecision := of_none fun _ _ => rfl

theorem dieReady : Statement .dieReady := of_none fun _ _ => rfl

theorem calibrationComplete : Statement .calibrationComplete := of_none fun _ _ => rfl

theorem svnupWrite : Statement .svnupWrite := of_none fun _ _ => rfl

theorem attestationRequest : Statement .attestationRequest := of_none fun _ _ => rfl

theorem certificateRequest : Statement .certificateRequest := of_none fun _ _ => rfl

theorem ucieLinkFailure : Statement .ucieLinkFailure := of_none fun _ _ => rfl

theorem ualinkLaneFailure : Statement .ualinkLaneFailure := of_none fun _ _ => rfl

theorem launchPacket : Statement .launchPacket := of_none fun _ _ => rfl

theorem launchPacketRecheck : Statement .launchPacketRecheck := of_none fun _ _ => rfl

theorem forwardedWrite : Statement .forwardedWrite := of_none fun _ _ => rfl

theorem forwardEnd : Statement .forwardEnd := of_none fun _ _ => rfl

theorem remoteWrite : Statement .remoteWrite := of_none fun _ _ => rfl

theorem remoteRead : Statement .remoteRead := of_none fun _ _ => rfl

theorem sensorSample : Statement .sensorSample := of_none fun _ _ => rfl

theorem clockRestart : Statement .clockRestart := of_none fun _ _ => rfl

theorem doorbell : Statement .doorbell := of_none fun _ _ => rfl

theorem nopCommand : Statement .nopCommand := of_none fun _ _ => rfl

theorem invoke : Statement .invoke := of_none fun _ _ => rfl

theorem loadslot : Statement .loadslot := of_none fun _ _ => rfl

theorem unloadslot : Statement .unloadslot := of_none fun _ _ => rfl

theorem swapweights : Statement .swapweights := of_none fun _ _ => rfl

theorem graph : Statement .graph := of_none fun _ _ => rfl

theorem copyh : Statement .copyh := of_none fun _ _ => rfl

theorem signal : Statement .signal := of_none fun _ _ => rfl

theorem wait : Statement .wait := of_none fun _ _ => rfl

theorem fenceCommand : Statement .fenceCommand := of_none fun _ _ => rfl

theorem mark : Statement .mark := of_none fun _ _ => rfl

theorem waitSatisfied : Statement .waitSatisfied := of_none fun _ _ => rfl

theorem waitTimeout : Statement .waitTimeout := of_none fun _ _ => rfl

theorem cconsPoll : Statement .cconsPoll := of_none fun _ _ => rfl

theorem copyhDone : Statement .copyhDone := of_none fun _ _ => rfl

theorem pageRequestResponse : Statement .pageRequestResponse := of_none fun _ _ => rfl

theorem slotLoadDone : Statement .slotLoadDone := of_none fun _ _ => rfl

theorem generationRetired : Statement .generationRetired := of_none fun _ _ => rfl

theorem bind : Statement .bind := of_none fun _ _ => rfl

theorem rebind : Statement .rebind := of_none fun _ _ => rfl

theorem detach : Statement .detach := of_none fun _ _ => rfl

theorem release : Statement .release := of_none fun _ _ => rfl

theorem handleCommit : Statement .handleCommit := of_none fun _ _ => rfl

theorem pcreate : Statement .pcreate := of_none fun _ _ => rfl

theorem pdestroy : Statement .pdestroy := of_none fun _ _ => rfl

theorem psend : Statement .psend := of_none fun _ _ => rfl

theorem pmark : Statement .pmark := of_none fun _ _ => rfl

theorem pfab : Statement .pfab := of_none fun _ _ => rfl

theorem vfcreate : Statement .vfcreate := of_none fun _ _ => rfl

theorem vfdestroy : Statement .vfdestroy := of_none fun _ _ => rfl

theorem vfquota : Statement .vfquota := of_none fun _ _ => rfl

theorem vfkey : Statement .vfkey := of_none fun _ _ => rfl

theorem vfalloc : Statement .vfalloc := of_none fun _ _ => rfl

theorem vfallocZeroed : Statement .vfallocZeroed := of_none fun _ _ => rfl

theorem vffree : Statement .vffree := of_none fun _ _ => rfl

theorem mstart : Statement .mstart := of_none fun _ _ => rfl

theorem msnap : Statement .msnap := of_none fun _ _ => rfl

theorem mquiesce : Statement .mquiesce := of_none fun _ _ => rfl

theorem quiesceComplete : Statement .quiesceComplete := of_none fun _ _ => rfl

theorem mquiesceTimeout : Statement .mquiesceTimeout := of_none fun _ _ => rfl

theorem mcut : Statement .mcut := of_none fun _ _ => rfl

theorem msave : Statement .msave := of_none fun _ _ => rfl

theorem mrestore : Statement .mrestore := of_none fun _ _ => rfl

theorem mrelay : Statement .mrelay := of_none fun _ _ => rfl

theorem mfwdc : Statement .mfwdc := of_none fun _ _ => rfl

theorem mabort : Statement .mabort := of_none fun _ _ => rfl

theorem vfCountLowered : Statement .vfCountLowered := of_none fun _ _ => rfl

theorem watchdogExpiry : Statement .watchdogExpiry := of_none fun _ _ => rfl

theorem wdack : Statement .wdack := of_none fun _ _ => rfl

theorem temptabWrite : Statement .temptabWrite := of_none fun _ _ => rfl

theorem slctlWrite : Statement .slctlWrite := of_none fun _ _ => rfl

theorem ptrootWrite : Statement .ptrootWrite := of_none fun _ _ => rfl

theorem fltrSupply : Statement .fltrSupply := of_none fun _ _ => rfl

theorem fltrRefuse : Statement .fltrRefuse := of_none fun _ _ => rfl

theorem pageWalk : Statement .pageWalk := of_none fun _ _ => rfl

theorem schedulerSelection : Statement .schedulerSelection := of_none fun _ _ => rfl

theorem reservationRetry : Statement .reservationRetry := of_none fun _ _ => rfl

theorem sliceBoundary : Statement .sliceBoundary := of_none fun _ _ => rfl

theorem residencyRotation : Statement .residencyRotation := of_none fun _ _ => rfl

theorem yieldDeadline : Statement .yieldDeadline := of_none fun _ _ => rfl

theorem yieldComplete : Statement .yieldComplete := of_none fun _ _ => rfl

theorem barrierArrival : Statement .barrierArrival := of_none fun _ _ => rfl

theorem graphNodeRun : Statement .graphNodeRun := of_none fun _ _ => rfl

theorem graphDeadlineOverrun : Statement .graphDeadlineOverrun := of_none fun _ _ => rfl

theorem scanOutComplete : Statement .scanOutComplete := of_none fun _ _ => rfl

theorem inboxHeldDelivery : Statement .inboxHeldDelivery := of_none fun _ _ => rfl

theorem packetResend : Statement .packetResend := of_none fun _ _ => rfl

theorem streamRowTransfer : Statement .streamRowTransfer := of_none fun _ _ => rfl

theorem copyChannelTransfer : Statement .copyChannelTransfer := of_none fun _ _ => rfl

theorem postArrival : Statement .postArrival := of_none fun _ _ => rfl

theorem latchFill : Statement .latchFill := of_none fun _ _ => rfl

theorem matrixOpComplete : Statement .matrixOpComplete := of_none fun _ _ => rfl

theorem lifetimeTick : Statement .lifetimeTick := of_none fun _ _ => rfl

theorem rowGroupExpiry : Statement .rowGroupExpiry := of_none fun _ _ => rfl

theorem refreshQueued : Statement .refreshQueued := of_none fun _ _ => rfl

theorem rowGroupRefresh : Statement .rowGroupRefresh := of_none fun _ _ => rfl

theorem rowGroupClear : Statement .rowGroupClear := of_none fun _ _ => rfl

theorem eld3Read : Statement .eld3Read := of_none fun _ _ => rfl

theorem elclr : Statement .elclr := of_none fun _ _ => rfl

theorem einjcWrite : Statement .einjcWrite := of_none fun _ _ => rfl

theorem elqselWrite : Statement .elqselWrite := of_none fun _ _ => rfl

theorem logQueryDone : Statement .logQueryDone := of_none fun _ _ => rfl

theorem elqd3Read : Statement .elqd3Read := of_none fun _ _ => rfl

theorem elqclr : Statement .elqclr := of_none fun _ _ => rfl

theorem ownershipReply : Statement .ownershipReply := of_none fun _ _ => rfl

theorem gateRecordArrival : Statement .gateRecordArrival := of_none fun _ _ => rfl

theorem putArrival : Statement .putArrival := of_none fun _ _ => rfl

theorem seamResend : Statement .seamResend := of_none fun _ _ => rfl

theorem seamTimeout : Statement .seamTimeout := of_none fun _ _ => rfl

theorem slotRelease : Statement .slotRelease := of_none fun _ _ => rfl

theorem seamRefill : Statement .seamRefill := of_none fun _ _ => rfl

theorem collectiveComplete : Statement .collectiveComplete := of_none fun _ _ => rfl

theorem taskDone : Statement .taskDone := of_none fun _ _ => rfl

theorem waiteTimeout : Statement .waiteTimeout := of_none fun _ _ => rfl

theorem registerWrite : Statement .registerWrite := of_none fun _ _ => rfl

theorem memoryResponse : Statement .memoryResponse := of_none fun _ _ => rfl

theorem fabricTransportFailure : Statement .fabricTransportFailure := of_none fun _ _ => rfl

theorem sriovVfEnable : Statement .sriovVfEnable := of_none fun _ _ => rfl

end Laws.RoundTrip

end Sys2Proof
end

