-- ==== Sys2Proof/Tests/Slice0.lean ====
section
/-!
SUPPORT. Small tests: ill-formed terms are refused, words spelled out from the spec's encodings decode as their assembly
says, and for each statement that has hypotheses a state and operands that meet them, with the outcome it claims there.
-/
set_option exponentiation.threshold 4096
set_option maxRecDepth 20000
namespace Sys2Proof.Tests
open Sys2Proof Sys2Proof.Machine Sys2Proof.Safety

/-! ### Small states -/

/-- A command core (level 2), or a task on a tile, at the head of a bundle of one word, with `f` of its core and `g` of
the package as the reset state leaves them. -/
def ccAt (f : Core → Core) (g : Mach → Mach := id) : State :=
  openBundle { State.reset with m := g (State.reset.m.modCore f) } [0]
def tileAt (f : Core → Core) (g : Mach → Mach := id) : State :=
  openBundle { State.reset with m := g ((seatTask State.reset.m).modCore f) } [0]
def cc : State := ccAt id
def tile : State := tileAt id
/-- The same with the engines of the tile, or with its control part, changed. -/
def tileEng (f : Engs → Engs) : State := tileAt fun c => c.modEng f
def tileCtl (f : Ctl → Ctl) : State := tileAt fun c => c.modCtl f
/-- Scalars s1 to s3 hold `x`, `y`, `z`. -/
def ss (x y z : Dword) (c : Core) : Core := ((c.setS 1 ⟨x, false⟩).setS 2 ⟨y, false⟩).setS 3 ⟨z, false⟩
/-- The bundle has an extension `x` before the present word, or a stamp. -/
def ext (x : BitVec 26) (s : State) : State := { s with bundle := s.bundle.map fun b => { b with ext := some x } }
/-- A task for which `f` of its package holds, and no bundle: where an event finds a state. -/
def seated (f : Mach → Mach := id) (a : Arg := {}) : State := { State.reset with m := f (seatTask State.reset.m), arg := a }
/-- A task whose page at 0x10000 lies at 2^32, by an entry of its scalar TLB, in a region of state `st` of its own VF and
task; s1 to s3 hold `x`, `y`, `z`. -/
def mapped (st : Nat) (x y z : Dword) : State :=
  tileAt (fun c => (ss x y z c).modEng fun e => { e with tlb := [(0, [⟨0x10000, 65536, 2 ^ 32, true, true⟩])] })
    fun m => m.setRegion 0 (2 ^ 32 / regionSize) { RegionE.unalloc with st := st, vfn := 1, lnch := 1 }
/-- The launch of the task changed; a partition of panel 0, whose command core runs. -/
def withLaunch (f : Launch → Launch) (m : Mach) : Mach := m.setLaunch (launchKey 0 1) (f (m.launch (launchKey 0 1)))
def withPart (m : Mach) : Mach := (m.setPanel 0 { m.panel 0 with part := some 0 }).setPart 0 { m.partn 0 with used := true, mask := 1, inv := 1 }
def tagged (t o : Nat) : Dword := BitVec.ofNat 64 (t * 2 ^ 60 + o)
/-- A scalar queue or a row queue bound to port 0, with an item or with room. -/
def item (n : Nat) : QItem := ⟨⟨BitVec.ofNat 2048 n, false⟩, 0, none⟩
def popQ (x : QItem) : HQ := { bound := true, cons := 5, items := [x] }
def pushQ : HQ := { bound := true, prod := 8 }
/-- No launch is on its way to a yield point that ends in a phase image, where the one launch is not. -/
theorem never_phased {m : Mach} {k : Nat} {l : Launch} (h : m.sys.launches = [(k, l)]) (hp : l.phaseHold = false)
    (hg : l.gangs.all (fun e => !e.2.toPhase) = true) :
    ∀ j, (m.launch j).phaseHold = false ∧ ∀ g, ((m.launch j).gang g).toPhase = false := by
  have gangs : ∀ gs : List (Nat × Gang), gs.all (fun e => !e.2.toPhase) = true → ∀ g, (SMap.get (fun _ => ({} : Gang)) gs g).toPhase = false := by
    intro gs hs g
    induction gs with
    | nil => rfl
    | cons e gs ih =>
      rw [List.all_cons, Bool.and_eq_true] at hs
      unfold SMap.get
      split
      · simpa using hs.1
      · exact ih hs.2
  intro j
  unfold Mach.launch
  rw [h]
  unfold SMap.get
  split
  · exact ⟨hp, gangs l.gangs hg⟩
  · exact ⟨rfl, fun _ => rfl⟩

/-! ### Statements on encoding and steps -/

theorem wit_EncodedWordIsReadBack :
    (⟨false, 9, .add 11 11 10⟩ : Word).wellFormed = true ∧ isEvent (.add 11 11 10) = false := by decide
theorem wit_DecodedWordHasThoseBits : decode 0x0904B2CA = .ok ⟨false, 9, .add 11 11 10⟩ := rfl
/-- A bundle of one word; its guard p0 is true, or p9, which is false after reset. -/
theorem wit_StepRunsTheDecodedWord : ∀ g ∈ [0x10786001, 0x19786001], ∃ c w, c = BitVec.ofNat 32 g ∧
    let s := placeWord State.reset c;
    s.inputs = [] ∧ s.turns = [] ∧ agentOk s.m.me = true ∧ canIssue s.m = true ∧ endWait (engineWork s.m) = (s.m, true) ∧
    bundleAt s.m = [c] ∧ decode c = .ok w ∧ s.m.core.ctl.own = none ∧ s.m.core.ctl.ptraps = [] ∧ fetchFails (fetched s.m [c]) [c] = false ∧
    earlyTrap (fetched s.m [c]) (fetched s.m [c]).pcb [c] = none ∧
    (fetched s.m [c]).core.ready (rdyP w.guard.toNat) ≤ (fetched s.m [c]).core.ctl.cyc ∧
    ((fetched s.m [c]).core.p w.guard.toNat).v = decide (w.guard = 0) := by
  intro g h
  rcases List.mem_cons.1 h with rfl | h
  · exact ⟨_, ⟨true, 0, .li 6 1⟩, rfl, rfl, rfl, rfl, rfl, rfl, rfl, rfl, rfl, rfl, rfl, rfl, by decide, rfl⟩
  · obtain rfl := List.mem_singleton.1 h
    exact ⟨_, ⟨true, 9, .li 6 1⟩, rfl, rfl, rfl, rfl, rfl, rfl, rfl, rfl, rfl, rfl, rfl, rfl, by decide, rfl⟩
/-- The home has answered the ownership word of the bundle: `ownq s3, s1`. -/
def askedHome (r : OwnReq) : State :=
  placeWord { State.reset with m := (seatTask State.reset.m).modCtl fun c => { c with own := some r } } 0x30503040
theorem wit_StepRunsTheDecodedWord_own : ∃ i r, let s := askedHome { op := ownQ, ea := 0x10000, arg := 0, sent := some 0, reply := some (false, 2) };
    s.inputs = [] ∧ s.turns = [] ∧ agentOk s.m.me = true ∧ canIssue s.m = true ∧ endWait (engineWork s.m) = (s.m, true) ∧
    bundleAt s.m = [0x30503040] ∧ decode 0x30503040 = .ok ⟨true, 0, i⟩ ∧ s.m.core.ctl.own = some r ∧ r.reply.isSome = true ∧
    (s.m.core.p 0).v = true := ⟨_, _, rfl, rfl, rfl, rfl, rfl, rfl, rfl, rfl, rfl, rfl⟩
theorem wit_WordsActInEngineOrder : ∃ b t, cc.bundle = some b ∧ exec (.li 6 1) (atWord cc (0, 0x10786001)) = .next t :=
  ⟨_, _, rfl, rfl⟩
theorem wit_NoBundleBetweenSteps : ∃ t, State.reset.bundle = none ∧ step (placeWord State.reset 0x10786001) = .next t :=
  ⟨_, rfl, rfl⟩
theorem wit_EveryStepAnswersAState : agentOk State.reset.m.me = true ∧ agentOk 0 = true ∧ agentOk 1183 = true ∧
    agentOk 1184 = false := by decide

/-! ### Statements on operands -/

theorem wit_RegisterReadsAndWrites :
    (let s := tileAt (ss 7 8 9);
      s.old.isTile = true ∧ s.old.core.pendS 1 = false ∧ s.old.core.ready (rdyS 1) ≤ s.old.core.ctl.cyc ∧ FreeS s 59 ∧
        s.old.core.ready (rdyP 15) ≤ s.old.core.ctl.cyc ∧ ReadsS 1 s ⟨7, false⟩ s) ∧
    (let s := tileEng fun e => { e with hq := [(12, popQ (item 5)), (13, { pushQ with port := 3 })] };
      s.m.core.portQueue true 0 = some 12 ∧ (s.m.hq 12).cons = 5 ∧ (s.m.hq 12).items = [item 5] ∧
        s.m.core.portQueue true 3 = some 13 ∧ (s.m.hq 13).prod = 8 ∧ (s.m.hq 13).items.length < hqDepth 13) :=
  ⟨⟨rfl, rfl, by decide, .inr ⟨rfl, by decide⟩, by decide, rfl⟩, rfl, rfl, rfl, rfl, rfl, by decide⟩
theorem wit_VectorNameReadsAndWrites :
    (tile.old.core.pendRow (tile.old.rowOf 59) = false ∧ (tile.old.core.eng.mq.any fun o => o.writes (tile.old.rowOf 59)) = false ∧
      tile.old.core.ready (rdyRow (tile.old.rowOf 59)) ≤ tile.old.core.ctl.cyc ∧ FreeRow tile (tile.old.rowOf 0)) ∧
    (let s := tileEng fun e => { e with hq := [(0, popQ (item 5)), (11, { pushQ with port := 3 })] };
      s.m.core.portQueue false 0 = some 0 ∧ (s.m.hq 0).cons = 5 ∧ (s.m.hq 0).items = [item 5] ∧
        s.m.core.portQueue false 3 = some 11 ∧ (s.m.hq 11).prod = 8 ∧ (s.m.hq 11).items.length < hqDepth 11) :=
  ⟨⟨rfl, rfl, by decide, rfl, .inr ⟨rfl, by decide⟩⟩, rfl, rfl, rfl, rfl, rfl, by decide⟩
theorem wit_LateOperandPoisonsOrWaits :
    (let s := ccAt fun c => c.modCtl fun k => { k with rdy := SMap.set (fun _ => 0) k.rdy (rdyS 1) 3 };
      (∃ f, (Instr.add 3 1 2, 1, f) ∈ c3Of 3 1 2) ∧ Legal (.add 3 1 2) s ∧ s.old.core.ctl.cyc < s.old.core.ready (rdyS 1) ∧ s.stamped = false) ∧
    (let s := tileAt fun c => (c.modCtl fun k => { k with resp := [⟨0, 1, ⟨0, false⟩, none⟩] }).setCsr true 0x016 1;
      let s' := { s with bundle := s.bundle.map fun b => { b with stamp := some 4 } };
      Legal (.add 3 1 2) s' ∧ s'.old.core.pendS 1 = true ∧ s'.stamped = true ∧ ∃ t, WritesS 3 ⟨0, true⟩ 1 s' t ∧ exec (.add 3 1 2) s' = .next t) :=
  ⟨⟨⟨_, .head _⟩, rfl, by decide, rfl⟩, rfl, rfl, rfl, _, rfl, rfl⟩

/-! ### Statements on engine C -/

theorem wit_ScalarArithmeticWords :
    (∃ s1 s2 t f, let s := tileAt (ss 7 0 0); (Instr.div 3 1 2, 20, f) ∈ c3Of 3 1 2 ∧ Legal (.div 3 1 2) s ∧ ReadsS 1 s ⟨7, false⟩ s1 ∧
      ReadsS 2 s1 ⟨0, false⟩ s2 ∧ WritesS 3 ⟨f 7 0, false⟩ 20 s2 t ∧ exec (.div 3 1 2) s = .next t ∧
      t.m.core.s 3 = ⟨0xFFFFFFFFFFFFFFFF, false⟩) ∧
    (∃ s1 t f, let s := ccAt (ss 7 0 0); (Instr.addi 3 1 0x3F, f) ∈ c2Of (BitVec.ofInt 64 (immOf (0x3F : BitVec 6) s)) 0x3F 3 1 ∧
      Legal (.addi 3 1 0x3F) s ∧ ReadsS 1 s ⟨7, false⟩ s1 ∧ WritesS 3 ⟨f 7, false⟩ 1 s1 t ∧ exec (.addi 3 1 0x3F) s = .next t ∧
      t.m.core.s 3 = ⟨6, false⟩) :=
  ⟨⟨_, _, _, _, .tail _ (.tail _ (.tail _ (.tail _ (.tail _ (.head _))))), rfl, rfl, rfl, rfl, rfl, rfl⟩,
    _, _, _, .head _, rfl, rfl, rfl, rfl, rfl⟩
theorem wit_ScalarMovesAndCompares_1 : ∃ t, let s := ext 1 cc; Legal (.li 6 0x800) s ∧
    WritesS 6 ⟨BitVec.ofInt 64 (immOf (0x800 : BitVec 12) s), false⟩ 1 s t := ⟨_, rfl, rfl⟩
theorem test_li : ∃ t, exec (.li 6 0x800) (ext 1 cc) = .next t ∧ t.m.core.s 6 = ⟨0x1800, false⟩ := ⟨_, rfl, by decide⟩
theorem wit_ScalarMovesAndCompares_2 : ∃ s1 s2 t, let s := ccAt (ss 7 9 0); Legal (.addx 1 2 3) s ∧ ReadsS 1 s ⟨7, false⟩ s1 ∧
    ReadsS 2 s1 ⟨9, false⟩ s2 ∧
    WritesS 1 ⟨BitVec.ofNat 64 ((7 : Dword).toNat + (9 : Dword).toNat * 2 ^ (3 : BitVec 6).toNat), false⟩ 1 s2 t ∧
    exec (.addx 1 2 3) s = .next t := ⟨_, _, _, rfl, rfl, rfl, rfl, rfl⟩
theorem wit_ScalarMovesAndCompares_3 : ∃ s1 s2 t, let s := ccAt (ss 7 9 0); Legal (.sel 1 2 1 5) s ∧ ReadsS 2 s ⟨9, false⟩ s1 ∧
    ReadsS 1 s1 ⟨7, false⟩ s2 ∧ ReadsP (5 : BitVec 4) s2 ⟨false, false⟩ s2 ∧ WritesS 1 ⟨9, false⟩ 1 s2 t ∧
    exec (.sel 1 2 1 5) s = .next t := ⟨_, _, _, rfl, rfl, rfl, rfl, rfl, rfl⟩
theorem wit_ScalarMovesAndCompares_4 : ∃ s1 s2 s3 t f, let s := ccAt (ss 7 0xFFFFFFFFFFFFFFFF 0);
    (Instr.cmpLt 7 2 1, f) ∈ cmpOf 7 2 1 ∧ Legal (.cmpLt 7 2 1) s ∧ ReadsS 2 s ⟨0xFFFFFFFFFFFFFFFF, false⟩ s1 ∧
    ReadsS 1 s1 ⟨7, false⟩ s2 ∧ WritesP 14 ⟨f 0xFFFFFFFFFFFFFFFF 7, false⟩ 1 s2 s3 ∧
    WritesP 15 ⟨!f 0xFFFFFFFFFFFFFFFF 7, false⟩ 1 s3 t ∧ exec (.cmpLt 7 2 1) s = .next t ∧ t.m.core.p 14 = ⟨true, false⟩ :=
  ⟨_, _, _, _, _, .tail _ (.tail _ (.head _)), rfl, rfl, rfl, rfl, rfl, rfl, rfl⟩
theorem wit_ScalarMovesAndCompares_5 : ∃ s1 s2 t f, let s := ccAt (ss 7 0 0); (Instr.cmpiLtu 1 1 0x3F, f) ∈ cmpiOf 1 1 0x3F ∧
    Legal (.cmpiLtu 1 1 0x3F) s ∧ ReadsS 1 s ⟨7, false⟩ s1 ∧ WritesP 2 ⟨f 7 0xFFFFFFFFFFFFFFFF, false⟩ 1 s1 s2 ∧
    WritesP 3 ⟨!f 7 0xFFFFFFFFFFFFFFFF, false⟩ 1 s2 t ∧ exec (.cmpiLtu 1 1 0x3F) s = .next t ∧ t.m.core.p 2 = ⟨true, false⟩ :=
  ⟨_, _, _, _, .tail _ (.tail _ (.tail _ (.tail _ (.head _)))), rfl, rfl, rfl, rfl, rfl, rfl⟩
theorem wit_PredicateWords :
    (∃ t, Legal (.pset 3 1 0 2) cc ∧ ReadsP (0 : BitVec 4) cc ⟨true, false⟩ cc ∧ ReadsP (2 : BitVec 4) cc ⟨false, false⟩ cc ∧
      WritesP 1 ⟨true, false⟩ 1 cc t ∧ exec (.pset 3 1 0 2) cc = .next t) ∧
    (∃ t, Legal (.pmov 1 0 0) cc ∧ WritesP 1 ⟨true, false⟩ 1 cc t ∧ exec (.pmov 1 0 0) cc = .next t) ∧
    (∃ s1 t, let s := ccAt (ss 7 0 0); Legal (.pmov 15 1 1) s ∧ ReadsS 1 s ⟨7, false⟩ s1 ∧ WritesP 15 ⟨true, false⟩ 1 s1 t ∧
      exec (.pmov 15 1 1) s = .next t) ∧
    (∃ t, Legal (.pmov 1 0 2) cc ∧ WritesS 1 ⟨1, false⟩ 1 cc t ∧ exec (.pmov 1 0 2) cc = .next t) :=
  ⟨⟨_, rfl, rfl, rfl, rfl, rfl⟩, ⟨_, rfl, rfl, rfl⟩, ⟨_, _, rfl, rfl, rfl, rfl⟩, _, rfl, rfl, rfl⟩
theorem wit_Transfers :
    (Legal (.br 1) cc ∧ InStore cc 4 ∧ exec (.br 1) cc = .next (taken cc 4)) ∧
    (Legal (.br 0x3FFFF) cc ∧ ¬InStore cc (BitVec.ofInt 64 (-4)) ∧
      exec (.br 0x3FFFF) cc = .next (stopState (.trap 0x0B (BitVec.ofInt 64 (-4))) cc)) ∧
    (∃ t, Legal (.call 1) cc ∧ WritesS 59 ⟨bundleNext cc, false⟩ 1 (taken cc 4) t ∧ exec (.call 1) cc = .next t) ∧
    (∃ s1 t, let s := ccAt (ss 0x3FFFC 0 0); Legal (.jr 2 1) s ∧ ReadsC 1 s 0x3FFFC s1 ∧ InStore s 0x3FFFC ∧ (0x3FFFC : Dword).toNat % 4 = 0 ∧
      WritesS 2 ⟨bundleNext s, false⟩ 1 (taken s1 0x3FFFC) t ∧ exec (.jr 2 1) s = .next t) ∧
    (let s := tileAt fun c => c.setS 59 ⟨0xFFFC, false⟩;
      Legal .ret s ∧ ReadsC 59 s 0xFFFC s ∧ InStore s 0xFFFC ∧ exec .ret s = .next (taken s 0xFFFC)) ∧
    (∃ s1, let s := tileEng fun e => { e with hq := [(12, popQ (item 5))] };
      Legal (.bq 0 0 2) s ∧ ReadsC 60 s 5 s1 ∧ InStore s 8 ∧ exec (.bq 0 0 2) s = .next (taken s1 8) ∧
      exec (.bq 0 1 2) s = .next s1) :=
  ⟨⟨rfl, by unfold InStore; decide, rfl⟩, ⟨rfl, by unfold InStore; decide, rfl⟩, ⟨_, rfl, rfl, rfl⟩, ⟨_, _, rfl, rfl, by unfold InStore; decide, rfl, rfl, rfl⟩,
    ⟨rfl, rfl, by unfold InStore; decide, rfl⟩, _, rfl, rfl, by unfold InStore; decide, rfl, rfl⟩
theorem wit_LoopStarts :
    (∃ s1 t, let s := tileAt (ss 0xFFFFFFFF 0 0); Legal (.loop 1 0 2) s ∧ ReadsC 1 s 0xFFFFFFFF s1 ∧ s.old.core.ctl.loop = none ∧
      (bundleNext s).toNat < bundlePc s + 8 ∧ exec (.loop 1 0 2) s = .next t ∧ t.m.core.p 8 = ⟨true, false⟩) ∧
    (Legal (.loopi 0 0 2) tile ∧ exec (.loopi 0 0 2) tile =
      .next { tile with m := tile.m.modRf fun r => { r with npc := 8 } }) :=
  ⟨⟨_, _, rfl, rfl, rfl, by decide, rfl, rfl⟩, rfl, rfl⟩
theorem wit_ControlRegisterWords :
    (∃ t, Legal (.csrr 1 0x002) tile ∧ WritesS 1 ⟨csrRead tile.old 0x002, false⟩ 1 tile t ∧ exec (.csrr 1 0x002) tile = .next t ∧
      t.m.core.s 1 = ⟨8, false⟩) ∧
    (∃ s1 t, let s := tileAt (ss 7 0 0); Legal (.csrs 1 0x003) s ∧ ReadsC 1 s 7 s1 ∧ s.m.isTile = true ∧
      tileRefuses s.old 0x003 (csrRead s.old 0x003 ||| 7) = none ∧ exec (.csrs 1 0x003) s = .next t ∧ t.m.csr 0x003 = 7) :=
  ⟨⟨_, rfl, rfl, rfl, rfl⟩, _, _, rfl, rfl, rfl, rfl, rfl, rfl⟩
theorem wit_CommandCoreRegisterWords :
    (∃ s1 t, let s := ccAt (ss 0x40005 0 0); s.old.isTile = false ∧ Legal (.csrw 1 0x020) s ∧ ReadsC 1 s 0x40005 s1 ∧
      exec (.csrw 1 0x020) s = .next t ∧ t.m.csr 0x020 = 4) ∧
    (isTileAgent State.reset.m.me = false ∧ 1152 ≤ State.reset.m.me) ∧
    (∃ t, Legal (.csrr 1 0x875) cc ∧ WritesS 1 ⟨csrRead cc.old 0x875, false⟩ 1 { cc with m := eld3Mark cc.m (cc.m.me - 1152) } t ∧
      exec (.csrr 1 0x875) cc = .next t) :=
  ⟨⟨_, _, rfl, rfl, rfl, rfl, rfl⟩, by decide, _, rfl, rfl, rfl⟩

/-! ### Statements on engine L -/

theorem wit_TaskAccessChecks_tag : tile.m.isTile = true ∧ ¬(tagOfAddr (tagged 5 0) = tagS ∨ tagOfAddr (tagged 5 0) = tagA ∨
    tagOfAddr (tagged 5 0) = 0) ∧ inSpace (tagged tagS 0x7FFFC) 4 = true ∧ inSpace (tagged tagS 0x7FFFD) 4 = false := by decide
/-- The last bytes of granule 2 of S: engine 2 has written it in this phase; those of granule 1: no engine has. -/
def raced (c : Core) : Core := { c with mem := { c.mem with race := [(2, 2 * 32)] }, rf := (c.setCsr true 0x016 2).rf }
theorem wit_TaskAccessChecks_race : (tileAt raced).m.isTile = true ∧
    raceAtIf (tileAt raced).old.core.raceOn (tileAt raced).m.core 1 92 4 = some 2 ∧
    raceAtIf (tileAt raced).old.core.raceOn (tileAt raced).m.core 1 60 4 = none := by decide
/-- A task whose page at 0x10000 has no mapping; s1 to s3 hold `x`, `y`, `z`. -/
def unmapped (x y z : Dword) : State := tileAt (ss x y z)
theorem wit_TaskAccessChecks_global : ∃ ps m, let s := mapped 2 0 0 0; s.m.isTile = true ∧
    translateWord s.old s.m 0x1FFF8 8 accRead = (.ok ps, m) ∧ s.m.stalled ps = false ∧ s.m.core.hasTodo = false ∧
    rightsOk s.m s.m.core.ctl.part s.m.core.ctl.vf s.m.myTask .read ps = true ∧
    rightsOk s.m s.m.core.ctl.part s.m.core.ctl.vf s.m.myTask .atomic ps = false := ⟨_, _, rfl, rfl, rfl, rfl, rfl, rfl⟩
theorem wit_TaskAccessChecks_fault : ∃ e m, let s := unmapped 0 0 0; s.m.isTile = true ∧
    translateWord s.old s.m 0x1FFF8 8 accRead = (.error e, m) := ⟨_, _, rfl, rfl⟩
theorem wit_GlobalResultsComeLater :
    (tile.old.isTile = true ∧ FreeS tile 59 ∧ FreeRow tile (tile.old.rowOf 59)) ∧
    (let s := tileEng fun e => { e with hq := [(0, pushQ), (12, pushQ)] };
      s.m.core.portQueue true 0 = some 12 ∧ (s.m.hq 12).prod = 8 ∧ portFull s.m.core true 0 12 = false ∧ (∃ t, ComesS 60 ⟨5, false⟩ s t) ∧
      s.m.core.portQueue false 0 = some 0 ∧ (s.m.hq 0).prod = 8 ∧ portFull s.m.core false 0 0 = false) ∧
    (∃ t, cc.old.isTile = false ∧ WritesS 1 ⟨5, false⟩ 1 cc t ∧ ComesS 1 ⟨5, false⟩ cc t) :=
  ⟨⟨rfl, .inr ⟨rfl, by decide⟩, rfl, .inr ⟨rfl, by decide⟩⟩, ⟨rfl, rfl, by decide, ⟨_, rfl⟩, rfl, rfl, by decide⟩, _, rfl, rfl, rfl⟩
theorem wit_GlobalResultsComeLater_event : ∃ t, let s := seated fun m => m.modCtl fun c => { c with resp := [⟨0, 59, (item 5).row, none⟩] };
    s.arg.a = s.m.me ∧ s.m.runs s.m.me = true ∧ NoInjection s 1 (256 * 59) 256 ∧ exec .memoryResponse s = .next t ∧ t.m.core.s 59 = ⟨5, false⟩ :=
  ⟨_, rfl, rfl, rfl, rfl, by decide⟩
/-- A load of eight bytes still to be carried out; the task of `mapped` once its bundle has issued. -/
def load8 : Todo := { op := 0, ea := 0x10008, n := 8 }
def carrying : State :=
  let s := mapped 2 0 0 0
  { s with bundle := none, m := s.m.modCtl fun c => { c with resp := [⟨0, 5, {}, some load8⟩] } }
theorem wit_GlobalResultsComeLater_todo : ∃ m, let ps := [(0x100000008, 8)]; carrying.arg.a = carrying.m.me ∧ carrying.m.core.ctl.resp = [⟨0, 5, {}, some load8⟩] ∧
    carrying.m.runs carrying.m.me = true ∧ carrying.m.core.eng.thalt = false ∧
    translateAll carrying.m carrying.m.me carrying.m.core.ctl.part 0 accRead (pageSpans (offOf load8.ea) 8) = (.ok ps, m) ∧
    carrying.m.stalled ps = false ∧
    rightsOk carrying.m carrying.m.core.ctl.part carrying.m.core.ctl.vf (carrying.m.core.ctl.task.getD ⟨0, 0⟩) .read ps = true :=
  ⟨_, rfl, rfl, rfl, rfl, rfl, rfl, rfl⟩
/-- S holds 0x80 at its last byte, and a command core's memory. -/
def lastByte (o : Nat) (x : Dword) (c : Core) : Core := { ss x 5 0 c with mem := { c.mem with sm := [(o, 0x80)] } }
theorem wit_ScalarLoadsAndStores_S : ∃ s1 s2 t, let s := tileAt (lastByte 0x7FFFF (tagged tagS 0x7FFFF)); let b : SReg := ⟨tagged tagS 0x7FFFF, false⟩;
    (Instr.ldb 3 1 0 0, 1, true) ∈ loadOf 3 1 0 0 ∧ Legal (.ldb 3 1 0 0) s ∧ ReadsS 1 s b s1 ∧
    Reaches s1 (eaOf b (0 : BitVec 5) 1 s) 1 1 accRead .read false false (some (.sOff 0x7FFFF)) s2 ∧ NoError s2 0 0x7FFFF 1 ∧
    WritesS 3 ⟨loaded 1 true (s.m.core.mem.sm.readNat 0x7FFFF 1), false⟩ 4 s2 t :=
  ⟨_, _, _, .head _, rfl, rfl, rfl, rfl, rfl⟩
theorem test_ldb : ∃ t, exec (.ldb 3 1 0 0) (tileAt (lastByte 0x7FFFF (tagged tagS 0x7FFFF))) = .next t ∧
    t.m.core.s 3 = ⟨0xFFFFFFFFFFFFFF80, false⟩ := ⟨_, rfl, by decide⟩
theorem wit_ScalarLoadsAndStores_core : ∃ s1 s2 t, let s := ccAt (lastByte 0x3FFFF (tagged 8 0x3FFFF)); let b : SReg := ⟨tagged 8 0x3FFFF, false⟩;
    Legal (.ldbu 3 1 0 0) s ∧ ReadsS 1 s b s1 ∧
    Reaches s1 (eaOf b (0 : BitVec 5) 1 s) 1 1 accRead .read false false (some (.core 0x3FFFF)) s2 ∧ NoError s2 9 0x3FFFF 1 ∧
    WritesS 3 ⟨loaded 1 false (s.m.core.mem.sm.readNat 0x3FFFF 1), false⟩ 1 s2 t := ⟨_, _, _, rfl, rfl, rfl, rfl, rfl⟩
theorem wit_ScalarLoadsAndStores_speculative : ∃ s1 s2 t, let s := tileAt (ss (tagged tagS 0x80000) 0 0); let b : SReg := ⟨tagged tagS 0x80000, false⟩;
    Legal (.ldd 3 1 1 0) s ∧ ReadsS 1 s b s1 ∧ Reaches s1 (eaOf b (0 : BitVec 5) 8 s) 8 8 accRead .read true false none s2 ∧
    WritesS 3 ⟨0, true⟩ 4 s2 t := ⟨_, _, _, rfl, rfl, rfl, rfl⟩
theorem wit_ScalarLoadsAndStores_global : ∃ s1 s2 t ps, let s := mapped 2 0x10008 0 0; let b : SReg := ⟨0x10008, false⟩;
    Legal (.ldd 3 1 0 0) s ∧ ReadsS 1 s b s1 ∧ Reaches s1 (eaOf b (0 : BitVec 5) 8 s) 8 8 accRead .read false false (some (.phys ps)) s2 ∧
    s2.m.sys.hbmErr = [] ∧ ComesS 3 ⟨loaded 8 false (leAt (ps.flatMap fun p => s2.m.sys.hbm.readList p.1 p.2) 0 8),
      ps.any fun p => keyErased s2.m p.1⟩ s2 t := ⟨_, _, _, _, rfl, rfl, rfl, rfl, rfl⟩
/-- A destination that is neither s0 nor a port takes a result when no other is on its way to it. -/
theorem takesS_of_free {s : State} {d : BitVec 6} (h : d.toNat < 60) (hf : FreeS s d.toNat) : TakesS s d := by
  unfold TakesS
  rw [if_neg (by omega)]
  exact fun _ => hf
theorem takesLater_of_free {s : State} {d : BitVec 6} (h : d.toNat < 60) (hf : FreeS s d.toNat) : TakesLater s d := by
  exact ⟨takesS_of_free h hf, fun _ g => absurd g (by omega)⟩
theorem wit_ScalarLoadsAndStores_later : ∃ s1 s2, let s := unmapped 0x10008 0 0; let b : SReg := ⟨0x10008, false⟩;
    Legal (.ldd 3 1 0 0) s ∧ s.old.isTile = true ∧ ReadsS 1 s b s1 ∧ Reaches s1 (eaOf b (0 : BitVec 5) 8 s) 8 8 accRead .read false false (some .later) s2 ∧
    TakesLater s2 3 := ⟨_, _, rfl, rfl, rfl, rfl, takesLater_of_free (by decide) (.inr ⟨rfl, by decide⟩)⟩
theorem wit_ScalarStores_S : ∃ s1 s2 s3, let s := tileAt (ss (tagged tagS 0x7FFFC) 5 0); let b : SReg := ⟨tagged tagS 0x7FFFC, false⟩;
    (Instr.stw 2 1 0, 4) ∈ storeOf 2 1 0 ∧ Legal (.stw 2 1 0) s ∧ ReadsS 1 s b s1 ∧ ReadsS 2 s1 ⟨5, false⟩ s2 ∧
    Reaches s2 (eaOf b (0 : BitVec 6) 4 s) 4 4 accWrite .write false false (some (.sOff 0x7FFFC)) s3 ∧ NoInjection s3 0 0x7FFFC 4 :=
  ⟨_, _, _, .tail _ (.tail _ (.head _)), rfl, rfl, rfl, rfl, rfl⟩
theorem wit_ScalarStores_core : ∃ s1 s2 s3, let s := ccAt (ss (tagged 8 0) 5 0); let b : SReg := ⟨tagged 8 0, false⟩;
    Legal (.std 2 1 0) s ∧ ReadsS 1 s b s1 ∧ ReadsS 2 s1 ⟨5, false⟩ s2 ∧
    Reaches s2 (eaOf b (0 : BitVec 6) 8 s) 8 8 accWrite .write false false (some (.core 0)) s3 ∧ NoInjection s3 9 0 8 :=
  ⟨_, _, _, rfl, rfl, rfl, rfl, rfl⟩
theorem wit_ScalarStores_global : ∃ s1 s2 s3, let s := mapped 2 0x1FFF8 5 0; let b : SReg := ⟨0x1FFF8, false⟩;
    Legal (.std 2 1 0) s ∧ ReadsS 1 s b s1 ∧ ReadsS 2 s1 ⟨5, false⟩ s2 ∧
    Reaches s2 (eaOf b (0 : BitVec 6) 8 s) 8 8 accWrite .write false false (some (.phys [(2 ^ 32 + 0xFFF8, 8)])) s3 ∧
    keyErased s3.m (2 ^ 32 + 0xFFF8) = false ∧ injHits s3.m (panelOfPa (2 ^ 32 + 0xFFF8)) 10 0 (2 ^ 32 + 0xFFF8) 8 = false :=
  ⟨_, _, _, rfl, rfl, rfl, rfl, rfl, rfl⟩
theorem wit_ScalarStores_later : ∃ s1 s2 s3, let s := unmapped 0x10008 5 0; let b : SReg := ⟨0x10008, false⟩;
    Legal (.std 2 1 0) s ∧ ReadsS 1 s b s1 ∧ ReadsS 2 s1 ⟨5, false⟩ s2 ∧
    Reaches s2 (eaOf b (0 : BitVec 6) 8 s) 8 8 accWrite .write false false (some .later) s3 := ⟨_, _, _, rfl, rfl, rfl, rfl⟩
theorem wit_RowLoadsAndStores_S : ∃ s1 s2 t, let s := tileAt (ss (tagged tagS 0x7FF00) 0 0); let b : SReg := ⟨tagged tagS 0x7FF00, false⟩;
    Legal (.ldv 59 1 0 0) s ∧ ReadsS 1 s b s1 ∧
    Reaches s1 (eaOf b (0 : BitVec 5) 256 s) 256 32 accRead .read false true (some (.sOff 0x7FF00)) s2 ∧ NoError s2 0 0x7FF00 256 ∧
    WritesV 59 ⟨BitVec.ofNat 2048 (s.m.core.mem.sm.readNat 0x7FF00 256), false⟩ 6 s2 t := ⟨_, _, _, rfl, rfl, rfl, rfl, rfl⟩
/-- All of the row group of A at offset 0 is valid. -/
def validA (c : Core) : Core := { c with mem := { c.mem with ag := [(0, { v := true })] } }
theorem wit_RowLoadsAndStores_A : ∃ s1 s2 t, let s := tileAt fun c => validA (ss (tagged tagA 0) 0 0 c); let b : SReg := ⟨tagged tagA 0, false⟩;
    Legal (.ldv 0 1 0 0) s ∧ ReadsS 1 s b s1 ∧
    Reaches s1 (eaOf b (0 : BitVec 5) 256 s) 256 32 accRead .read false true (some (.aOff 0)) s2 ∧ s2.m.core.mem.err = [] ∧
    ((groupsOf 0 256).all fun g => (s2.m.core.group false g).v) = true ∧
    WritesV 0 ⟨BitVec.ofNat 2048 (s.m.core.mem.am.readNat 0 256), false⟩ 4 s2 t := ⟨_, _, _, rfl, rfl, rfl, rfl, rfl, rfl⟩
theorem wit_RowLoadsAndStores_global : ∃ s1 s2 t ps, let s := mapped 3 0x1FF00 0 0; let b : SReg := ⟨0x1FF00, false⟩;
    Legal (.ldv 0 1 0 0) s ∧ ReadsS 1 s b s1 ∧
    Reaches s1 (eaOf b (0 : BitVec 5) 256 s) 256 32 accRead .read false true (some (.phys ps)) s2 ∧ s2.m.sys.hbmErr = [] ∧
    ComesV 0 ⟨BitVec.ofNat 2048 (leAt (ps.flatMap fun p => s2.m.sys.hbm.readList p.1 p.2) 0 256),
      ps.any fun p => keyErased s2.m p.1⟩ s2 t := ⟨_, _, _, _, rfl, rfl, rfl, rfl, rfl⟩
theorem wit_RowLoadsAndStores_speculative : ∃ s1 s2 t, let s := tileAt (ss 16 0 0); let b : SReg := ⟨16, false⟩;
    Legal (.ldv 0 1 1 0) s ∧ ReadsS 1 s b s1 ∧ Reaches s1 (eaOf b (0 : BitVec 5) 256 s) 256 32 accRead .read true true none s2 ∧
    WritesV 0 ⟨0, true⟩ 4 s2 t := ⟨_, _, _, rfl, rfl, rfl, rfl⟩
theorem wit_RowLoadsAndStores_later : ∃ s1 s2, let s := unmapped 0x10000 0 0; let b : SReg := ⟨0x10000, false⟩;
    Legal (.ldv 59 1 0 0) s ∧ ReadsS 1 s b s1 ∧ Reaches s1 (eaOf b (0 : BitVec 5) 256 s) 256 32 accRead .read false true (some .later) s2 ∧
    FreeRow s2 (s2.old.rowOf 59) := ⟨_, _, rfl, rfl, rfl, rfl, .inr ⟨rfl, by decide⟩⟩
theorem wit_RowStores_later : ∃ s1 s2 s3, let s := unmapped 0x10000 0 0; let b : SReg := ⟨0x10000, false⟩;
    Legal (.stv 0 1 0) s ∧ ReadsS 1 s b s1 ∧ ReadsV 0 s1 ⟨0, false⟩ s2 ∧
    Reaches s2 (eaOf b (0 : BitVec 6) 256 s) 256 32 accWrite .write false true (some .later) s3 := ⟨_, _, _, rfl, rfl, rfl, rfl⟩
theorem wit_RowStores_S : ∃ s1 s2 s3, let s := tileAt (ss (tagged tagS 32) 0 0); let b : SReg := ⟨tagged tagS 32, false⟩;
    Legal (.stv 0 1 0) s ∧ ReadsS 1 s b s1 ∧ ReadsV 0 s1 ⟨0, false⟩ s2 ∧
    Reaches s2 (eaOf b (0 : BitVec 6) 256 s) 256 32 accWrite .write false true (some (.sOff 32)) s3 ∧ NoInjection s3 0 32 256 :=
  ⟨_, _, _, rfl, rfl, rfl, rfl, rfl⟩
theorem wit_RowStores_A : ∃ s1 s2 s3, let s := tileAt (ss (tagged tagA 0x3FFF00) 0 0); let b : SReg := ⟨tagged tagA 0x3FFF00, false⟩;
    Legal (.stv 0 1 0) s ∧ ReadsS 1 s b s1 ∧ ReadsV 0 s1 ⟨0, false⟩ s2 ∧
    Reaches s2 (eaOf b (0 : BitVec 6) 256 s) 256 32 accWrite .write false true (some (.aOff 0x3FFF00)) s3 ∧
    NoInjection s3 3 0x3FFF00 256 ∧ ((groupsOf 0x3FFF00 256).all fun g => !(s3.m.core.group false g).clr) = true :=
  ⟨_, _, _, rfl, rfl, rfl, rfl, rfl, rfl⟩
theorem wit_RowStores_global : ∃ s1 s2 s3 ps, let s := mapped 2 0x10000 0 0; let b : SReg := ⟨0x10000, false⟩;
    Legal (.stv 0 1 0) s ∧ ReadsS 1 s b s1 ∧ ReadsV 0 s1 ⟨0, false⟩ s2 ∧
    Reaches s2 (eaOf b (0 : BitVec 6) 256 s) 256 32 accWrite .write false true (some (.phys ps)) s3 ∧
    (ps.all fun p => !injHits s3.m (panelOfPa p.1) 10 0 p.1 p.2) = true := ⟨_, _, _, _, rfl, rfl, rfl, rfl, rfl⟩
theorem wit_AtomicWords_core : ∃ s1 s2, let s := ccAt (ss (tagged 8 0x3FFF8) 5 0); Legal (.amo 2 1 8 2) s ∧ s.old.isTile = s.m.isTile ∧
    ReadsC 1 s (tagged 8 0x3FFF8) s1 ∧ ReadsC 2 s1 5 s2 ∧ ReachesAtom s2 (tagged 8 0x3FFF8) (.core 0x3FFF8) s2 ∧ TakesLater s2 2 ∧
    s2.m.core.globalQuiet = true ∧ NoError s2 9 0x3FFF8 8 ∧ NoInjection s2 9 0x3FFF8 8 :=
  ⟨_, _, rfl, rfl, rfl, rfl, rfl, takesLater_of_free (by decide) (.inr ⟨rfl, by decide⟩), rfl, rfl, rfl⟩
theorem wit_AtomicWords_task : ∃ s1 s2 s3 s4, let s := mapped 4 0x10000 0 9; Legal (.cas 2 1 3) s ∧ s.old.isTile = s.m.isTile ∧ ReadsC 1 s 0x10000 s1 ∧
    ReadsC 2 s1 0 s2 ∧ ReadsC 3 s2 9 s3 ∧ ReachesAtom s3 0x10000 (.phys [(2 ^ 32, 8)]) s4 ∧ TakesLater s4 2 ∧ s4.m.core.globalQuiet = true ∧
    s4.m.sys.hbmErr = [] ∧ keyErased s4.m (2 ^ 32) = false ∧ injHits s4.m (panelOfPa (2 ^ 32)) 10 0 (2 ^ 32) 8 = false :=
  ⟨_, _, _, _, rfl, rfl, rfl, rfl, rfl, ⟨rfl, rfl, rfl, rfl⟩, takesLater_of_free (by decide) (.inr ⟨rfl, by decide⟩), rfl, rfl, rfl, rfl⟩
theorem wit_AtomicWords_later : ∃ s1 s2 s4, let s := unmapped 0x10000 3 0; Legal (.amo 2 1 0 1) s ∧ s.old.isTile = s.m.isTile ∧ ReadsC 1 s 0x10000 s1 ∧
    ReadsC 2 s1 3 s2 ∧ ReachesAtom s2 0x10000 .later s4 ∧ TakesLater s4 2 :=
  ⟨_, _, _, rfl, rfl, rfl, rfl, ⟨rfl, rfl, rfl, rfl⟩, takesLater_of_free (by decide) (.inr ⟨rfl, by decide⟩)⟩
/-- The home has answered an ownership word: it refuses, with a value. -/
def homeSaid (no : Bool) (v : Dword) (s : State) : State :=
  { s with m := s.m.modCtl fun c => { c with own := some { op := ownQ, ea := 0x10000, arg := 0, sent := some 0, reg := 2048, reply := some (no, v) } } }
theorem wit_OwnershipWords_agreed : ∃ s1 r t, let s := homeSaid false 2 (mapped 2 0x10000 0 0); Legal (.ownq 3 1) s ∧ ReadsC 1 s 0x10000 s1 ∧
    s1.m.core.ctl.own = some r ∧ r.reply = some (false, 2) ∧
    WritesS 3 ⟨2, false⟩ 1 { s1 with m := s1.m.modCtl fun c => { c with own := none } } t ∧ exec (.ownq 3 1) s = .next t :=
  ⟨_, _, _, rfl, rfl, rfl, rfl, rfl, rfl⟩
/-- The launch of the task has eight tasks (Table 8-6). -/
def tasked (s : State) : State := { s with m := s.m.setCsr 0x032 0x800000 }
theorem wit_OwnershipWords_refused : ∃ s1 s2 r, let s := homeSaid true 2 (tasked (mapped 2 0x10000 7 0)); Legal (.ownx 1 2) s ∧ ReadsC 1 s 0x10000 s1 ∧
    ReadsC 2 s1 7 s2 ∧ (7 : Dword).toNat < bits (s2.m.csr 0x032) 39 20 ∧ s2.m.core.ctl.own = some r ∧ r.reply = some (true, 2) :=
  ⟨_, _, _, rfl, rfl, rfl, by decide, rfl, rfl⟩
theorem wit_OwnershipWords_asks : ∃ s1, let s := mapped 1 0x1FFFF 0 0; Legal (.owna 1) s ∧ ReadsC 1 s 0x1FFFF s1 ∧
    s1.m.core.ctl.own = none ∧ tagOfAddr 0x1FFFF = 0 ∧ inSpace 0x1FFFF 1 = true := ⟨_, rfl, rfl, rfl, rfl, rfl⟩
/-- The task of `mapped` or of `unmapped` with a request of operation `op` at 0x10000 not yet sent. -/
def toSend (op : Nat) (s : State) : Mach := s.m.modCtl fun c => { c with own := some { op := op, ea := 0x10000, arg := 0 } }
theorem wit_OwnershipWords_sends : ∃ r m' q m'' w, let m := toSend ownX (mapped 1 0 0 0); let u := toSend ownQ (unmapped 0 0 0);
    let b := (toSend ownF (mapped 1 0 0 0)).modEng fun e => { e with ch := [(0, { cmds := [{ op := 0, dst := 0x10000, src := tagged tagS 0, ctl := 32 }] })] };
    m.core.ctl.own = some r ∧ r.sent = none ∧ translate m m.me m.myPart 0 (offOf r.ea) accEither = (.ok (2 ^ 32), m') ∧ m.core.globalQuiet = true ∧
    b.core.globalQuiet = false ∧ u.core.ctl.own = some q ∧ q.sent = none ∧ q.op = ownQ ∧
    translate u u.me u.myPart 0 (offOf q.ea) accEither = (.error w, m'') := ⟨_, _, _, _, _, rfl, rfl, rfl, rfl, by decide, rfl, rfl, rfl, rfl⟩
/-- A command core of a partition that holds panel 0, with semaphore 4095 at 3, and registers that name it. -/
def withSem (c : Sem) : State := ccAt (ss 4095 3 0) fun m => (withPart m).setSem 0 4095 c
theorem wit_SemaphoreWords_core : ∃ s1 s2 t, let s := withSem { count := 3 }; ReadsC 1 s 4095 s1 ∧ ReadsC 2 s1 3 s2 ∧
    (0 < s2.m.level ∧ s2.m.partOf s2.m.me = some 0 ∧ Nat.testBit (s2.m.partn 0).mask 0 = true) ∧ Legal (.semsig 1 2) s ∧
    Legal (.semwait 1 2) s ∧ Legal (.semtry 3 1 2) s ∧
    WritesS 3 ⟨1, false⟩ 1 { s2 with m := s2.m.setSem 0 4095 { count := 0 } } t ∧ exec (.semtry 3 1 2) s = .next t :=
  ⟨_, _, _, rfl, rfl, ⟨by decide, rfl, rfl⟩, rfl, rfl, rfl, rfl, rfl⟩
/-- The VF's map names semaphore 7 of panel 0 by VSN 0. -/
def mapSem (m : Mach) : Mach := (m.setVf 1 { m.vf 1 with vqb := (m.vf 1).vqb ||| 0x10000 }).setHbm (m.sys.hbm.writeNat (semMapAddr m 0 1 0) 4 0x80000007)
theorem wit_SemaphoreWords_task : ∃ s1 s2, let s := tileAt (ss 0 1 0) mapSem; ReadsC 1 s 0 s1 ∧ ReadsC 2 s1 1 s2 ∧ NamesSem s2 0 0 7 ∧
    Legal (.semwait 1 2) s := ⟨_, _, rfl, rfl, ⟨by decide, by decide⟩, rfl⟩
theorem wit_PrefetchOnlyFillsTheTlb : ∃ s1 m w m', let s := mapped 2 0x10000 0 0; let s' := tileAt (ss 0x10000 0 0);
    Legal (.prefg 1 0) s ∧ ReadsC 1 s 0x10000 s1 ∧ tagOfAddr 0x10000 = 0 ∧ inSpace 0x10000 1 = true ∧
    translate s1.m s1.m.me s1.m.myPart 0 0x10000 accRead = (.ok (2 ^ 32), m) ∧
    rightsOk s1.m s1.m.core.ctl.part s1.m.core.ctl.vf s1.m.myTask .read [(2 ^ 32, 1)] = true ∧
    Legal (.prefg 1 0) s' ∧ ReadsC 1 s' 0x10000 s' ∧ translate s'.m s'.m.me s'.m.myPart 0 0x10000 accRead = (.error w, m') :=
  ⟨_, _, _, _, rfl, rfl, rfl, rfl, rfl, rfl, rfl, rfl, rfl⟩

/-! ### Statements on engines V and F -/

/-- The type of every vector name is `t` (Table 12-1), rows 0 to 2 of C hold `x`, `y`, `z`. -/
def vt (t : Nat) (x y z : Row) (c : Core) : Core :=
  (((c.setCsr true 0x014 (BitVec.ofNat 64 (t * 0x1111111111111111))).setRow 0 ⟨x, false⟩).setRow 1 ⟨y, false⟩).setRow 2 ⟨z, false⟩
def vs (t : Nat) (x y z : Row) : State := tileAt (vt t x y z)
theorem wit_RowsAreTheirLanes : ([1, 2] ++ List.replicate 30 0).length = 2048 / 64 ∧ 31 < 2048 / 64 ∧ 2048 / 4 = 512 := by decide
theorem wit_RoundingKeepsExactValues : 0x7FF0000000000001 < 2 ^ typeWidth 9 ∧ 0xFF < 2 ^ typeWidth 4 := by decide
theorem wit_RowArithmeticWords_int : ∃ s1 s2 t f, let s := vs 0 0x7F 1 0; (Instr.vadd 2 0 1, 2, f) ∈ vInt2Of 2 0 1 ∧ Legal (.vadd 2 0 1) s ∧
    s.old.isTile = true ∧ isInt (typeOf 2 s) = true ∧ ReadsV 0 s ⟨0x7F, false⟩ s1 ∧ ReadsV 1 s1 ⟨1, false⟩ s2 ∧
    WritesV 2 ⟨intRow 8 (List.zipWith (f 0) (lanesBy 8 ⟨0x7F, false⟩) (lanesBy 8 ⟨1, false⟩)), false⟩ 2 s2 t :=
  ⟨_, _, _, _, .head _, rfl, rfl, rfl, rfl, rfl, rfl⟩
theorem wit_RowArithmeticWords_float : ∃ s1 s2 s3 t f, let s := vs 8 0 0 0; (Instr.fscale 2 0 1, 4, f) ∈ vFl2Of 2 0 1 ∧
    Legal (.fscale 2 0 1) s ∧ isFl (typeOf 2 s) = true ∧ FreeF s ∧ ReadsV 0 s ⟨0, false⟩ s1 ∧ ReadsV 1 s1 ⟨0, false⟩ s2 ∧
    (let rs := List.zipWith (f 8 (frmOf s)) (lanesBy 32 ⟨0, false⟩) (lanesBy 32 ⟨0, false⟩);
      FlagsRaised (orAll rs) false false s2 s3 ∧ WritesV 2 ⟨rowOf 32 (rs.map Prod.fst), false⟩ 4 s3 t) :=
  ⟨_, _, _, _, _, .tail _ (.tail _ (.tail _ (.tail _ (.tail _ (.tail _ (.head _)))))), rfl, rfl, by unfold FreeF; decide, rfl, rfl, rfl, rfl⟩
theorem wit_RowArithmeticWords_three : ∃ s1 s2 s3 t, let s := vs 2 3 5 7; ReadsV 0 s ⟨3, false⟩ s1 ∧ ReadsV 1 s1 ⟨5, false⟩ s2 ∧
    ReadsOld 2 s2 ⟨7, false⟩ s3 ∧ Legal (.vfms 2 0 1) s ∧ Legal (.vsel 2 0 1) s ∧ isInt (typeOf 2 s) = true ∧
    WritesV 2 ⟨rowOf 32 ((((lanesBy 32 ⟨3, false⟩).zip (lanesBy 32 ⟨5, false⟩)).zip (lanesBy 32 ⟨7, false⟩)).map fun l =>
      if l.2 = 0 then l.1.2 else l.1.1), false⟩ 1 s3 t := ⟨_, _, _, _, rfl, rfl, rfl, rfl, rfl, rfl, rfl⟩
theorem wit_RowArithmeticWords_fma : ∃ s1 s2 s3 s4, let s := vs 6 0x3C00 0x4000 0; ReadsV 0 s ⟨0x3C00, false⟩ s1 ∧ ReadsV 1 s1 ⟨0x4000, false⟩ s2 ∧
    ReadsOld 2 s2 ⟨0, false⟩ s3 ∧ Legal (.vfma 2 0 1) s ∧ isFl (typeOf 2 s) = true ∧
    FlagsRaised (orAll ((((lanesBy 16 ⟨0x3C00, false⟩).zip (lanesBy 16 ⟨0x4000, false⟩)).zip (lanesBy 16 ⟨0, false⟩)).map fun l =>
      laneFma 6 (frmOf s) false l.1.1 l.1.2 l.2)) false false s3 s4 := ⟨_, _, _, _, rfl, rfl, rfl, rfl, rfl, rfl⟩
theorem wit_OneRowWords_int : ∃ s1 t f, let s := vs 1 0x8000 0 0; (Instr.vsra 2 0 63, 1, f) ∈ vInt1Of 2 0 63 ∧ Legal (.vsra 2 0 63) s ∧
    isInt (typeOf 2 s) = true ∧ ReadsV 0 s ⟨0x8000, false⟩ s1 ∧
    WritesV 2 ⟨intRow 16 ((lanesBy 16 ⟨0x8000, false⟩).map (f 1)), false⟩ 1 s1 t :=
  ⟨_, _, _, .tail _ (.tail _ (.tail _ (.tail _ (.head _)))), rfl, rfl, rfl, rfl⟩
theorem wit_OneRowWords_float : ∃ s1 s2 t f, let s := vs 8 0x3F800000 0 0; (Instr.vneg 2 0, 2, f) ∈ vFl1Of 2 0 ∧ Legal (.vneg 2 0) s ∧
    isFl (typeOf 2 s) = true ∧ ReadsV 0 s ⟨0x3F800000, false⟩ s1 ∧ (let rs := (lanesBy 32 ⟨0x3F800000, false⟩).map (f 8 (frmOf s));
      FlagsRaised (orAll rs) false false s1 s2 ∧ WritesV 2 ⟨rowOf 32 (rs.map Prod.fst), false⟩ 2 s2 t) :=
  ⟨_, _, _, _, .tail _ (.head _), rfl, rfl, rfl, rfl, rfl⟩
theorem wit_OneRowWords_fp64 : ∃ s1, let s := vs 9 0x4010000000000000 0 0; Legal (.frcp 2 0) s ∧ typeOf 2 s = 9 ∧ FreeF s ∧ s.bundle.isSome = true ∧
    ReadsV 0 { s with m := s.m.modCtl fun c => { c with rdy := SMap.set (fun _ => 0) c.rdy rdyF (c.cyc + 4) } }
      ⟨0x4010000000000000, false⟩ s1 := ⟨_, rfl, rfl, by unfold FreeF; decide, rfl, rfl⟩
theorem wit_OneRowWords_whole : ∃ s1 s2 t t' t'', let s := vs 0 12 10 0; Legal (.vmov 2 0) s ∧ ReadsV 0 s ⟨12, false⟩ s1 ∧ WritesV 2 ⟨12, false⟩ 1 s1 t ∧
    exec (.vmov 2 0) s = .next t ∧ Legal (.vxor 2 0 1) s ∧ ReadsV 1 s1 ⟨10, false⟩ s2 ∧ WritesV 2 ⟨(12 : Row) ^^^ (10 : Row), false⟩ 1 s2 t' ∧
    exec (.vxor 2 0 1) s = .next t' ∧ Legal (.vzero 2) s ∧ WritesV 2 ⟨0, false⟩ 1 s t'' ∧ exec (.vzero 2) s = .next t'' :=
  ⟨_, _, _, _, _, rfl, rfl, rfl, rfl, rfl, rfl, rfl, rfl, rfl, rfl, rfl⟩
theorem wit_OneRowWords_fill : ∃ s1 t, let s := tileAt fun c => ss 7 0 0 (vt 2 0 0 0 c); Legal (.viota 2 1) s ∧ ReadsS 1 s ⟨7, false⟩ s1 ∧
    WritesV 2 ⟨rowOf 32 ((List.range (2048 / 32)).map fun n => (7 : Dword).toNat + 1 * n), false⟩ 1 s1 t := ⟨_, _, rfl, rfl, rfl⟩
theorem wit_OneRowWords_shift : ∃ s1 s2 s3 t, let s := vs 0 0x8000 1 0; Legal (.vrshr 2 0 0 0) s ∧ Legal (.vrshr 2 0 1 15) s ∧
    ReadsV 0 s ⟨0x8000, false⟩ s1 ∧ ReadsV (0 + 1) s1 ⟨1, false⟩ s2 ∧ FlagsRaised 0 false false s2 s3 ∧ WritesV 2 ⟨0, false⟩ 4 s3 t :=
  ⟨_, _, _, _, rfl, rfl, rfl, rfl, rfl, rfl⟩
theorem wit_LaneMoves_ext : ∃ s1 s2 t, let s := tileAt fun c => ss 0x1FF 5 0 (vt 2 3 0 0 c); Legal (.vext 3 0 1) s ∧ ReadsC 1 s 0x1FF s1 ∧
    ReadsV 0 s1 ⟨3, false⟩ s2 ∧ WritesS 3 ⟨(BitVec.ofNat 32 (laneAt 32 3 ((0x1FF : Dword).toNat % 256 % (2048 / 32)))).signExtend 64, false⟩ 3 s2 t :=
  ⟨_, _, _, rfl, rfl, rfl, rfl⟩
theorem wit_LaneMoves_ins : ∃ s1 s2 s3 t, let s := tileAt fun c => ss 0xFF 5 0 (vt 0 3 0 0 c); Legal (.vins 0 2 1) s ∧ ReadsC 1 s 0xFF s1 ∧
    ReadsS 2 s1 ⟨5, false⟩ s2 ∧ ReadsOld 0 s2 ⟨3, false⟩ s3 ∧
    WritesV 0 ⟨laneSet 8 ⟨3, false⟩ ((0xFF : Dword).toNat % 256 % (2048 / 8)) [(5 : Dword).toNat], false⟩ 3 s3 t := ⟨_, _, _, _, rfl, rfl, rfl, rfl, rfl⟩
theorem wit_LaneMoves_perm : ∃ s1 s2 t, let s := vs 5 7 1 0; Legal (.vperm 2 0 1) s ∧ ReadsV 0 s ⟨7, false⟩ s1 ∧ ReadsV 1 s1 ⟨1, false⟩ s2 ∧
    WritesV 2 ⟨rowOf 8 ((lanesBy 8 ⟨1, false⟩).map fun i => (lanesBy 8 ⟨7, false⟩).getD i 0), false⟩ 3 s2 t := ⟨_, _, _, rfl, rfl, rfl, rfl⟩
theorem wit_LaneMoves_slide : ∃ s1 s2 t, let s := vs 2 7 1 0; Legal (.vslidei 2 0 0 0 15) s ∧ ReadsV 0 s ⟨7, false⟩ s1 ∧
    ReadsV (0 + 1) s1 ⟨1, false⟩ s2 ∧
    WritesV 2 ⟨rowOf 32 ((List.range 64).map (slidLane 64 false 16 (lanesBy 32 ⟨7, false⟩) (lanesBy 32 ⟨1, false⟩))), false⟩ 3 s2 t :=
  ⟨_, _, _, rfl, rfl, rfl, rfl⟩
theorem wit_LaneMoves_traps : ∃ s1 s1', let s := tileAt (ss 1 0 0); let s' := tileAt fun c => c.setS 1 ⟨1, true⟩;
    Legal (.vslide 2 59 1) s ∧ ReadsC 1 s 1 s1 ∧ (1 : Dword).getLsbD 9 = false ∧ 58 < (59 : BitVec 6).toNat ∧
    Legal (.vext 2 0 1) s' ∧ ReadsS 1 s' ⟨1, true⟩ s1' := ⟨_, _, rfl, rfl, rfl, by decide, rfl, rfl⟩
theorem wit_ReductionsAndDotProducts_int : ∃ s1 t, let s := vs 0 0x80 0 0; Legal (.vred 3 0 1) s ∧ ReadsV 0 s ⟨0x80, false⟩ s1 ∧ isInt (typeOf 0 s) = true ∧
    WritesS 3 ⟨BitVec.ofInt 64 (((lanesBy 8 ⟨0x80, false⟩).map (laneInt 0)).foldl min 0), false⟩ 10 s1 t := ⟨_, _, rfl, rfl, rfl, rfl⟩
theorem wit_ReductionsAndDotProducts_float : ∃ s1 s2, let s := vs 9 0 0 0; Legal (.vred 3 0 0) s ∧ ReadsV 0 s ⟨0, false⟩ s1 ∧ isFl (typeOf 0 s) = true ∧
    FlagsRaised (treeOf (laneAdd 9 { frmOf s with ftz := false }) 5 (lanesBy 64 ⟨0, false⟩)).2 false false s1 s2 := ⟨_, _, rfl, rfl, rfl, rfl⟩
theorem wit_ReductionsAndDotProducts_dots : ∃ s1 s2 s3 s4 t, let s := vs 2 0x80 0x80 1; Legal (.vdot4 2 0 1) s ∧ ReadsV 0 s ⟨0x80, false⟩ s1 ∧ ReadsV 1 s1 ⟨0x80, false⟩ s2 ∧
    ReadsOld 2 s2 ⟨1, false⟩ s3 ∧ FlagsRaised 0 false false s3 s4 ∧ WritesV 2 ⟨16385, false⟩ 4 s4 t := ⟨_, _, _, _, _, rfl, rfl, rfl, rfl, rfl, rfl⟩
theorem wit_ConversionAndTagWords_narrow : ∃ s1 s2 s3, let s := vs 0 300 0 9; Legal (.vcvt 2 0 2 3) s ∧ ReadsV 0 s ⟨300, false⟩ s1 ∧
    typeWidth 0 < typeWidth 2 ∧ ReadsOld 2 s1 ⟨9, false⟩ s2 ∧ FlagsRaised 0 true false s2 s3 := ⟨_, _, _, rfl, rfl, by decide, rfl, rfl⟩
theorem wit_ConversionAndTagWords_widen : ∃ s1 s2, let s := vs 2 5 0 9; Legal (.vcvt 2 0 0 3) s ∧ ReadsV 0 s ⟨5, false⟩ s1 ∧
    typeWidth 0 ≤ typeWidth 2 ∧ FlagsRaised 0 false false s1 s2 := ⟨_, _, rfl, rfl, by decide, rfl⟩
theorem wit_ConversionAndTagWords_stoch : ∃ s1 s2, let s := vs 6 5 0 9; Legal (.vcvts 2 0 1) s ∧ ReadsV 0 s ⟨5, false⟩ s1 ∧ ReadsOld 2 s1 ⟨9, false⟩ s2 :=
  ⟨_, _, rfl, rfl, rfl⟩
theorem wit_ConversionAndTagWords_tags : ∃ t t', Legal (.vtype 31 9) tile ∧ tile.m.isTile = true ∧ exec (.vtype 31 9) tile = .next t ∧
    t.m.tagOf 31 = 9 ∧ Legal (.vwin 3 31) tile ∧ exec (.vwin 3 31) tile = .next t' ∧ t'.m.csr 0x013 = 31 :=
  ⟨_, _, rfl, rfl, rfl, rfl, rfl, rfl, by decide⟩
theorem wit_ListRandomAndScaledWords_minmax : ∃ s1 s2 s3 s4, let s := vs 8 0x3F800000 0x7F800001 0; Legal (.fminmaxn 2 0 1) s ∧ FreeF s ∧
    ReadsV 0 s ⟨0x3F800000, false⟩ s1 ∧ ReadsV 1 s1 ⟨0x7F800001, false⟩ s2 ∧ FlagsRaised flagNV false false s2 s3 ∧
    FlagsRaised flagNV false false s3 s4 := ⟨_, _, _, _, rfl, by unfold FreeF; decide, rfl, rfl, rfl, rfl⟩
theorem wit_ListRandomAndScaledWords_rng : ∃ t, let s := vs 0 0 0 0; Legal (.rng 2) s ∧ FreeF s ∧
    WritesV 2 ⟨rowOf 8 ((List.range (2048 / 8)).map fun i => rngLane s i >>> (32 - 8)), false⟩ 4 (withAdv s (2048 / 8)) t :=
  ⟨_, rfl, by unfold FreeF; decide, rfl⟩
theorem wit_ListRandomAndScaledWords_part : ∃ s1 s2 t, let s := vs 2 5 0 0; Legal (.vpart 2 0 3) s ∧ FreeF s ∧ ReadsV 0 s ⟨5, false⟩ s1 ∧
    (let ls := lanesBy 32 ⟨5, false⟩; WritesV 2 ⟨rowOf 32 (((List.range ls.length).filter fun i => ls.getD i 0 ≠ 0) ++
      (List.range ls.length).filter fun i => ls.getD i 0 = 0), false⟩ 8 s1 s2 ∧
      WritesS 3 ⟨BitVec.ofNat 64 ((List.range ls.length).filter fun i => ls.getD i 0 ≠ 0).length, false⟩ 8 s2 t) :=
  ⟨_, _, _, rfl, by unfold FreeF; decide, rfl, rfl, rfl⟩
theorem wit_ListRandomAndScaledWords_top : ∃ s1 t, let s := vs 2 5 0 0; Legal (.vtopk 2 0 1 2) s ∧ FreeF s ∧ ReadsV 0 s ⟨5, false⟩ s1 ∧
    WritesV 2 ⟨rowOf 32 (topLanes 2 2 4 (lanesBy 32 ⟨5, false⟩)), false⟩ 8 s1 t := ⟨_, _, rfl, by unfold FreeF; decide, rfl, rfl⟩
theorem wit_ListRandomAndScaledWords_mxq : ∃ s1 s2 s3, let s := (tileAt fun c => (vt 8 0x3F800000 0 9 c).setCsr true 0x014 0xA88);
    Legal (.mxq 32 0 3) s ∧ FreeF s ∧ ReadsV 0 s ⟨0x3F800000, false⟩ s1 ∧ ReadsOld 32 s1 ⟨0, false⟩ s2 ∧ FlagsRaised 0 false false s2 s3 :=
  ⟨_, _, _, rfl, by unfold FreeF; decide, rfl, rfl, rfl⟩

/-! ### Statements on engines M and X -/

theorem wit_MatrixConfigurationAndStatus : ∃ t s1 t', let s := tileAt (ss (tagged tagW 0x3FFF00) (tagged tagW 1) 0);
    Legal (.mcfgT 4 5) tile ∧ exec (.mcfgT 4 5) tile = .next t ∧ Legal (.mcfgW 1) s ∧ ReadsC 1 s (tagged tagW 0x3FFF00) s1 ∧
    (tagOfAddr (tagged tagW 0x3FFF00) = tagW ∧ (tagged tagW 0x3FFF00).extractLsb' 22 38 = 0 ∧ (tagged tagW 0x3FFF00).extractLsb' 0 8 = 0) ∧
    Legal (.mcfgW 2) s ∧ ReadsC 2 s (tagged tagW 1) s ∧ (tagged tagW 1).extractLsb' 0 8 ≠ 0 ∧
    Legal (.mmask 32 64) tile ∧ exec (.mmask 32 64) tile = .next t' :=
  ⟨_, _, _, rfl, rfl, rfl, rfl, by decide, rfl, rfl, by decide, rfl, rfl⟩
/-- An operation of kind `k` on tile 31, and a fill of buffer 1. -/
def mop (k : Nat) : MOp := ⟨k, 31, 1, 0x00402000, 0, 6, 0, 0, false, 0, 0, 0⟩
def fill (ads : List Nat) : Fill := ⟨1, ads, 6, 0, 0⟩
theorem wit_MatrixConfigurationAndStatus_wait : let s := tileEng fun e => { e with mq := [mop 3], fills := [fill []] };
    Legal (.mwait 31 0) s ∧ ¬(∀ o ∈ s.old.core.eng.mq, o.tile ≠ 31) ∧ Legal (.mwait 30 0) s ∧ (∀ o ∈ s.old.core.eng.mq, o.tile ≠ 30) ∧
    Legal (.mwait 0 1) tile ∧ tile.old.core.eng.mq = [] ∧ Legal (.mstat 3) s ∧ ∃ t, WritesS 3 ⟨BitVec.ofNat 64 (1 + 8 * 0 + 16 * 1), false⟩ 1 s t :=
  ⟨rfl, by decide, rfl, by decide, rfl, rfl, rfl, _, rfl⟩
theorem wit_MatrixIssueWords_fill : ∃ s1 s2, let s := tileAt (ss (tagged tagS 0) 32 33); Legal (.mlda 1 1 2) s ∧ ReadsC 1 s (tagged tagS 0) s1 ∧
    ReadsC 2 s1 32 s2 ∧ tagOfAddr (tagged tagS 0) = tagS ∧ (tagged tagS 0).toNat % 32 = 0 ∧
    (((List.range 32).map fun (r : Nat) => (r : Int) * (32 : Dword).toInt).all fun o => 0 ≤ o ∧ o + 136 ≤ 0x80000) = true ∧
    s.old.core.eng.fills.length < 3 ∧ Legal (.mlda 1 1 3) s ∧ ReadsC 3 s1 33 s2 ∧ (33 : Dword).toNat % 32 ≠ 0 :=
  ⟨_, _, rfl, rfl, rfl, rfl, rfl, by decide, by decide, rfl, rfl, by decide⟩
theorem wit_MatrixIssueWords_gather : ∃ s1 s2, let s := tileAt fun c => ss (tagged tagA 0x3FFF80) 0 0 (vt 2 1 0 0 c); Legal (.mgath 0 1 0) s ∧
    ReadsC 1 s (tagged tagA 0x3FFF80) s1 ∧ ReadsV 0 s1 ⟨1, false⟩ s2 ∧ tagOfAddr (tagged tagA 0x3FFF80) = tagA ∧
    ¬((offOf (tagged tagA 0x3FFF80) : Int) + (laneAt 32 1 0 * 128 : Nat) + 128 ≤ 0x400000) := ⟨_, _, rfl, rfl, rfl, rfl, by decide⟩
/-- MCFG with WPTR at `w`. -/
def wptrAt (w : Nat) : State := tileAt fun c => c.setCsr true 0x01A (BitVec.ofNat 64 (w * 2 ^ 32 + 0x402000 + 0x66))
theorem wit_MatrixIssueWords_step : ∃ t, let s := wptrAt 0x3FE000; Legal (.mma 31 1) s ∧ s.m.isTile = true ∧ profOf s ≤ 7 ∧
    wptrOf (mcfgOf s) + stepFoot (atypeOf (mcfgOf s)) = 2 ^ 22 ∧ s.old.core.eng.mq.length < 4 ∧ exec (.mma 31 1) s = .next t ∧
    (let s' := wptrAt 0x3FE100; Legal (.mmaz 0 0) s' ∧ 2 ^ 22 < wptrOf (mcfgOf s') + stepFoot (atypeOf (mcfgOf s'))) ∧
    (let s' := tileAt fun c => c.setCsr true 0x003 8; Legal (.mma 0 0) s' ∧ 7 < profOf s') :=
  ⟨_, rfl, rfl, by decide, by decide, by decide, rfl, ⟨rfl, by decide⟩, rfl, by decide⟩
theorem wit_MatrixIssueWords_others : ∃ t t' s1 t'', let s := tileEng fun e => { e with hq := [(8, { bound := true, prod := 9 })] };
    Legal (.mdrain 31 8) s ∧ ((s.m.hq 8).bound = true ∧ (s.m.hq 8).prod = 9 ∧ (s.m.hq 8).items.length + (s.m.hq 8).resv + 32 ≤ hqDepth 8) ∧
    exec (.mdrain 31 8) s = .next t ∧ Legal (.mdrain 0 8) tile ∧ (tile.m.hq 8).bound = false ∧ Legal (.mzero 31 9) tile ∧
    exec (.mzero 31 9) tile = .next t' ∧ (let s' := tileAt (ss (tagged tagS 0x7E000) 0 0); Legal (.mfill 31 1 8) s' ∧
      ReadsC 1 s' (tagged tagS 0x7E000) s1 ∧ (tagOfAddr (tagged tagS 0x7E000) = tagS ∧ (tagged tagS 0x7E000).toNat % 256 = 0 ∧
        inSpace (tagged tagS 0x7E000) 8192 = true) ∧ exec (.mfill 31 1 8) s' = .next t'') ∧
    (let s' := tileEng fun e => { e with mq := [mop 3, mop 3, mop 3, mop 3] }; Legal (.mzero 0 8) s' ∧ 4 ≤ s'.old.core.eng.mq.length) :=
  ⟨_, _, _, _, rfl, by decide, rfl, rfl, rfl, rfl, rfl, ⟨rfl, rfl, by decide, rfl⟩, rfl, by decide⟩
/-- A running task with engines as given, and the event's agent its tile. -/
def running (f : Engs → Engs) : State := seated fun m => m.modCore fun c => validA (c.modEng f)
theorem wit_MatrixEvents_fill : ∃ t, let s := running fun e => { e with fills := [fill [tagS * 2 ^ 60, tagA * 2 ^ 60]] }; let c := s.m.agent 0;
    s.m.runs 0 = true ∧ c.eng.fills = [fill [tagS * 2 ^ 60, tagA * 2 ^ 60]] ∧ c.eng.ghalt = false ∧ c.eng.mq = [] ∧ c.mem.err = [] ∧
    raceAt c 1 0 (fillBytes 6) = none ∧ ((groupsOf 0 (fillBytes 6)).all fun g => (c.group false g).v) = true ∧
    exec .latchFill s = .next t := ⟨_, rfl, rfl, rfl, rfl, rfl, by decide, by decide, rfl⟩
theorem wit_MatrixEvents_op : ∃ t t' t'', let st := running fun e => { e with mq := [{ mop 1 with late := true }] };
    let dr := running fun e => { e with mq := [mop 2] }; let ze := running fun e => { e with mq := [mop 3] };
    st.m.runs 0 = true ∧ (st.m.agent 0).eng.mhalt = false ∧ Sound st.m 0 ∧ exec .matrixOpComplete st = .next t ∧
    exec .matrixOpComplete dr = .next t' ∧ exec .matrixOpComplete ze = .next t'' := ⟨_, _, _, rfl, rfl, ⟨rfl, rfl⟩, rfl, rfl, rfl⟩
theorem wit_MatrixEvents_step : ∃ t, let s := seated fun m => m.modCore fun c => { c with
      mem := { c.mem with wg := [(0, { v := true }), (1, { v := true })] },
      eng := { c.eng with mq := [{ mop 0 with cfg := 0x00400100 }] } }; let c := s.m.agent 0;
    c.eng.fills = [] ∧ rlimOf 0x00400100 = 1 ∧ climOf 0x00400100 = 64 ∧ Sound s.m 0 ∧
    ((groupsOf (wptrOf 0x00400100) (stepFoot 6)).all fun g => (c.group true g).v) = true ∧ exec .matrixOpComplete s = .next t :=
  ⟨_, rfl, by decide, by decide, ⟨rfl, rfl⟩, by decide, rfl⟩
theorem wit_MatrixEvents_transfer : ∃ t, let s := running fun e => { e with mq := [{ mop 5 with addr := tagged tagS 0x7E000 }] };
    tagOfAddr (tagged tagS 0x7E000) = tagS ∧ offOf (tagged tagS 0x7E000) + 8192 = 2 ^ 19 ∧
    raceAt (s.m.agent 0) 1 (offOf (tagged tagS 0x7E000) + 256 * 31) 256 = none ∧ exec .matrixOpComplete s = .next t :=
  ⟨_, rfl, rfl, by decide, rfl⟩
/-- A program of one step in S at 0: 16 bytes of header whose first byte is the number of steps. -/
def sePure (st : Nat) (prog : List Byte) : State := tileEng fun e => { e with se := [(3, { st := st, prog := prog })] }
theorem wit_StreamAndQueueWords_load : ∃ s1, let s := tileAt fun c => { ss (tagged tagS 0x7FFF0) (tagged tagS 8) 0 c with mem := { c.mem with sm := [] } };
    Legal (.sload 3 1) s ∧ ReadsC 1 s (tagged tagS 0x7FFF0) s1 ∧ (s.old.core.se 3).st ≠ 2 ∧ tagOfAddr (tagged tagS 0x7FFF0) = tagS ∧
    (tagged tagS 0x7FFF0).toNat % 16 = 0 ∧ inSpace (tagged tagS 0x7FFF0) 16 = true ∧
    ¬(1 ≤ byteAt (s1.m.core.mem.sm.readList (offOf (tagged tagS 0x7FFF0)) 16) 0) ∧ CleanS s1 (offOf (tagged tagS 0x7FFF0)) 16 ∧
    Legal (.sload 3 2) s ∧ ReadsC 2 s (tagged tagS 8) s ∧ (tagged tagS 8).toNat % 16 ≠ 0 :=
  ⟨_, rfl, rfl, by decide, rfl, by decide, rfl, by decide, ⟨by decide, rfl⟩, rfl, rfl, by decide⟩
theorem wit_StreamAndQueueWords_others : Legal (.sgo 3) (sePure 0 []) ∧ ((sePure 0 []).old.core.se 3).st ≠ 1 ∧ Legal (.sstop 3) (sePure 2 []) ∧
    ((sePure 2 []).m.core.se 3).st = 2 ∧ Legal (.swait 3) (sePure 2 []) ∧ Legal (.swait 0) (sePure 2 []) ∧ ((sePure 2 []).old.core.se 0).st = 0 := by
  refine ⟨rfl, by decide, rfl, rfl, rfl, rfl, rfl⟩
theorem wit_StreamAndQueueWords_queues : Legal (.qbind 12 8 0 3) tile ∧ prodOk 12 8 = true ∧ consOk 12 0 = true ∧ (tile.m.hq 12).bound = false ∧
    (let s := tileEng fun e => { e with hq := [(12, pushQ), (13, popQ (item 1))] };
      Legal (.qbind 15 8 1 0) s ∧ (s.m.hq 12).bound = true ∧ (s.m.hq 12).prod = 8 ∧ (s.m.hq 12).port = 0 ∧
      Legal (.qflush 13) s ∧ (s.m.hq 13).bound = true ∧ (s.m.hq 13).items.length < hqDepth 13 ∧ Legal (.qflush 0) s ∧ (s.m.hq 0).bound = false ∧
      Legal (.qstat 3 13) s ∧ ∃ t, WritesS 3 ⟨BitVec.ofNat 64 (1 + 0 + 2 ^ 15 * 1 + 2 ^ 16 * 0 + 2 ^ 20 * 5 + 2 ^ 24 * 0), false⟩ 1 s t) :=
  ⟨rfl, by decide, by decide, rfl, rfl, rfl, rfl, rfl, rfl, rfl, by decide, rfl, rfl, rfl, _, rfl⟩
/-- One step that pushes a mark into queue 12. -/
def markProg : List Byte := [1, 0, 1] ++ List.replicate 13 0 ++ [3, 0, 12] ++ List.replicate 61 0
theorem wit_StreamAndQueueWords_go : let s := tileEng fun e => { e with se := [(0, { st := 1, prog := markProg })], hq := [(12, { bound := true, prod := 1 })] };
    let e := s.old.core.se 0;
    Legal (.sgo 0) s ∧ e.st = 1 ∧ e.wellFormed = true ∧ e.nstep = 1 ∧ e.spaceOk 0 = true ∧ e.boundOk s.old.core 0 0 = true ∧
    exec (.sgo 0) s = .next (withSe s 0 { st := 2, prog := e.prog, nextAt := s.m.core.ctl.cyc + e.rate }) := ⟨rfl, rfl, by decide, by decide, by decide, by decide, rfl⟩
theorem wit_CopyWords_issue : ∃ s1 s2 s3 cmd, let s := tileAt (ss (tagged tagS 0x7FFE0) (tagged tagS 0) 32);
    Legal (.cpy 1 2 3) s ∧ ReadsC 1 s (tagged tagS 0x7FFE0) s1 ∧ ReadsC 2 s1 (tagged tagS 0) s2 ∧ ReadsC 3 s2 32 s3 ∧ ctlOk 0 32 = true ∧
    ctlQS 32 = false ∧ srcSpace 0 (tagOfAddr (tagged tagS 0)) = true ∧ sideOk (tagged tagS 0) 32 = true ∧
    CopySide (tagged tagS 0) 32 accRead .copySrc s3 [] s3 ∧ ctlQD 32 = false ∧ dstSpace 0 (tagOfAddr (tagged tagS 0x7FFE0)) = true ∧
    sideOk (tagged tagS 0x7FFE0) 32 = true ∧ CopySide (tagged tagS 0x7FFE0) 32 accWrite .copyDst s3 [] s3 ∧
    exec (.cpy 1 2 3) s = .next (withEng (withChan s3 (ctlCH 32) { s3.m.core.chan (ctlCH 32) with cmds := [cmd] }) fun e => { e with seq := e.seq + 1 }) :=
  ⟨_, _, _, _, rfl, rfl, rfl, rfl, by decide, rfl, by decide, by decide, rfl, rfl, by decide, by decide, rfl, rfl⟩
theorem wit_CopyWords_others : Legal (.cpym 1 2 3) (tileAt (ss 0 0 (2 ^ 36))) ∧ ctlOk 2 (2 ^ 36) = false ∧ ctlOk 1 (2 ^ 36) = true ∧
    ctlQD (2 ^ 36) = true ∧ Legal (.cwait 1 0 1) tile ∧ (tile.old.core.chan 1).cmds = [] ∧
    Legal (.cwait 1 1 0) (tileAt (ss 1 0 0)) ∧ ¬(1 ≤ ((tileAt (ss 1 0 0)).old.csr 0x045).toNat) ∧
    Legal (.cwpos 3 1) tile ∧ ∃ t, WritesS 3 ⟨tile.m.csr 0x045 + BitVec.ofNat 64 0, false⟩ 1 tile t ∧ exec (.cwpos 3 1) tile = .next t :=
  ⟨rfl, by decide, by decide, by decide, rfl, rfl, rfl, by decide, rfl, _, rfl, rfl⟩
/-- A task whose launch declares work queue 0 with four places, private to it, which holds `q`; and the queue's key. -/
def wqAt (q : WQ) (f : Core → Core := id) : State := tileAt f fun m =>
  (withLaunch (fun l => { l with img := { l.img with wqs := [4] } }) m).setWq (launchKey 0 1 * 4) q
theorem wit_WorkQueueWords_pop : ∃ s1 t s1' t' s1'' t'', let s := wqAt { cap := 4, items := [7] }; let c := wqAt { cap := 4, closed := true };
    let e := wqAt { cap := 4 }; let k := launchKey 0 1 * 4;
    Legal (.wpop 2 0 0) s ∧ s.m.myWq 0 = some k ∧ QueueSound s k ∧ NotGiven s k ∧ (s.m.wq k).poppers = [] ∧ (s.m.wq k).items[0]? = some 7 ∧
    WritesS 2 ⟨7, false⟩ 1 (withWq s k { cap := 4 }) s1 ∧
    WritesS 3 ⟨0, false⟩ 1 s1 t ∧ exec (.wpop 2 0 0) s = .next t ∧
    (c.m.wq k).closed = true ∧ WritesS 2 ⟨0, false⟩ 1 (withWq c k (c.m.wq k)) s1' ∧ WritesS (2 + 1) ⟨2, false⟩ 1 s1' t' ∧ exec (.wpop 2 0 1) c = .next t' ∧
    NothingFor (e.m.wq k) ∧ WritesS 2 ⟨0, false⟩ 1 e s1'' ∧ WritesS 3 ⟨1, false⟩ 1 s1'' t'' ∧
    exec (.wpop 2 0 1) e = .next t'' ∧ e.stamped = false ∧ Issuing e ∧ Legal (.wpop 2 0 0) e :=
  ⟨_, _, _, _, _, _, rfl, rfl, ⟨rfl, rfl⟩, (fun _ h => nomatch h), rfl, rfl, rfl, rfl, rfl, rfl, rfl, rfl, rfl,
    ⟨fun _ => rfl, fun h => absurd rfl h⟩, rfl, rfl, rfl, rfl, (fun _ h => by cases h; rfl), rfl⟩
/-- A pop that waited has been given an item. -/
theorem wit_WorkQueueWords_given : ∃ s1 t, let k := launchKey 0 1 * 4; let s := wqAt { cap := 4 } fun c => c.modEng fun e => { e with wgot := some (k, 0, 9) };
    Legal (.wpop 2 0 0) s ∧ s.m.myWq 0 = some k ∧ QueueSound s k ∧ s.m.core.eng.wgot = some (k, 0, 9) ∧
    WritesS 2 ⟨9, false⟩ 1 (withEng s fun e => { e with wgot := none }) s1 ∧ WritesS 3 ⟨0, false⟩ 1 s1 t ∧ exec (.wpop 2 0 0) s = .next t :=
  ⟨_, _, rfl, rfl, ⟨rfl, rfl⟩, rfl, rfl, rfl, rfl⟩
/-- Task 0, on site 0, waits first in the line. -/
theorem wit_WorkQueueWords_serves : let k := launchKey 0 1 * 4; let m := (wqAt { cap := 4, items := [7], poppers := [0] }).m;
    (m.wq k).poppers = [0] ∧ (m.wq k).items = [7] ∧ (m.wq k).closed = false ∧ ((wqServeAll m k).agent 0).eng.wgot = some (k, 0, 7) :=
  ⟨rfl, rfl, rfl, rfl⟩
theorem wit_WorkQueueWords_queue : ∃ t, let s := wqAt { cap := 4, items := [7] } fun c => c.setHq 12 { bound := true, prod := 10 };
    Legal (.wpopQ 0 0 12) s ∧ s.m.myWq 0 = some (launchKey 0 1 * 4) ∧ (s.m.hq 12).bound = true ∧ (s.m.hq 12).prod = 10 ∧
    (s.m.hq 12).items.length + (s.m.hq 12).resv + 2 ≤ hqDepth 12 ∧ s.m.core.eng.wpops = [] ∧ QueueSound s (launchKey 0 1 * 4) ∧
    Unarmed s.m (panelOf s.m.me) ∧ exec (.wpopQ 0 0 12) s = .next t ∧
    Legal (.wpopQ 0 0 13) s ∧ (s.m.hq 13).bound = false := ⟨_, rfl, rfl, rfl, rfl, by decide, rfl, ⟨rfl, rfl⟩, rfl, rfl, rfl, rfl⟩
theorem wit_WorkQueueWords_push : ∃ s1 t t' u, let s := wqAt { cap := 4, items := [1, 2, 3] } (ss 9 0 0); let f := wqAt { cap := 4, items := [1, 2, 3, 4] } (ss 9 0 0);
    let k := launchKey 0 1 * 4;
    Legal (.wpush 2 1 0 0) s ∧ ReadsC 1 s 9 s1 ∧ s1.m.myWq 0 = some k ∧ QueueSound s1 k ∧ (s1.m.wq k).items.length + 0 < (s1.m.wq k).cap ∧
    WritesS 2 ⟨1, false⟩ 1 (withWq s1 k { cap := 4, items := [1, 2, 3, 9] }) t ∧ exec (.wpush 2 1 0 0) s = .next t ∧
    (f.m.wq k).cap ≤ (f.m.wq k).items.length ∧ WritesS 2 ⟨0, false⟩ 1 f t' ∧ exec (.wpush 2 1 0 1) f = .next t' ∧
    Legal (.wclose 0) s ∧ exec (.wclose 0) s = .next u ∧ Legal (.wclose 1) s ∧ s.m.myWq 1 = none :=
  ⟨_, _, _, _, rfl, rfl, rfl, ⟨rfl, rfl⟩, by decide, rfl, rfl, by decide, rfl, rfl, rfl, rfl, rfl, rfl⟩

/-- A descriptor of a seam set: a window of one token, one expert a token, FP32 in and out, to a global buffer; and that set,
open under handle 0 of panel 0 for the task. -/
def desc : List Byte := [1, 0, 1, 0x88, 0, 0, 1, 0, 0, 0, 0, 0, 1, 0, 0, 0] ++ List.replicate 48 0
def seamH : Dword := 0x8000000000000000
def set1 (f : SeamSet → SeamSet := id) : SeamSet := f { isOpen := true, launch := launchKey 0 1, desc := desc }
def seamAt (f : Core → Core := id) (g : SeamSet → SeamSet := id) : State :=
  tileAt (fun c => (f c).modEng fun e => { e with handles := [setKey 0 0 0] }) fun m => m.setSet (setKey 0 0 0) (set1 g)
theorem wit_SeamWords_open : ∃ s1, let s := tileAt fun c => { ss (tagged tagS 64) 0 0 c with mem := { c.mem with sm := Memory.writeList [] 64 desc } };
    Legal (.seamo 3 1) s ∧ ReadsC 1 s (tagged tagS 64) s1 ∧ tagOfAddr (tagged tagS 64) = tagS ∧ (tagged tagS 64).toNat % 64 = 0 ∧
    inSpace (tagged tagS 64) 64 = true ∧ CleanS s1 (offOf (tagged tagS 64)) 64 ∧
    descOk (s1.m.core.mem.sm.readList (offOf (tagged tagS 64)) 64) (s1.m.partn s1.m.core.ctl.part).mask (s1.m.launch s1.m.myTask.launch).tasks = true ∧
    TakesS s1 3 ∧ roomWaits s1.m s1.m.myTask.launch desc = false :=
  ⟨_, rfl, rfl, rfl, rfl, rfl, ⟨rfl, rfl⟩, by decide, takesS_of_free (by decide) (.inr ⟨rfl, by decide⟩), by decide⟩
theorem wit_SeamWords_gate : ∃ s1 s2 s3 u, let s := seamAt fun c => ss seamH 0 0 (vt 2 3 0 0 c); Legal (.seamg 1 2 0) s ∧ ReadsC 1 s seamH s1 ∧
    ReadsC 2 s1 0 s2 ∧ ReadsV 0 s2 ⟨3, false⟩ s3 ∧ KnowsSet s3 seamH (setKey 0 0 0) set1 ∧ descK desc = 1 ∧ laneAt 32 3 0 ≤ 0xFFFF ∧
    sendBlocked s3.m.core.eng (descStripe desc) = false ∧ s3.m.placeOf s3.m.myTask = some s3.m.me ∧ exec (.seamg 1 2 0) s = .next u :=
  ⟨_, _, _, _, rfl, rfl, rfl, rfl, ⟨rfl, .head _⟩, rfl, by decide, rfl, rfl, rfl⟩
theorem wit_SeamWords_put : ∃ s1 s2 s3, let s := seamAt fun c => ss seamH 0 0 (vt 2 3 0 0 c); Legal (.seamp 1 2 0) s ∧ ReadsC 1 s seamH s1 ∧
    ReadsC 2 s1 0 s2 ∧ KnowsSet s2 seamH (setKey 0 0 0) set1 ∧ descSlab desc * descISz desc = 256 ∧
    ReadsV 0 (usedHandle s2 (setKey 0 0 0)) ⟨3, false⟩ s3 ∧ sendBlocked s3.m.core.eng [(set1).panelFor 0] = false ∧
    s3.m.placeOf s3.m.myTask = some s3.m.me := ⟨_, _, _, rfl, rfl, rfl, ⟨rfl, .head _⟩, rfl, rfl, rfl, rfl⟩
theorem wit_SeamWords_status : ∃ s1 s2 u, let s := seamAt (ss seamH 0 0); Legal (.seams 3 1 2) s ∧ ReadsC 1 s seamH s1 ∧ ReadsC 2 s1 0 s2 ∧
    KnowsSet s2 seamH (setKey 0 0 0) set1 ∧ TakesS s2 3 ∧ WritesS 3 ⟨BitVec.ofNat 64 (seamStatus set1 0 0 0), false⟩ 1 (usedHandle s2 (setKey 0 0 0)) u :=
  ⟨_, _, _, rfl, rfl, rfl, ⟨rfl, .head _⟩, takesS_of_free (by decide) (.inr ⟨rfl, by decide⟩), rfl⟩
theorem wit_SeamWords_settle : ∃ s1 s2 u, let s := seamAt (ss seamH 0 0) fun x => x.setSlot 0 { token := 0, st := 3 };
    Legal (.seamcSettle 2 1) s ∧ ReadsC 1 s seamH s1 ∧ ReadsC 2 s1 0 s2 ∧
    KnowsSet s2 seamH (setKey 0 0 0) (set1 fun x => x.setSlot 0 { token := 0, st := 3 }) ∧ s2.m.myTask = (set1).owner_ ∧
    ((set1 fun x => x.setSlot 0 { token := 0, st := 3 }).slots.map Prod.fst).Nodup ∧ exec (.seamcSettle 2 1) s = .next u := ⟨_, _, _, rfl, rfl, rfl, ⟨rfl, .head _⟩, rfl, by decide, rfl⟩
theorem wit_SeamWords_close : ∃ s1 u u', let s := seamAt (ss seamH 0 0); let c := seamAt (ss seamH 0 0) fun x => { x with isOpen := false };
    Legal (.seamcClose 3 1) s ∧ ReadsC 1 s seamH s1 ∧ KnowsSet s1 seamH (setKey 0 0 0) set1 ∧ s1.m.myTask = (set1).owner_ ∧ TakesS s1 3 ∧
    (set1).pick (fun y => y.st == 1 || y.st == 2 || y.st == 3 || y.st == 4) = [] ∧ exec (.seamcClose 3 1) s = .next u ∧
    ReadsC 1 c seamH c ∧ handleState c.m c.m.myTask.launch seamH = .closed (setKey 0 0 0) ∧ setKey 0 0 0 ∈ c.m.core.eng.handles ∧
    TakesS c 3 ∧ WritesS 3 ⟨0, false⟩ 1 c u' ∧ exec (.seamcClose 3 1) c = .next u' ∧
    (let b := tileAt (ss 5 0 0); Legal (.seams 3 1 2) b ∧ ReadsC 1 b 5 b ∧ handleState b.m b.m.myTask.launch 5 = .bad ∧ b.stamped = false ∧ Issuing b) :=
  ⟨_, _, _, rfl, rfl, ⟨rfl, .head _⟩, rfl, takesS_of_free (by decide) (.inr ⟨rfl, by decide⟩), rfl, rfl, rfl, rfl, .head _,
    takesS_of_free (by decide) (.inr ⟨rfl, by decide⟩), rfl, rfl, rfl, rfl, rfl, rfl, fun _ h => by cases h; rfl⟩
/-- A handle that the tile does not hold yet. -/
theorem wit_SeamWords_fetch : let s := (fun (s : State) => { s with m := s.m.modEng fun e => { e with handles := [] } }) (seamAt (ss seamH 0 0));
    handleState s.m s.m.myTask.launch seamH = .opened (setKey 0 0 0) set1 ∧ setKey 0 0 0 ∉ s.m.core.eng.handles ∧ Issuing s :=
  ⟨rfl, by decide, fun _ h => by cases h; rfl⟩

/-- A descriptor of a collective over the gang: all-reduce (operation 0) of one FP32 in a global buffer. -/
def collDesc : List Byte := [0, 8, 1, 0, 1, 0, 0, 0, 0, 0, 1] ++ List.replicate 53 0
theorem wit_CollectiveAndLifetimeWords_coll : ∃ s1 s2 s3, let s := mapped 2 (tagged tagS 0) 0 0;
    let s := { s with m := s.m.modMem fun x => { x with sm := Memory.writeList [] 0 collDesc } };
    Legal (.coll 3 1) s ∧ ReadsC 1 s (tagged tagS 0) s1 ∧ CleanS s1 0 64 ∧ s1.m.core.mem.sm.readList 0 64 = collDesc ∧ collOk s1.m collDesc = true ∧
    bufOk collDesc (collBuf collDesc) (collBytes collDesc) = true ∧ collOp collDesc = 0 ∧ SMap.get (fun _ => 0) s1.m.core.eng.colls 0 = 0 ∧
    CopySide (collBuf collDesc) (collBytes collDesc) accRead .copyDst s1 [2048] s2 ∧
    CopySide (collBuf collDesc) (collBytes collDesc) accWrite .copyDst s2 [2048] s3 ∧ copyHolds s1.m s1.m.core.ctl.part 2048 = false ∧ TakesS s3 3 :=
  ⟨_, _, _, rfl, rfl, ⟨rfl, rfl⟩, by decide, by decide, by decide, rfl, rfl, rfl, rfl, by decide,
    takesS_of_free (by decide) (.inr ⟨rfl, by decide⟩)⟩
theorem wit_CollectiveAndLifetimeWords_wait : ∃ t t', let s := tileAt fun c => (ss 7 6 5 c).modEng fun e => { e with colls := [(6, 5), (7, 4)] };
    Legal (.collw 4 1 0) s ∧ ReadsC 1 s 7 s ∧ WritesS 4 ⟨1, false⟩ 1 (withEng s fun e => { e with colls := SMap.erase e.colls 7 }) t ∧
    exec (.collw 4 1 0) s = .next t ∧ ReadsC 2 s 6 s ∧ WritesS 4 ⟨3, false⟩ 1 s t' ∧ exec (.collw 4 2 1) s = .next t' ∧
    ReadsC 3 s 5 s ∧ SMap.get (fun _ => 0) s.m.core.eng.colls 5 = 0 ∧ TakesS s 4 :=
  ⟨_, _, rfl, rfl, rfl, rfl, rfl, rfl, rfl, rfl, rfl, takesS_of_free (by decide) (.inr ⟨rfl, by decide⟩)⟩
theorem wit_CollectiveAndLifetimeWords_life : ∃ t t' u, let s := tileAt fun c => validA (ss (tagged tagA 0) 8192 0 c); Legal (.life 1 2 3 1) s ∧
    ReadsC 1 s (tagged tagA 0) s ∧ ReadsC 2 s 8192 s ∧ LifeRange (tagged tagA 0) 8192 false [0, 1] ∧ exec (.life 1 2 3 1) s = .next t ∧
    exec (.refr 1 2) s = .next t' ∧ Legal (.ageq 4 1) s ∧ LifeRange (tagged tagA 0) 1 false [0] ∧ TakesS s 4 ∧
    WritesS 4 ⟨BitVec.ofNat 64 (2 ^ 31 + 0 + 0 % 4 * 2 ^ 28 + 0 % 4096), false⟩ 2 s u :=
  ⟨_, _, _, rfl, rfl, rfl, ⟨rfl, rfl, rfl⟩, rfl, rfl, rfl, ⟨rfl, rfl, rfl⟩, takesS_of_free (by decide) (.inr ⟨rfl, by decide⟩), rfl⟩

/-! ### Statements on engine S -/

/-- A command core at level `l`. -/
def ccLvl (l : Nat) : State := ccAt fun c => c.setCsr false 0x800 (BitVec.ofNat 64 l)
theorem wit_PlainSystemWords : ∃ t u, Legal .nop cc ∧ Legal (.bar 0) tile ∧ exec (.bar 0) tile = .next t ∧ t.m.csr 0x034 = 1 ∧
    Legal (.bar 2) tile ∧ HasLevel tile 2 ∧ NoWait tile ∧ (∀ e ∈ tile.old.core.ctl.barq, e.1 ≠ 2) ∧ Legal (.barq 3 1) tile ∧ HasLevel tile 1 ∧ TakesS tile 3 ∧ exec (.barq 3 1) tile = .next u ∧
    Legal (.fence 4) tile ∧ exec (.fence 4) tile = .next (waiting tile (.fence 4)) ∧
    Legal (.bh 1 1 7 0xFFFF) tile ∧ Legal (.kx 0x3FFFFFF) cc :=
  ⟨_, _, rfl, rfl, rfl, by decide, rfl, by unfold HasLevel; decide, rfl, (fun _ h => nomatch h), rfl, by unfold HasLevel; decide,
    takesS_of_free (by decide) (.inr ⟨rfl, by decide⟩), rfl, rfl, rfl, rfl, rfl⟩
/-- A BAR of level 2 after a BARQ of that level that wrote 7; a BARQ of level 0. -/
theorem wit_PlainSystemWords_joins : ∃ t u, let s := tileCtl fun k => { k with barq := [(2, 7)] }; Legal (.bar 2) s ∧ NoWait s ∧
    (s.old.core.ctl.barq.find? fun e => e.1 == 2) = some (2, 7) ∧ exec (.bar 2) s = .next t ∧ t.m.core.ctl.wait = .bar 2 7 ∧
    exec (.bar 0) tile = .next u ∧ Legal (.barq 3 0) tile ∧ TakesS u 3 :=
  ⟨_, _, rfl, rfl, rfl, rfl, rfl, rfl, rfl, takesS_of_free (by decide) (.inr ⟨rfl, by decide⟩)⟩
theorem wit_PlainSystemWords_poison : ∃ t t' t'', let s := tileAt fun c => (c.setS 1 ⟨7, true⟩).setP 2 ⟨true, true⟩;
    Legal (.chk 0 1 1) s ∧ ReadsPoison 0 1 s true s ∧ InStore s 4 ∧ ReadsPoison 0 2 s false s ∧ Legal (.chk 0 1 0x3FF) s ∧
    ¬InStore s (BitVec.ofInt 64 (-4)) ∧ Legal (.chkt 2 2) s ∧ ReadsPoison 2 2 s true s ∧ ReadsPoison 1 5 s false s ∧
    exec (.chkt 2 2) s = .next (stopState (.trap 0x04 130) s) ∧ Legal (.pclr 0 1) s ∧ ReadsS 1 s ⟨7, true⟩ s ∧
    WritesS 1 ⟨7, false⟩ 1 s t ∧ exec (.pclr 0 1) s = .next t ∧ Legal (.pclr 2 2) s ∧ WritesP 2 ⟨true, false⟩ 1 s t' ∧
    exec (.pclr 2 2) s = .next t' ∧ Legal (.pclr 1 5) s ∧ ReadsV 5 s ⟨0, false⟩ s ∧ exec (.pclr 1 5) s = .next t'' :=
  ⟨_, _, _, rfl, .inl ⟨rfl, _, rfl⟩, by unfold InStore; decide, .inl ⟨rfl, _, rfl⟩, rfl, by unfold InStore; decide, rfl,
    .inr (.inr ⟨rfl, _, rfl⟩), .inr (.inl ⟨rfl, _, rfl⟩), rfl, rfl, rfl, rfl, rfl, rfl, rfl, rfl, rfl, rfl, rfl⟩
theorem wit_TrapsAndReturns_words : trap3 (.vadd 0 0 0) (tileAt (vt 3 0 0 0)).old = some (0x01, 0) ∧ trap3 .halt (ccLvl 1).old = some (0x0E, 0) ∧
    (Instr.halt, 2) ∈ privOf 0 0 0 0 0 ∧ (ccLvl 1).old.level < 2 ∧ Legal (.trap 0xFFF) cc ∧ Legal (.brk 0) tile ∧ Legal .ecall (ccLvl 0) ∧
    Legal .ecall cc ∧ cc.old.level = 2 :=
  ⟨rfl, rfl, by decide, by decide, rfl, rfl, rfl, rfl, by decide⟩
theorem test_ecall : exec .ecall (ccLvl 0) = .next (stopState (.trap 0x0F 0) (ccLvl 0)) := rfl
/-- A task whose handler's first word has an uncorrectable error. -/
def badHandler : State := tileAt fun c => c.setErr 2 0 2
theorem wit_TrapsAndReturns_entry : (tile.old.isTile = true ∧ (tile.old.csr 0x024).getLsbD 0 = false ∧
      errIn tile.old.core 2 (tile.old.csr 0x020 &&& 0xFFFC).toNat 4 < 2 ∧ tile.old.sys.wqs = []) ∧
    (badHandler.old.isTile = true ∧ errIn badHandler.old.core 2 (badHandler.old.csr 0x020 &&& 0xFFFC).toNat 4 = 2 ∧
      badHandler.old.core.ctl.task.isSome = true) ∧
    (tile.old.csr 0x024).getLsbD 1 = true ∧ tile.old.core.ctl.task = some ⟨launchKey 0 1, 0⟩ ∧
    ((tile.old.launch (launchKey 0 1)).gang ((tile.old.launch (launchKey 0 1)).gangOf 0)).st = 1 ∧
    (ccLvl 0).old.isTile = false ∧ (ccLvl 0).old.level = 0 ∧ (ccLvl 1).old.level ≠ 0 := by decide
theorem wit_TrapsAndReturns_issuing : Issuing tile ∧ Issuing badHandler ∧ Issuing (ccLvl 0) :=
  ⟨fun _ h => by cases h; rfl, fun _ h => by cases h; rfl, fun _ h => by cases h; rfl⟩
theorem wit_TrapsAndReturns_return : ∃ t t' t'', let s := tileAt fun c => (c.setCsr true 0x022 0xFFFC).modCtl fun k => { k with loop := some ⟨0, 0x10000, 3, 1, 1, true⟩ };
    Legal .tret s ∧ s.m.me = s.old.me ∧ s.old.isTile = true ∧ exec .tret s = .next t ∧ Legal .tret (ccLvl 0) ∧
    exec .tret (ccLvl 0) = .next (stopState (.trap 0x0E (ccLvl 0).wordBits) (ccLvl 0)) ∧ Legal .tret (ccLvl 1) ∧ exec .tret (ccLvl 1) = .next t' ∧
    t'.m.level = 0 ∧ exec .tret cc = .next t'' := ⟨_, _, _, rfl, rfl, rfl, rfl, rfl, rfl, rfl, rfl, by decide, rfl⟩
theorem wit_YieldsAndWaits_yield : let s := tileCtl fun k => { k with yieldReq := true }; Legal .yield s ∧ s.old.core.ctl.yieldReq = true ∧
    s.old.core.ctl.loop = none ∧ NoWait s ∧ exec .yield s = .next (waiting (takenS s (bundleNext s)) .yielded) ∧ Legal .yield tile ∧ exec .yield tile = .next tile :=
  ⟨rfl, rfl, rfl, rfl, rfl, rfl, rfl⟩
theorem wit_YieldsAndWaits_words : ∃ t u s1, let s := tileAt id (withLaunch fun l => { l with img := { l.img with sw := [(4, 8, 12)] } });
    let w := tileAt (ss 0xFFFFFFFF 0 0); Legal (.swpt 0) s ∧ exec (.swpt 0) s = .next t ∧ t.m.core.rf.npc = 4 ∧ Legal (.swpt 1) s ∧
    (s.old.launch s.old.myTask.launch).img.sw.length = 1 ∧ Legal .done tile ∧ NoWait tile ∧ exec .done tile = .next u ∧
    Legal (.waite 59 1 1) w ∧ ReadsC 1 w 0xFFFFFFFF s1 ∧ NoWait s1 ∧ (0xFFFFFFFF : Dword).toNat < 2 ^ 32 ∧ s1.stamped = false ∧ FreeS s1 59 ∧
    exec (.waite 59 1 1) w = .next (waiting s1 (.event 59 1 (some (s1.old.sys.ns + 1000 * (0xFFFFFFFF : Dword).toNat)))) :=
  ⟨_, _, _, rfl, rfl, by decide, rfl, rfl, rfl, rfl, rfl, rfl, rfl, rfl, by decide, rfl, .inr ⟨rfl, by decide⟩, rfl⟩
theorem wit_YieldsAndWaits_gcond : ∃ s1 s2 s3, let s := tileAt (ss 256 1 0); let g := tileAt (ss 255 1 0) (withLaunch fun l => { l with origin := ⟨1, 0, 0, 0⟩ });
    ReadsC 1 s 256 s1 ∧ Legal (.gcond 1 2) s ∧ ReadsC 2 g 1 g ∧ (g.old.launch g.old.myTask.launch).origin.kind = 1 ∧ NoWait g ∧
    (let c := ccAt (ss 0xFFE000000002000 1 0) withPart; Legal (.gcond 1 2) c ∧ ReadsC 1 c 0xFFE000000002000 c ∧ ReadsC 2 c 1 s2 ∧
      tagOfAddr 0xFFE000000002000 = 0 ∧
      reachCC ⟨0xFFE000000002000, false⟩ 8 8 accWrite false s2 = .ok (some (.phys [(0x2000, 8)]), s3) ∧ keyErased s3.m 0x2000 = false ∧
      injHits s3.m (panelOfPa 0x2000) 10 0 0x2000 8 = false) := ⟨_, _, _, rfl, rfl, rfl, rfl, rfl, rfl, rfl, rfl, rfl, rfl, rfl, rfl⟩
theorem wit_YieldsAndWaits_done : ∃ t, let s := seated fun m => m.modCtl fun c => { c with wait := .done }; let k : TaskId := ⟨launchKey 0 1, 0⟩;
    (s.m.agent 0).ctl.task = some k ∧ s.m.runs 0 = true ∧ (s.m.agent 0).ctl.wait = .done ∧ (s.m.agent 0).doneQuiet = true ∧
    (∀ j, (s.m.launch j).phaseHold = false ∧ ∀ g, ((s.m.launch j).gang g).toPhase = false) ∧ s.m.placeOf k = some 0 ∧ (s.m.launch k.launch).gangTasks 0 = [0] ∧ (s.m.launch k.launch).img.g = 1 ∧ exec .taskDone s = .next t ∧
    t.m.hasLaunch k.launch = false := ⟨_, rfl, rfl, rfl, rfl, never_phased rfl rfl rfl, rfl, rfl, rfl, rfl, rfl⟩
theorem wit_YieldsAndWaits_timeout : ∃ t, let s := seated fun m => m.modCtl fun c => { c with wait := .event 59 1 (some 0) };
    (s.m.agent 0).ctl.wait = .event 59 1 (some 0) ∧ 0 ≤ s.m.sys.ns ∧ eventBits s.m 0 &&& 1 = 0 ∧ exec .waiteTimeout s = .next t ∧
    (t.m.agent 0).s 59 = ⟨0x8000000000000000, false⟩ := ⟨_, rfl, by decide, rfl, rfl, by decide⟩
/-- The command core of the panel on whose site 0 the task of launch 1 runs; s1 to s3 hold `x`, `y`, `z`. -/
def onCore (x y z : Dword) (f : Mach → Mach := id) : State :=
  openBundle { State.reset with m := (f ((seatTask State.reset.m).focus 1152)).modCore (ss x y z) } [0]
/-- The gang in state `st`, frozen on its site for `st` 3. -/
def gangIn (g : Gang) (m : Mach) : Mach :=
  (withLaunch (fun l => { l with gangs := [(0, g)] }) m).setSite 0 { m.site 0 with rst := 3, tst := 3 }
theorem wit_GangAndSiteWords_none : ∃ t, let s := onCore 0x20000 0 0; Legal (.frz 3 1 0) s ∧ ReadsC 1 s 0x20000 s ∧ GangForm 0x20000 ∧
    gangNamed s.m 0x20000 = none ∧ WritesS 3 ⟨1, false⟩ 1 s t ∧ exec (.frz 3 1 0) s = .next t ∧ Legal (.thaw 3 1 2) s ∧ ReadsC 2 s 0 s ∧
    ThawForm 0 ∧ TakesS s 3 := ⟨_, rfl, rfl, by unfold GangForm; decide, rfl, rfl, rfl, rfl, rfl, by unfold ThawForm; decide,
    takesS_of_free (by decide) (.inr ⟨rfl, by decide⟩)⟩
theorem wit_GangAndSiteWords_freeze : ∃ t t' t'', let s := onCore 0x10000 0 0; let p := onCore 0x10000 0 0 (gangIn { st := 3 }); let k := launchKey 0 1;
    Legal (.frz 3 1 0) s ∧ ReadsC 1 s 0x10000 s ∧ gangNamed s.m 0x10000 = some (k, 0) ∧ ((s.m.launch k).gang 0).st = 1 ∧
    ((s.m.launch k).gang 0).askedAt = none ∧ gangCrashed s.m k 0 = false ∧ TakesS s 3 ∧ exec (.frz 3 1 0) s = .next t ∧
    t.m.core.s 3 = ⟨0, false⟩ ∧ exec (.frz 3 1 1) s = .next t' ∧ exec (.frz 3 1 0) p = .next t'' ∧ t''.m.core.s 3 = ⟨2, false⟩ :=
  ⟨_, _, _, rfl, rfl, rfl, rfl, rfl, rfl, takesS_of_free (by decide) (.inr ⟨rfl, by decide⟩), rfl, rfl, rfl, rfl, rfl⟩
theorem get_one {α : Type} (d v : α) (P : Nat) : SMap.get (fun _ => d) [(0, v)] P = if P = 0 then v else d := rfl
theorem never_stalled {m : Mach} (h : m.sys.hbmStacks = []) (ps : List (Nat × Nat)) : m.stalled ps = false := by
  unfold Mach.stalled Mach.stack
  rw [h]
  exact List.any_eq_false.2 fun _ _ => Bool.false_ne_true
theorem wit_GangAndSiteWords_park : let k := launchKey 0 1;
    let p := onCore 0x10000 0 0 fun m => gangIn { st := 3 } (m.setVf 1 { m.vf 1 with saves := [(0, taskKey ⟨k, 0⟩)] });
    Legal (.park 3 1) p ∧ ReadsC 1 p 0x10000 p ∧ gangNamed p.m 0x10000 = some (k, 0) ∧ ((p.m.launch k).gang 0).st = 3 ∧
    ((p.m.launch k).gang 0).saved = false ∧ gangCrashed p.m k 0 = false ∧ (∀ ps, p.m.stalled ps = false) ∧
    (p.m.launch k).gangTasks 0 = [0] ∧ (p.m.site ((p.m.launch k).siteFor 0)).occ = some ⟨k, 0⟩ ∧
    (∃ e ∈ (p.m.vf (p.m.launch k).vf).saves, e.2 = taskKey ⟨k, 0⟩) ∧ TakesS p 3 :=
  ⟨rfl, rfl, rfl, rfl, rfl, rfl, never_stalled rfl, rfl, rfl, ⟨_, .head _, rfl⟩, takesS_of_free (by decide) (.inr ⟨rfl, by decide⟩)⟩
theorem soundInboxes_of {m : Mach} {c : Core} {x : Panel} (h2 : m.rest = [(0, c)]) (h3 : m.core.rf.csr = [])
    (h4 : m.sys.panels = [(0, x)]) (h5 : x.inbox = []) : SoundInboxes m := by
  intro p
  refine ⟨?_, fun q hq => ?_⟩
  · unfold Unarmed Mach.ccCsr Mach.agent
    split
    · unfold Core.csr; rw [h3]; rfl
    · rw [h2, get_one, if_neg (by unfold ccOf; omega)]; rfl
  · unfold Mach.panel at hq
    rw [h4, get_one] at hq
    split at hq
    · rw [h5] at hq; nomatch hq
    · nomatch hq
theorem wit_GangAndSiteWords_thaw : let s := onCore 0x10000 0 0 (gangIn { st := 3 }); let k := launchKey 0 1; Legal (.thaw 3 1 2) s ∧ ReadsC 2 s 0 s ∧ ThawForm 0 ∧
    ReadsC 1 s 0x10000 s ∧ gangNamed s.m 0x10000 = some (k, 0) ∧ TakesS s 3 ∧ ((s.m.launch k).gang 0).st = 3 ∧ faultPending s.m k 0 = false ∧
    ((s.m.launch k).gang 0).toPhase = false ∧ gangCrashed s.m k 0 = false ∧ inPlace s.m k 0 = true ∧ mayThaw s.m k 0 0 = true ∧ SoundInboxes s.m ∧
    (let u := onCore 0x10000 0x8000000000000000 0 fun m => (gangIn { st := 3, saved := true } m).setSite 0 { rst := 2, holder := ccHolder 1152 };
      ReadsC 2 u 0x8000000000000000 u ∧ ThawForm 0x8000000000000000 ∧ rectSites 1 1 (0, 0, 0) = [0] ∧ HoldsSite u.m 2 0 ∧
      mayThaw u.m k 0 0 = true ∧ ((u.m.launch k).gang 0).saved = true) := ⟨rfl, rfl, by unfold ThawForm; decide, rfl, rfl, takesS_of_free (by decide) (.inr ⟨rfl, by decide⟩), rfl, rfl, rfl, rfl, rfl, rfl,
    soundInboxes_of rfl rfl rfl rfl, rfl, by unfold ThawForm; decide, by decide, ⟨rfl, rfl, rfl⟩, rfl, rfl⟩
/-- All sites of panel 0 are enabled. -/
def sitesOn (m : Mach) : Mach := (withPart m).modPanel 0 fun p => { p with psmap := 2 ^ 36 - 1 }
theorem wit_GangAndSiteWords_sites : ∃ t t', let s := ccAt (ss 0 0 0) sitesOn; Legal (.sitec 3 1 2) s ∧ ReadsC 1 s 0 s ∧ ReadsC 2 s 0 s ∧ RectForm 0 ∧
    RectIn s.m 0 ∧ (∀ j ∈ rectOf 0, (s.m.site j).rst = 0) ∧ TakesS s 3 ∧ exec (.sitec 3 1 2) s = .next t ∧ t.m.core.s 3 = ⟨0, false⟩ ∧
    Legal (.siteq 3 1) s ∧ placeRow 0 ≤ 11 ∧ WritesS 3 ⟨0, false⟩ 1 s t' ∧ exec (.siteq 3 1) s = .next t' ∧
    Legal (.sitec 3 1 2) cc ∧ ¬RectIn cc.m 0 :=
  ⟨_, _, rfl, rfl, rfl, by unfold RectForm; decide, ⟨by decide, by decide, 0, rfl, by decide⟩, by decide,
    takesS_of_free (by decide) (.inr ⟨rfl, by decide⟩), rfl, rfl, rfl, by decide, rfl, rfl, rfl, fun h => by obtain ⟨_, _, p, h, _⟩ := h; cases h⟩
theorem wit_MonitorWords : ∃ t t' t'' u, let s := ccAt (ss (tagged 8 0) 511 0) withPart; Legal (.pmpw 15 1 2) s ∧ s.m.isTile = false ∧
    (s.m.csr 0x82F).getLsbD 3 = false ∧ exec (.pmpw 15 1 2) s = .next t ∧ ReadsC 1 s (tagged 8 0) s ∧ ReadsC 2 s 511 s ∧
    Legal (.keyl 1 2) s ∧ OwnBytes s (tagged 8 0) 64 ∧ exec (.keyl 1 2) s = .next t' ∧ Legal (.tlbi 3 2) s ∧ ReadsC 3 s 0 s ∧
    s.m.corePart = some 0 ∧ exec (.tlbi 3 2) s = .next t'' ∧ Legal .halt s ∧ NoWait s ∧ Legal (.dmaq 4 1 2) s ∧ exec (.dmaq 4 1 3) s = .next u ∧
    u.m.core.s 4 = ⟨1, false⟩ := ⟨_, _, _, _, rfl, rfl, rfl, rfl, rfl, rfl, rfl, ⟨rfl, rfl, by decide, rfl⟩, rfl, rfl, rfl, rfl, rfl, rfl, rfl, rfl, rfl, rfl⟩
/-- A VF of the partition is live. -/
def withVf (m : Mach) : Mach := ((withPart m).setVf 1 { m.vf 1 with vqa := 2 ^ 63 }).onSys fun y => { y with keys := [(0, 1)] }
theorem wit_MonitorWords_slots : ∃ t, let s := ccAt (fun c => { ss 0x10001 (tagged 8 0) 0 c with mem := { c.mem with sm := [(28, 1)] } }) withVf;
    Legal (.slotb 4 1 2) s ∧ ReadsC 1 s 0x10001 s ∧ ReadsC 2 s (tagged 8 0) s ∧ (s.m.vf 1).live = true ∧ s.m.corePart = some (s.m.vf 1).part ∧
    OwnBytes s (tagged 8 0) 32 ∧ byteAt (ownRead s (tagged 8 0) 32) 28 ≤ 3 ∧ leAt (ownRead s (tagged 8 0) 32) 29 3 = 0 ∧
    exec (.slotb 4 1 2) s = .next t ∧ t.m.core.s 4 = ⟨0, false⟩ :=
  ⟨_, rfl, rfl, rfl, rfl, rfl, ⟨rfl, rfl, by decide, rfl⟩, by decide, by decide, rfl, rfl⟩
theorem wit_MonitorWords_bind : ∃ t, let s := ccAt (ss 0 0x200001 0) withVf;
    Legal (.qcbb 4 1 2) s ∧ ReadsC 1 s 0 s ∧ ReadsC 2 s 0x200001 s ∧ bits 0x200001 23 22 = 0 ∧ bits 0x200001 15 10 = 0 ∧
    s.m.corePart = some (s.m.vf 1).part ∧ exec (.qcbb 4 1 2) s = .next t := ⟨_, rfl, rfl, rfl, by decide, by decide, rfl, rfl⟩

/-! ### Statements on events -/

/-- The task's engines as given; the event is for it, its unit `b`. -/
def eventAt (b : Nat) (f : Engs → Engs) : State := seated (fun m => m.modEng f) { a := 0, b := b }
theorem wit_StreamAndPostEvents_mark : ∃ t, let s := eventAt 0 fun e => { e with se := [(0, { st := 2, prog := markProg })], hq := [(12, { bound := true, prod := 1 })] };
    let c := s.m.agent 0; let e := c.se 0; s.m.runs 0 = true ∧ e.st = 2 ∧ e.halted = false ∧ c.ctl.wait ≠ .yielded ∧ e.stop = false ∧
    e.kind e.step = 3 ∧ e.nextAt ≤ c.ctl.cyc ∧ Sound s.m 0 ∧ (c.hq (e.q e.step)).items.length < hqDepth 12 ∧ exec .streamRowTransfer s = .next t :=
  ⟨_, rfl, rfl, rfl, by decide, rfl, by decide, by decide, ⟨rfl, rfl⟩, by decide, rfl⟩
/-- One affine step of one row of S at 0, into queue 0 or out of it, at address `base`. -/
def rowProg (dir base : Byte) : List Byte :=
  [1, 0, 1] ++ List.replicate 13 0 ++ [1, dir, 0, 1, 0, 0, 0, 0, base, 0, 0, 0, 0, 0, 0, 0x80, 1] ++ List.replicate 47 0
theorem wit_StreamAndPostEvents_rows : ∃ t t' t'',
    let s := fun (dir base : Byte) (q : HQ) => eventAt 0 fun e => { e with se := [(0, { st := 2, prog := rowProg dir base })], hq := [(0, q)] };
    let c := (s 0 0 { bound := true, prod := 1 }).m.agent 0; let e := c.se 0;
    let ad := ({ e with nest := if e.nest = [] then List.replicate (e.ndim e.step) 0 else e.nest } : SEng).rowAddr;
    e.kind e.step = 1 ∧ e.toSpace e.step = false ∧ tagOfAddr ad = tagS ∧ ad.toNat % 32 = 0 ∧ inSpace ad 256 = true ∧
    raceAt c 4 (offOf ad) 256 = none ∧ e.nextAt ≤ c.ctl.cyc ∧ Sound (s 0 0 { bound := true, prod := 1 }).m 0 ∧ exec .streamRowTransfer (s 0 0 { bound := true, prod := 1 }) = .next t ∧
    exec .streamRowTransfer (s 1 0 { bound := true, cons := 1, items := [item 5] }) = .next t' ∧
    exec .streamRowTransfer (s 0 16 { bound := true, prod := 1 }) = .next t'' :=
  ⟨_, _, _, by decide, by decide, by decide, by decide, by decide, by decide, by decide, ⟨rfl, rfl⟩, rfl, rfl, rfl⟩
/-- A copy within S of 33 bytes, the last byte left. -/
def ccmd : CCmd := { op := 0, dst := tagged tagS 64, src := tagged tagS 0, ctl := 33, done := 32 }
theorem wit_StreamAndPostEvents_copy : ∃ t, let s := eventAt 1 fun e => { e with ch := [(1, { cmds := [ccmd] })] }; let c := s.m.agent 0;
    s.m.runs 0 = true ∧ (c.chan 1).cmds = [ccmd] ∧ (c.chan 1).halted = false ∧ ccmd.done < ccmd.len ∧ Sound s.m 0 ∧
    raceAt c 3 32 1 = none ∧ exec .copyChannelTransfer s = .next t := ⟨_, rfl, rfl, rfl, by decide, ⟨rfl, rfl⟩, by decide, rfl⟩
/-- A post of 32 bytes to S of the task from itself, the first; and one to queue 0. -/
def post (q : Bool) : Pkt :=
  ⟨0, 0, 0, ⟨launchKey 0 1, 0⟩, 1, if q then 0 else tagged tagS 0x7FFE0, if q then 2 ^ 36 else 0, List.replicate 32 7, false, [], none⟩
theorem wit_StreamAndPostEvents_post : ∃ t t', let s := seated fun m => m.setNet 0 [post false];
    let h := seated fun m => (m.setNet 0 [post true]).modEng fun e => { e with hq := [(0, { bound := true, prod := 5 })] };
    s.m.netOf 0 = [post false] ∧ s.m.clocked (dieOf 0) = true ∧ s.m.hasLaunch (launchKey 0 1) = true ∧ (s.m.agent 0).eng.ihalt = false ∧ s.m.takes 0 (post false).task = true ∧
    (post false).seq = seqNext ((s.m.agent 0).rcvd (post false).srcKey) ∧ (s.m.agent 0).ctl.wait ≠ .ended ∧ heldFor s.m (post false).task = [] ∧
    raceAt (s.m.agent 0) (post false).code 0x7FFE0 32 = none ∧ Sound s.m 0 ∧ exec .postArrival s = .next t ∧
    ((h.m.agent 0).hq 0).items.length + (rowsOf 2 (post true).data).length ≤ hqDepth 0 ∧ Unarmed h.m (panelOf 0) ∧ exec .postArrival h = .next t' :=
  ⟨_, _, rfl, rfl, rfl, rfl, rfl, rfl, by decide, rfl, by decide, ⟨rfl, rfl⟩, rfl, by decide, rfl, rfl⟩
theorem wit_StreamAndPostEvents_refused : ∃ t, let s := seated fun m => (m.setNet 0 [post true]).modEng fun e => { e with hq := [(0, { bound := true, prod := 5, items := List.replicate 16 (item 1) })] };
    hqDepth 0 < ((s.m.agent 0).hq 0).items.length + (rowsOf 2 (post true).data).length ∧ (post true).src < 2048 ∧
    exec .postArrival s = .next t := ⟨_, by decide, by decide, rfl⟩
theorem wit_StreamAndPostEvents_others : ∃ t t' t'', let r := eventAt 0 fun e => { e with posts := [post false] };
    let h := seated fun m => (m.modPanel 0 fun p => { p with inbox := [post true] }).modEng fun e => { e with hq := [(0, { bound := true, prod := 5 })] };
    let f := eventAt 0 fun e => { e with ch := [(0, { cmds := [{ ccmd with src := tagged tagFabric 0 }] })] };
    (r.m.agent 0).eng.posts = [post false] ∧ r.m.runs 0 = true ∧ r.m.hasLaunch (post false).task.launch = true ∧ r.m.placeOf (post false).task = some 0 ∧ exec .packetResend r = .next t ∧
    (h.m.agent 0).ctl.task = some (post true).task ∧ h.m.takes 0 (post true).task = true ∧ (h.m.agent 0).eng.ihalt = false ∧ Unarmed h.m (panelOf 0) ∧ (post true).err = none ∧
    (post true).seq = seqNext ((h.m.agent 0).rcvd (post true).srcKey) ∧ (h.m.agent 0).ctl.wait ≠ .ended ∧ heldFor h.m (post true).task = [post true] ∧ exec .inboxHeldDelivery h = .next t' ∧ tagOfAddr (tagged tagFabric 0) = tagFabric ∧
    exec .fabricTransportFailure f = .next t'' ∧ t''.m.hasLaunch (launchKey 0 1) = false :=
  ⟨_, _, _, rfl, rfl, rfl, rfl, rfl, rfl, rfl, rfl, rfl, rfl, by decide, by decide, rfl, rfl, by decide, rfl, rfl⟩
theorem wit_ArrivalsAndOwnershipReplies_arrival : ∃ t, let s := seated (fun m => m.modCtl fun c => { c with arrReq := [(1, 4)] }) { a := 0, b := 1 };
    let k : TaskId := ⟨launchKey 0 1, 0⟩; (s.m.agent 0).ctl.task = some k ∧ (s.arg.b, 4) ∈ (s.m.agent 0).ctl.arrReq ∧ (∀ e ∈ (s.m.agent 0).eng.ch, ∀ x ∈ e.2.cmds, x.op = 0 ∨ 4 ≤ x.id) ∧
    (∀ j, (s.m.launch j).phaseHold = false ∧ ∀ g, ((s.m.launch j).gang g).toPhase = false) ∧
    (s.m.agent 0).ctl.own = none ∧ (s.m.launch k.launch).gangTasks 0 = [0] ∧ (s.m.launch k.launch).gangSites 0 = [0] ∧
    ((s.m.launch k.launch).gang 0).onSites = true ∧ exec .barrierArrival s = .next t ∧ (t.m.agent 0).csr true 0x035 = 1 :=
  ⟨_, rfl, .head _, (fun _ h => nomatch h), never_phased rfl rfl rfl, rfl, rfl, rfl, rfl, rfl, by decide⟩
/-- The task has asked for operation `op` on region 2048, whose state is `st`, of its VF. -/
def asking (op st : Nat) : State := seated fun m => (m.modCtl fun c => { c with own := some { op := op, ea := 2 ^ 32, arg := 0, sent := some 0, reg := 2048 } }).setRegion 0 2048
  { RegionE.unalloc with st := st, vfn := 1, lnch := 1 }
theorem wit_ArrivalsAndOwnershipReplies_reply : ∃ t t' t'', (asking 1 1).m.region 0 2048 = ⟨1, false, 0, 1, 0, 1⟩ ∧
    asksBehind (asking 1 1).m ((asking 1 1).m.agent 0) = false ∧ regionHeld (asking 1 1).m 0 2048 = false ∧ exec .ownershipReply (asking 1 1) = .next t ∧
    (t.m.region 0 2048).st = 2 ∧ exec .ownershipReply (asking 3 2) = .next t' ∧ exec .ownershipReply (asking 0 1) = .next t'' :=
  ⟨_, _, _, by decide, by decide, rfl, rfl, rfl, rfl, rfl⟩
/-- A packet of the task for panel 0: a gate record (1) or a put (2) of token 0, expert 3. -/
def spkt (kind : Nat) : Pkt := ⟨kind, 2048, 0, ⟨launchKey 0 1, 0⟩, 1, seamH, if kind = 1 then 0 else 3 * 2 ^ 32, [], false,
  if kind = 1 then [3, 0x3F800000] else List.replicate 64 1, none⟩
def panelAt (pk : List Pkt) (g : SeamSet → SeamSet := id) : State :=
  seated fun m => (m.setSet (setKey 0 0 0) (set1 g)).modPanel 0 fun p => { p with inq := pk, setOf := [(0, setKey 0 0 0 + 1)] }
def gated (x : SeamSet) : SeamSet := x.setSlot 0 { token := 0, st := 1, eidx := [3], gates := [0x3F800000] }
theorem wit_SeamEvents_gate : ∃ t, let s := panelAt [spkt 1]; NextAtPanel s.m 0 1 (spkt 1) [] (setKey 0 0 0) set1 ∧ Unarmed s.m 0 ∧
    (set1).wb = 0 ∧ (set1).win = 1 ∧ (set1).slabsAt 0 = [0] ∧ ((set1).slot 0).token = 0 ∧ ((set1).slot 0).st = 0 ∧
    exec .gateRecordArrival s = .next t := ⟨_, ⟨rfl, rfl, rfl, by decide, rfl, rfl⟩, rfl, rfl, rfl, rfl, rfl, rfl, rfl⟩
theorem wit_SeamEvents_put : ∃ t, let s := panelAt [spkt 2] gated; let x := (set1 gated).slot 0; NextAtPanel s.m 0 2 (spkt 2) [] (setKey 0 0 0) (set1 gated) ∧
    seamSlab (spkt 2) < descNSlab desc ∧ (set1 gated).panelFor 0 = 0 ∧ x.token = 0 ∧ x.st = 1 ∧ x.eidx[0]? = some (seamExpert (spkt 2)) ∧
    Nat.testBit x.arr 0 = false ∧ exec .putArrival s = .next t :=
  ⟨_, ⟨rfl, rfl, rfl, by decide, rfl, rfl⟩, by decide, rfl, rfl, rfl, by decide, by decide, rfl⟩
theorem wit_SeamEvents_others : ∃ t t' t'', let p : SPkt := { seq := 1, panel := 0, kind := 0, handle := seamH, token := 0, expert := 0, slab := 0, data := [], refused := true, unsent := false, again := true };
    let r := eventAt 0 fun e => { e with pkts := [p] };
    let o := panelAt [] fun x => (gated x).setSlot 0 { token := 0, st := 1, eidx := [3], timer := some 0 };
    let f := { seated (fun m => m.setSet (setKey 0 0 0) (set1 fun x => { x with spl := true })) with arg := {} };
    (r.m.agent 0).eng.pkts.find? (fun q => q.again) = some p ∧ r.m.runs 0 = true ∧ exec .seamResend r = .next t ∧ setAt o.m 0 0 = some (setKey 0 0 0) ∧
    (o.m.set_ (setKey 0 0 0)).panelFor (0 / 65536) = 0 ∧ (o.m.set_ (setKey 0 0 0)).isOpen = true ∧ (o.m.set_ (setKey 0 0 0)).spl = false ∧ descPol desc ≠ 2 ∧ exec .seamTimeout o = .next t' ∧ f.m.sys.sets.find? (fun e => e.2.isOpen && e.2.spl && e.1 % 2 ^ 17 / 256 == 0) = some (setKey 0 0 0, set1 fun x => { x with spl := true }) ∧
    seamStalled f.m (setKey 0 0 0) (set1).place = false ∧ seamFit f.m desc = .ok 0 ∧ exec .seamRefill f = .next t'' :=
  ⟨_, _, _, rfl, rfl, rfl, rfl, rfl, rfl, rfl, by decide, rfl, rfl, rfl, rfl, rfl⟩
theorem wit_SeamEvents_fault : let o := panelAt [] fun x => { (gated x).setSlot 0 { token := 0, st := 1, eidx := [3], timer := some 0 } with desc := x.desc.set 4 2 };
    let set := o.m.set_ (setKey 0 0 0); (set.slot 0).st = 1 ∧ (set.slot 0).timer = some 0 ∧ descPol set.desc = 2 ∧
    taskIsDone o.m set.owner_ = false ∧ (o.m.taskCore set.owner_).eng.closing ≠ some (setKey 0 0 0) :=
  ⟨rfl, rfl, by decide, rfl, by decide⟩
/-- Page tables of the partition that map its addresses below 2^30 to 2^30 and on, and region 512, which lies there, in
state `st` of VF 1, task 0 of launch 1. -/
def tables (st : Nat) (m : Mach) : Mach :=
  let m := (m.setHbm ((m.sys.hbm.writeNat 0x1000000 8 0x1002001).writeNat 0x1002000 8 0x4000000F)).setPart 0
    { m.partn 0 with ptroot := 0x1000001 }
  m.setRegion 0 512 { RegionE.unalloc with st := st, vfn := 1, lnch := 1 }
theorem wit_SeamEvents_release : ∃ t, let s := seated fun m => tables 2 ((m.setSet (setKey 0 0 0) (set1 fun x => x.setSlot 0
      { token := 0, st := 4, eidx := [3], gates := [0x3F800000], subst := true })).modPanel 0 fun p => { p with setOf := [(0, setKey 0 0 0 + 1)] });
    let set := s.m.set_ (setKey 0 0 0); ClockedPanel s.m 0 ∧ settledBefore s.m 0 (setKey 0 0 0) 0 = [] ∧ set.panelFor (0 / 65536) = 0 ∧ set.spl = false ∧
    (s.m.taskCore set.owner_).eng.xhalt = false ∧ setAt s.m 0 0 = some (setKey 0 0 0) ∧ (set.slot 0).st = 4 ∧ (set.slot 0).errs = [] ∧ descDKind desc = 0 ∧
    (translateAll s.m (ccOf 0) 0 0 accWrite (pageSpans 0 256)).1 = .ok [(2 ^ 30, 256)] ∧ s.m.stalled [(2 ^ 30, 256)] = false ∧
    rightsOk s.m 0 1 set.owner_ .write [(2 ^ 30, 256)] = true ∧ keyErased s.m (2 ^ 30) = false ∧
    ((combine desc (set.slot 0)).1.flatMap fun v => leBytes v (descOSz desc)).length = 256 ∧ exec .slotRelease s = .next t :=
  ⟨_, rfl, rfl, rfl, rfl, rfl, rfl, rfl, rfl, rfl, rfl, rfl, rfl, rfl, by decide, rfl⟩
theorem wit_CollectiveCompletes : ∃ t t', let c : Coll := { key := [1, launchKey 0 1, 0, 0], desc := collDesc, joined := [(0, [launchKey 0 1, 0, 0, 2 ^ 16, 0])] };
    let s := seated fun m => tables 2 (m.setColl 0 c); let w := seated fun m => tables 2 (m.setColl 0 { c with mism := true });
    (s.m.coll 0).desc ≠ [] ∧ collFull s.m c = true ∧ collLevel c.desc = 1 ∧ collPart s.m c = 0 ∧ OnePiece s.m 0 (2 ^ 16) 4 accRead (2 ^ 30 + 2 ^ 16) ∧
    OnePiece s.m 0 (2 ^ 16) 4 accWrite (2 ^ 30 + 2 ^ 16) ∧ s.m.stalled [(2 ^ 30 + 2 ^ 16, 4)] = false ∧ keyErased s.m (2 ^ 30 + 2 ^ 16) = false ∧ exec .collectiveComplete s = .next t ∧
    exec .collectiveComplete w = .next t' := ⟨_, _, by decide, rfl, rfl, rfl, rfl, rfl, rfl, rfl, rfl, rfl⟩
/-- The reset machine with `f` done to it, and an event's argument. -/
def ev (f : Mach → Mach) (a : Arg := {}) : State := { State.reset with m := f State.reset.m, arg := a }
/-- Another state of bring-up. -/
def booted (f : Boot → Boot) (m : Mach) : Mach := m.onSys fun y => { y with boot := f y.boot }
theorem wit_BringUpAndRegisterEvents_boot : ∃ t t', let g := ev (booted fun b => { b with phase := 2, res := 0 }); let w := ev (booted fun b => { b with phase := 2, res := 3 });
    g.m.boot.phase ≠ 1 ∧ exec .bstatGo g = .next g ∧ g.m.boot.res ≠ 3 ∧ exec .wsreqGo g = .next t ∧ t.m.boot.res = 3 ∧
    exec .wsreqGo w = .next w ∧ (let b := { w with m := (w.m.setPart 0 { w.m.partn 0 with used := true, presv := true }).setLaunch 1 { part := 0, st := 2 } };
      b.m.boot.res = 3 ∧ preserved b.m 0 = true ∧ (b.m.sys.launches.any fun e => e.2.st == 2) = true ∧ exec .warmStartDecision b = .next t') :=
  ⟨_, _, by decide, rfl, by decide, rfl, rfl, rfl, rfl, rfl, rfl, rfl⟩
theorem wit_BringUpAndRegisterEvents_dies : ∃ t t' t'', let s := ev id { a := 7, b := 1 }; let c := ev (fun m => m.setDie 7 { m.die 7 with rdy := true }) { a := 7 };
    let u := ev id { a := 0, b := 1 }; s.arg.a < 8 ∧ exec .dieReady s = .next t ∧ (c.m.die 7).rdy = true ∧ (c.m.die 7).cal = false ∧
    exec .calibrationComplete c = .next t' ∧ (0, 1) ∈ ucieLinks ∧ exec .ucieLinkFailure u = .next t'' :=
  ⟨_, _, _, by decide, rfl, rfl, rfl, rfl, by decide, rfl⟩
theorem wit_BringUpAndRegisterEvents_registers : ∃ t t' t'' u, let s := ev id { ints := List.replicate 32 400, ints2 := List.replicate 8 300 };
    let c := ev (fun m => m.setDie 7 { m.die 7 with pend := some 2 }) { a := 7 }; let l := ev withPart { a := 0, v := 0x1F1 };
    let w := ev (fun m => (m.modPanel 31 fun p => { p with wd := true, wdAt := 0 })) { a := 31 };
    s.arg.ints.length = 32 ∧ s.arg.ints2.length = 8 ∧ exec .sensorSample s = .next t ∧ (c.m.die 7).pend = some 2 ∧ exec .clockRestart c = .next t' ∧
    l.m.leads 0 = some 0 ∧ exec .slctlWrite l = .next t'' ∧ State.reset.m.leads 0 = none ∧
    (w.m.panel 31).wdAt ≤ w.m.sys.ns ∧ (w.m.agent (ccOf 31)).ctl.wait ≠ .halt ∧ (w.m.panel 31).wd = true ∧ exec .watchdogExpiry w = .next u :=
  ⟨_, _, _, _, rfl, rfl, rfl, rfl, rfl, rfl, rfl, rfl, by decide, by decide, rfl, rfl⟩
theorem wit_BringUpAndRegisterEvents_functions : ∃ t t' t'', let s := ev (fun m => (withVf m).onSys fun y => { y with vfCount := 2 }) { a := 1, b := 0x8008, v := 5 };
    let r := ev id { a := 0, b := 0x308, v := 5 }; s.m.sys.vfCount = 2 ∧ (s.m.vf 1).live = true ∧ exec .registerWrite s = .next t ∧
    exec .registerWrite r = .next t' ∧ exec .vfCountLowered s = .next t'' := ⟨_, _, _, rfl, rfl, rfl, rfl, rfl⟩
theorem wit_BringUpAndRegisterEvents_more : ∃ t u u' v, let w := ev (booted fun b => { b with phase := 2, res := 3 });
    let f := ev (fun m => (withVf m).onSys fun y => { y with vfCount := 2, boot := { y.boot with phase := 2 } }) { a := 2 };
    let q := ev id { a := 0, b := 0x200, v := 0x8000000000000000 }; let z := ev (fun m => m.setReg 0x210 1) { a := 0, b := 0x200, v := 5 };
    let n := ev (fun m => m.onSys fun y => { y with svn := some 5 }) { v := 5 };
    w.m.boot.res = 3 ∧ w.m.sys.launches = [] ∧ (∀ e ∈ w.m.sys.copies, e.2.req ≠ 2) ∧ f.m.sys.vfLow = none ∧ f.m.boot.phase ≠ 1 ∧
    f.m.sys.vfCount ≤ 2 ∧ exec .sriovVfEnable f = .next t ∧ qbBusy q.m = false ∧ exec .registerWrite q = .next u ∧ qbBusy z.m = true ∧
    exec .registerWrite z = .next z ∧ exec .ualinkLaneFailure (ev id { a := 3 }) = .next u' ∧ runSvn n.m = 5 ∧ exec .wdack (ev id) = .next v :=
  ⟨_, _, _, _, rfl, rfl, (fun _ h => nomatch h), rfl, by decide, by decide, rfl, rfl, rfl, rfl, rfl, rfl, rfl, rfl⟩
theorem wit_BringUpAndRegisterEvents_lowered : let s := ev (fun m => (withVf m).onSys fun y => { y with vfCount := 2 }) { a := 1 };
    s.m.sys.vfLow = none ∧ s.arg.a < s.m.sys.vfCount ∧ ∀ n r, foreignHold s.m n r = false := by
  refine ⟨rfl, by decide, fun n r => ?_⟩
  show ((((_ && false) || false) || false) || false) = false
  simp
/-- Queue `q` of function 0 or of VF 1 of the partition, bound, of the kind `kind`, with the entry `b` at its head; ring at 4096,
completion ring at 8192, control block at 0. -/
def queued (vfn kind : Nat) (b : List Byte) (f : Mach → Mach := id) (g : Queue → Queue := id) : State :=
  ev (fun m => ((f (withVf m)).setHost (Memory.writeList [] 4096 b)).setQueue (queueKey vfn 0)
    (g { st := 1, cache := leBytes 4096 8 ++ leBytes 8192 8 ++ [4, 4, BitVec.ofNat 8 kind, 7, 0, 0, 0, 0] ++ List.replicate 24 0xFF, tail := 2 }))
    { a := vfn, b := 0 }
def entry (opc : Byte) (arg : Nat) (rest : List Byte := []) : List Byte :=
  (([opc, 0] ++ leBytes arg 2 ++ leBytes 7 4 ++ rest) ++ List.replicate 56 0).take 64
theorem wit_HostQueueEvents_ends : ∃ t t' t'', let s := fun (e : List Byte) => queued 1 0 e; let n := entry 0 0; let m := entry 10 0 (leBytes 9 8);
    AtHead (s n).m 1 0 n ∧ zeroAt n 8 56 = true ∧ exec .nopCommand (s n) = .next t ∧ AtHead (s m).m 1 0 m ∧ argOf m = 0 ∧ zeroAt m 16 48 = true ∧
    exec .mark (s m) = .next t' ∧ exec .fenceCommand (s (entry 9 0)) = .next t'' :=
  ⟨_, _, _, ⟨by decide, by decide, rfl, by decide, by decide⟩, by decide, rfl, ⟨by decide, by decide, rfl, by decide, by decide⟩, by decide, by decide, rfl, rfl⟩
theorem wit_HostQueueEvents_semaphores : ∃ t t', let g := entry 7 0 ([7, 0] ++ List.replicate 6 0 ++ leBytes 5 4); let w := entry 8 0 ([7, 0] ++ List.replicate 6 0 ++ leBytes 5 4 ++ leBytes 0 4 ++ leBytes 3 4);
    let s := fun e => queued 0 0 e; AtHead (s g).m 0 0 g ∧ semForm 0 g = true ∧ zeroAt g 20 44 = true ∧ cmdSem (s g).m 0 g = some (0, 7) ∧
    ((s g).m.sem 0 7).waiters = [] ∧ exec .signal (s g) = .next t ∧ AtHead (s w).m 0 0 w ∧ zeroAt w 20 4 = true ∧ zeroAt w 28 36 = true ∧
    cmdSem (s w).m 0 w = some (0, 7) ∧ grantTo (s w).m 2048 = none ∧ NotRestored (s w).m 0 ∧ ((s w).m.sem 0 7).count < 5 ∧ exec .wait (s w) = .next t' :=
  ⟨_, _, ⟨by decide, by decide, rfl, by decide, by decide⟩, by decide, by decide, by decide, rfl, rfl,
    ⟨by decide, by decide, rfl, by decide, by decide⟩, by decide, by decide, by decide, rfl, by unfold NotRestored; decide, by decide, rfl⟩
theorem wit_HostQueueEvents_words : ∃ t t' t'', let g := entry 7 1 (leBytes 8 8 ++ leBytes 5 8); let w := entry 8 1 (leBytes 8 8 ++ leBytes 1 8);
    let s := queued 1 0 g (tables 4); let e := queued 1 0 w (tables 4); let l := queued 1 0 [] (tables 4) fun q => { q with waitCmd := some (w, some 0) };
    AtHead s.m 1 0 g ∧ zeroAt g 24 40 = true ∧ waitsMap s.m 16 = false ∧ sigWord s.m 0 1 8 accWrite = .ok (2 ^ 30 + 8) ∧ keyErased s.m (2 ^ 30 + 8) = false ∧ exec .signal s = .next t ∧ AtHead e.m 1 0 w ∧
    nbits (argOf w) 2 1 ≠ 3 ∧ sigWord e.m 0 1 8 accRead = .ok (2 ^ 30 + 8) ∧ ¬WordCond w (e.m.sys.hbm.readNat (2 ^ 30 + 8) 8) ∧ exec .wait e = .next t' ∧
    (l.m.queue 16).waitCmd = some (w, some 0) ∧ queueRuns l.m 16 = true ∧ NotRestored l.m 16 ∧ exec .waitTimeout l = .next t'' :=
  ⟨_, _, _, ⟨by decide, by decide, rfl, by decide, by decide⟩, by decide, rfl, rfl, rfl, rfl, ⟨by decide, by decide, rfl, by decide, by decide⟩, by decide, rfl,
    by show ¬((1 : Nat) ≤ 0); decide, rfl, rfl, rfl, by unfold NotRestored; decide, rfl⟩
theorem wit_HostQueueEvents_mapWait : ∃ t t', let w := entry 8 1 (leBytes 8 8 ++ leBytes 1 8);
    let l := queued 1 0 [] (fun m => (tables 4 m).onSys fun y => { y with copies := [(9, { q := 16, dir := 2, req := 2 })] }) fun q => { q with waitCmd := some (w, some 0) };
    let b := { queued 1 0 [] id with arg := { a := 1, b := 0, c := 1 } };
    (l.m.queue 16).waitCmd = some (w, some 0) ∧ queueRuns l.m 16 = true ∧ argOf w % 2 = 1 ∧ waitsMap l.m 16 = true ∧ NotRestored l.m 16 ∧ 0 ≤ l.m.sys.ns ∧
    exec .waitTimeout l = .next t ∧ exec .doorbell b = .next t' :=
  ⟨_, _, rfl, rfl, by decide, rfl, by unfold NotRestored; decide, by decide, rfl, rfl⟩
theorem wit_HostQueueEvents_copy : ∃ t, let c := entry 6 0 (leBytes 64 8 ++ leBytes 0 8 ++ leBytes 32 8); let s := queued 1 1 c (tables 1);
    AtHead s.m 1 0 c ∧ (s.m.queue 16).kind = 1 ∧ copyForm c = true ∧ nbit (argOf c) 1 = false ∧ leAt c 24 8 ≠ 0 ∧
    copyRegions s.m 0 32 ({ q := 16, daddr := 0, len := 32 } : Copy).ranges = .ok [(512, true)] ∧ exec .copyh s = .next t :=
  ⟨_, ⟨by decide, by decide, rfl, by decide, by decide⟩, by decide, by decide, by decide, by decide, rfl, rfl⟩
/-- A request on queue 0 of function 0, whose queue is changed by `g`; a control block stands at 64. -/
def binding (v : Dword) (g : Queue → Queue := id) : State :=
  let s := queued 0 0 [] (fun m => m.setReg 0x208 64) g
  { s with m := s.m.setHost (Memory.writeList [] 64 (leBytes 4096 8 ++ leBytes 8192 8 ++ [4, 4, 0, 7])), arg := { v := v } }
theorem wit_HostQueueEvents_doorbell : ∃ t, let d := queued 1 0 [] id;
    queueRuns d.m 16 = true ∧ cntDiff (d.m.sys.host.readNat 48 4) 0 ≤ 2 ^ 4 ∧ exec .doorbell d = .next t := ⟨_, rfl, by decide, rfl⟩
theorem wit_HostQueueEvents_poll : ∃ t, let p := queued 1 0 [] id fun q => { q with cprod := 16 };
    (p.m.queue 16).st ≠ 0 ∧ (p.m.queue 16).full = true ∧ exec .cconsPoll p = .next t := ⟨_, by decide, by decide, rfl⟩
theorem wit_HostQueueEvents_detach : ∃ t t', let b := binding 0x8002000000000000; let r := binding 0x8003000000000000 fun q => { q with st := 2 };
    BindReq b.m b.arg.v 2 0 0 ∧ exec .detach b = .next t ∧ BindReq r.m r.arg.v 3 0 0 ∧ (r.m.queue 0).started = [] ∧ exec .release r = .next t' :=
  ⟨_, _, by unfold BindReq; decide, rfl, by unfold BindReq; decide, rfl, rfl⟩
theorem wit_HostQueueEvents_binds : ∃ t t', let b := binding 0x8000000000000000 fun _ => {}; let r := binding 0x8001000000000000 fun q => { q with st := 3 };
    BindReq b.m b.arg.v 0 0 0 ∧ (b.m.queue 0).st = 0 ∧ qcbOk 0 (b.m.sys.host.readList 64 64) = true ∧
    cntDiff (leAt (b.m.sys.host.readList 64 64) 48 4) (leAt (b.m.sys.host.readList 64 64) 52 4) ≤ 2 ^ 4 ∧
    exec .bind b = .next t ∧ BindReq r.m r.arg.v 1 0 0 ∧ (r.m.queue 0).st = 3 ∧ exec .rebind r = .next t' :=
  ⟨_, _, by unfold BindReq; decide, rfl, by decide, by decide, rfl, by unfold BindReq; decide, rfl, rfl⟩
/-- The four arguments of a request, on the reset machine with `f` done to it. -/
def request (x y z w : Dword) (f : Mach → Mach := id) : State :=
  ev fun m => ((((f m).setReg 0x308 x).setReg 0x310 y).setReg 0x318 z).setReg 0x320 w
theorem wit_MonitorRequests_busy : ∃ t t', let s := request 0 0 0 0 fun m => m.setReg 0x328 1; let u := request 0 (2 ^ 63) 0 0;
    ¬NotBusy s ∧ exec .pcreate s = .next s ∧ NotBusy u ∧ argsOk u.m [0, 0x11F] = false ∧ exec .pmark u = .next t ∧
    exec .vfcreate u = .next t' := ⟨_, _, by unfold NotBusy; decide, rfl, by unfold NotBusy; decide, by decide, rfl, rfl⟩
theorem wit_MonitorRequests_create : ∃ t t', let s := request 2 0x10003 0 0; let u := request 2 0x10003 0 0 fun m => m.setDie 0 { m.die 0 with rdy := true };
    NotBusy s ∧ argsOk s.m [0xFFFFFFFF, 0xFF011F] = true ∧ (∀ x ∈ panelsOf 2, (s.m.panel x).part = none) ∧ (s.m.partn 3).used = false ∧
    bits (s.m.arg 1) 23 16 ≠ 0 ∧ exec .pcreate s = .next t ∧ (u.m.die 0).rdy = true ∧ exec .pcreate u = .next t' :=
  ⟨_, _, by unfold NotBusy; decide, by decide, by decide, rfl, by decide, rfl, rfl, rfl⟩
theorem wit_MonitorRequests_parts : ∃ t t' t'' u, let d := request 0 0 0 0 withPart; let e := request 7 0x10200 0 0 withPart;
    let m := request 0 0x100 0 0 withPart; let f := request 7 0x80050000 0 0 withPart;
    NotBusy d ∧ argsOk d.m [0, 0x1F] = true ∧ (d.m.partn 0).used = true ∧ exec .pdestroy d = .next t ∧ argsOk e.m [argAll, 0x10F1F] = true ∧
    exec .psend e = .next t' ∧ argsOk m.m [0, 0x11F] = true ∧ exec .pmark m = .next t'' ∧ argsOk f.m [argAll, 0x87FF001F] = true ∧
    exec .pfab f = .next u :=
  ⟨_, _, _, _, by unfold NotBusy; decide, by decide, rfl, rfl, by decide, rfl, by decide, rfl, by decide, rfl⟩
/-- Arguments that ask for VF 1 of partition 0 without tiles, with SHARE 1; and VF 1 made with them, with 2 regions. -/
def vfAsk (f : Mach → Mach) : State := request 0 0x80010000 0x0100000000000000 (2 * 2 ^ 46) fun m => f (withPart (m.onSys fun y => { y with vfCount := 2 }))
def quotas : VF := quotaArgs (vfAsk id).m
def withQuota (m : Mach) : Mach := ((withPart m).setVf 1 quotas).onSys fun y => { y with vfCount := 2 }
theorem wit_MonitorRequests_vfcreate : ∃ t, let s := vfAsk id; NotBusy s ∧ quotas.inLimits = true ∧ argVf s = 1 ∧
    argsOk s.m [0xFFFFFFFFFFFF0000, vfArgMask, 0xFF000000FFFFFFFF, 0xFFFFFFFFFFFC0000] = true ∧ (s.m.partn 0).used = true ∧ (s.m.vf 1).live = false ∧
    quotaSums (asked s 0x10) 0 1 quotas = none ∧ (∃ m, saveArea (asked s 0x10) 0 1 quotas = .ok m) ∧ exec .vfcreate s = .next t :=
  ⟨_, by unfold NotBusy; decide, by decide, by decide, by decide, rfl, rfl, by decide, ⟨_, rfl⟩, rfl⟩
/-- The same without a time slice, so that no semaphore counts. -/
def fixedAsk (f : Mach → Mach) : State := request 0 0x00010000 0x0100000000000000 (2 * 2 ^ 46) fun m => f (withPart (m.onSys fun y => { y with vfCount := 2 }))
def fixedQuotas : VF := quotaArgs (fixedAsk id).m
theorem wit_MonitorRequests_vfquota : let s := fixedAsk fun m => m.setVf 1 fixedQuotas; let quotas := fixedQuotas;
    NotBusy s ∧ (s.m.vf 1).live = true ∧ quotas.inLimits = true ∧ (s.m.arg 1).getLsbD 32 = false ∧
    quotaSums (asked s 0x12) 0 1 quotas = none ∧ belowUse (asked s 0x12) 0 1 quotas = false ∧ (∃ m, saveArea (asked s 0x12) 0 1 quotas = .ok m) :=
  ⟨by unfold NotBusy; decide, by decide, by decide, by decide, by decide, rfl, ⟨_, rfl⟩⟩
theorem wit_MonitorRequests_vfkey : ∃ t t', let s := request 0 0x10000 0 0 withQuota; let k := request 0 0x10000 0 0 fun m => (withQuota m).setRegion 0 600 { RegionE.unalloc with st := 1, vfn := 1 };
    NotBusy s ∧ argsOk s.m [0, 0x103FF0000] = true ∧ argVf s = 1 ∧ (s.m.vf 1).live = true ∧ vfRegions s.m 0 1 = [] ∧ exec .vfkey s = .next t ∧
    vfRegions k.m 0 1 = [600] ∧ exec .vfkey k = .next t' :=
  ⟨_, _, by unfold NotBusy; decide, by decide, by decide, by decide, by decide, rfl, by decide, rfl⟩
theorem wit_MonitorRequests_vfdestroy : ∃ t, let s := request 0 0x10000 0 0 withQuota;
    NotBusy s ∧ argsOk s.m [0, 0x3FF0000] = true ∧ (s.m.vf 1).live = true ∧ vfHeld (asked s 0x11) 1 = false ∧ exec .vfdestroy s = .next t :=
  ⟨_, by unfold NotBusy; decide, by decide, by decide, rfl, rfl⟩
/-- Region 600 of VF 1 is still copied for function 0. -/
def copied (m : Mach) : Mach :=
  let m := (withQuota m).setRegion 0 600 { RegionE.unalloc with st := 5, vfn := 1, hold := 1 }
  m.onSys fun y => { y with copies := [(9, { q := 0, req := 1, held := [600] })] }
theorem wit_MonitorRequests_held : ∃ t u, let s := request 0 0x10000 0 0 copied;
    let p := request 0 0 0 0 fun m => (withQuota m).onSys fun y => { y with mc := [0x11, 1, 0, 0x10000, 0, 0] };
    let w := request 0 0 0 0 fun m => (copied m).onSys fun y => { y with mc := [0x11, 1, 0, 0x10000, 0, 0] };
    NotBusy s ∧ argsOk s.m [0, 0x3FF0000] = true ∧ (s.m.vf 1).live = true ∧ vfHeld (asked s 0x11) 1 = true ∧ exec .vfdestroy s = .next t ∧
    6 ≤ w.m.sys.mc.length ∧ w.m.sys.mc.head? = some 0x11 ∧ monReady w.m 0x11 = false ∧ exec .vfdestroy w = .next w ∧
    p.m.sys.mc.head? = some 0x11 ∧ monReady p.m 0x11 = true ∧ argsOk (pendingArgs p.m) [0, 0x3FF0000] = true ∧
    bits ((pendingArgs p.m).arg 1) 25 16 = 1 ∧ ((pendingArgs p.m).vf 1).live = true ∧ exec .vfdestroy p = .next u :=
  ⟨_, _, by unfold NotBusy; decide, by decide, by decide, rfl, rfl, by decide, rfl, rfl, rfl, rfl, rfl, by decide, by decide, by decide, rfl⟩
theorem wit_MonitorRequests_vfalloc : ∃ t t', let s := request 0 0x10000 1 0 withQuota; let u := request 0 0x10000 1 0 fun m => (withQuota m).setVf 1 { quotas with vqc := 1 };
    NotBusy s ∧ argsOk s.m [argAll, 0x3FF0000, argAll] = true ∧ argVf s = 1 ∧ (s.m.vf 1).live = true ∧
    (∀ r ∈ mappedIn (asked s 0x14) 0 0 1, ((asked s 0x14).region 0 r).st = 0) ∧ quotaRegions (asked s 0x14) 0 1 = [] ∧
    placeRegions (asked s 0x14) 0 0 1 = [] ∧ exec .vfalloc s = .next t ∧ placeRegions (asked u 0x14) 0 1 1 = [128] ∧
    (∃ m, giveRegions (asked u 0x14) 0 1 0 1 [128] = some m) ∧ exec .vfalloc u = .next t' :=
  ⟨_, _, by unfold NotBusy; decide, by decide, by decide, by decide, by decide, by decide, by decide, rfl, by decide, ⟨_, rfl⟩, rfl⟩
theorem wit_MonitorRequests_vffree : ∃ t t', let s := request 0 0x10000 1 0 fun m => tables 1 (withQuota m); let z := ev fun m => m.onSys fun y => { y with mc := [0x14, 1, 5] };
    NotBusy s ∧ argsOk s.m [argAll, 0x3FF0000, argAll] = true ∧ (s.m.vf 1).live = true ∧ copiesHold (asked s 0x15) 0 (mappedIn (asked s 0x15) 0 0 1) = false ∧
    pagesOf (asked s 0x15) 0 0 = List.replicate 32 (some 512) ∧ ((asked s 0x15).region 0 512).st = 1 ∧ ((asked s 0x15).region 0 512).vfn = 1 ∧ exec .vffree s = .next t ∧
    z.m.sys.mc = [0x14, 1, 5] ∧ exec .vfallocZeroed z = .next t' :=
  ⟨_, _, by unfold NotBusy; decide, by decide, by decide, by decide, by decide, by decide, by decide, rfl, rfl, rfl⟩
/-- A request on VF 1, in migration state `mig`, with `y` as third argument. -/
def moving (mig : Nat) (y : Dword) (f : Mach → Mach := id) : State :=
  request 0 0x10000 y 0 fun m => f ((withQuota m).setVf 1 { quotas with mig := mig })
def wait1 (hand : Nat) : Mach → Mach := fun m => m.setQueue 16 { st := 1, waitCmd := some (entry 8 (1 + 8 * hand) (leBytes 8 8 ++ leBytes 1 8), none) }
def heldLaunch (held : Bool) (m : Mach) : Mach := m.setLaunch 5 { st := 2, vf := 1, phaseHold := held, img := { g := 0 } }
theorem wit_MigrationEvents_track : ∃ t t' t'' u, let a := moving 0 0; let b := moving 1 0; let c := moving 1 5; let d := moving 2 0;
    MigAsk a [0, argVfn] [0] ∧ exec .mstart a = .next t ∧ MigAsk b [argBuf, argVfn] [1, 3] ∧ EventsOff b.m (2 ^ 20) 1 ∧ exec .msnap b = .next t' ∧
    MigAsk c [0, argVfn, 0xFFFFFFFF] [1] ∧ exec .mquiesce c = .next t'' ∧ MigAsk d [0, argVfn] [1, 2, 3, 4] ∧ exec .mabort d = .next u :=
  ⟨_, _, _, _, by unfold MigAsk NotBusy; decide, rfl, by unfold MigAsk NotBusy; decide, by unfold EventsOff; decide, rfl,
    by unfold MigAsk NotBusy; decide, rfl, by unfold MigAsk NotBusy; decide, rfl⟩
theorem wit_MigrationEvents_cut : ∃ t t' t'' u, let n := moving 3 0 (wait1 0); let y := moving 3 0 (wait1 1); let v := moving 4 0;
    let l := moving 4 0 fun m => m.setPart 0 { m.partn 0 with fwds := [{ id := 9, vf := 1, q := 16, addr := 8 }] };
    MigAsk n [0, argVfn] [3] ∧ (kindOneWaits (asked n 0x23) 1).map (fun w => nbit (argOf w.2) 3) = [false] ∧ exec .mcut n = .next t ∧
    MigAsk y [0, argVfn] [3] ∧ (kindOneWaits (asked y 0x23) 1).map (fun w => nbit (argOf w.2) 3) = [true] ∧ exec .mcut y = .next t' ∧
    MigAsk v [argBuf, argVfn] [3, 4] ∧ exec .msave v = .next t'' ∧
    MigAsk l [0, argVfn, argAll, 0x1F] [4] ∧ vfHeld (asked l 0x26) 1 = false ∧ (l.m.partn 0).fwds.map (fun f => (f.vf, f.state)) = [(1, 0)] ∧ exec .mrelay l = .next u :=
  ⟨_, _, _, _, by unfold MigAsk NotBusy; decide, by decide, rfl, by unfold MigAsk NotBusy; decide, by decide, rfl, by unfold MigAsk NotBusy; decide, rfl,
    by unfold MigAsk NotBusy; decide, rfl, rfl, rfl⟩
theorem wit_MigrationEvents_restore : ∃ t t', let s := moving 0 7 fun m => (m.setPart 0 { m.partn 0 with senders := [(0, 7)] }).onSys fun y => { y with mrecs := [{ vfn := 2, vf := quotas }] };
    let w := request 9 0 0 0 fun m => m.setPart 0 { m.partn 0 with fwds := [{ id := 9, vf := 1, q := 16, addr := 8 }] };
    NotBusy s ∧ argsOk s.m [argBuf, argVfn, argAll] = true ∧ (s.m.vf 1).live = true ∧ (∃ e ∈ (s.m.partn 0).senders, e.2 = s.m.arg 2) ∧
    setsFit { vfn := 2, vf := quotas } (panelsOf (s.m.partn 0).mask).length = true ∧ recordAt s.m (s.m.arg 0).toNat = some { vfn := 2, vf := quotas } ∧
    freshVf s.m 1 = true ∧ sameQuotas (s.m.vf 1) quotas = true ∧ (regionsByAddr (asked s 0x25) 0 1) = [] ∧ exec .mrestore s = .next t ∧
    NotBusy w ∧ argsOk w.m [0xFFFFFFFF] = true ∧ ((w.m.sys.parts.find? fun e => e.2.fwds.any fun f => f.id == 9 && f.state != 2).map Prod.fst) = some 0 ∧
    exec .mfwdc w = .next t' :=
  ⟨_, _, by unfold NotBusy; decide, by decide, by decide, by decide, by decide, by decide, by decide, by decide, by decide, rfl, by unfold NotBusy; decide, by decide, by decide, rfl⟩
theorem wit_MigrationEvents_quiesce : ∃ t t', let c := ev (fun m => heldLaunch true (m.setVf 1 { quotas with mig := 2 })) { a := 1 };
    let l := ev (fun m => (heldLaunch false (m.setVf 1 { quotas with mig := 2 })).onSys fun y => { y with mc := [0x22, 1, 0] }) { a := 1 };
    (c.m.vf 1).mig = 2 ∧ (runningOf c.m 1).map launchHeld = [true] ∧ c.m.sys.sets = [] ∧ exec .quiesceComplete c = .next t ∧ (l.m.vf 1).mig = 2 ∧
    (runningOf l.m 1).map launchHeld = [false] ∧ exec .quiesceComplete l = .next l ∧ l.m.sys.mc = [0x22, l.arg.a, 0] ∧ exec .mquiesceTimeout l = .next t' :=
  ⟨_, _, rfl, rfl, rfl, rfl, rfl, rfl, rfl, rfl, rfl⟩
/-- Group 5 of A of the task's tile as `g`. -/
def aging (g : Group) (b : Nat := 5) : State := seated (fun m => m.modMem fun x => { x with ag := [(5, g)] }) { a := 0, b := b }
theorem wit_LifetimeLogAndFaultEvents_tick : ∃ t, let s := aging { v := true, age := 7 }; timersOut s.m = [] ∧ s.m.seated 0 = true ∧ ((s.m.agent 0).group false 5).v = true ∧
    ((s.m.agent 0).group false 5).q = false ∧ exec .lifetimeTick s = .next t := ⟨_, rfl, rfl, rfl, rfl, rfl⟩
theorem wit_LifetimeLogAndFaultEvents_groups : ∃ t t' t'' u, let d := aging { v := true, due := true }; let x := aging { v := true, due := true, x := true };
    let q := aging { v := true, q := true }; let c := aging { clr := true }; let g := fun (s : State) => (s.m.agent 0).group false 5;
    (g d).v = true ∧ (g d).due = true ∧ groupHeld (d.m.die 0).reduced (d.m.panel 0).band (g d) = false ∧ exec .rowGroupExpiry d = .next t ∧
    (g x).x = true ∧ exec .rowGroupExpiry x = .next t' ∧ (g q).q = true ∧ exec .rowGroupRefresh q = .next t'' ∧ (g c).clr = true ∧
    exec .rowGroupClear c = .next u := ⟨_, _, _, _, rfl, rfl, by decide, rfl, rfl, rfl, rfl, rfl, rfl, rfl⟩
theorem wit_LifetimeLogAndFaultEvents_logs : ∃ t t' t'' u, let e := ev id { a := 3, v := 1 }; let q := ev id { v := 0x205 }; let d := ev (fun m => m.setReg 0x500 0x8000000000000205);
    let i := ev id { a := 3, v := 0 }; exec .eld3Read e = .next t ∧ exec .elclr e = .next t' ∧ bits i.arg.v 61 58 ≤ 10 ∧ bits i.arg.v 55 50 ≤ 35 ∧
    (q.m.reg 0x500).getLsbD 63 = false ∧ bits q.arg.v 5 0 ≤ 33 ∧ exec .elqselWrite q = .next t'' ∧ (d.m.reg 0x500).getLsbD 63 = true ∧ exec .logQueryDone d = .next u :=
  ⟨_, _, _, _, rfl, rfl, by decide, by decide, by decide, by decide, rfl, by decide, rfl⟩
/-- A walk that permits. -/
def permits (w : Walk) : Bool := match w with | .leaf _ => true | .fail _ => false
theorem leaf_of_permits (w : Walk × List (Nat × Nat)) (h : permits w.1 = true) : ∃ e keep, w = (.leaf e, keep) := by
  obtain ⟨_ | _, _⟩ := w
  · exact ⟨_, _, rfl⟩
  · cases h
theorem wit_LifetimeLogAndFaultEvents_walk : ∃ t, let s := seated (tables 1) { a := 0, b := 0, c := 4096, d := accRead };
    (∀ f ∈ SMap.get (fun _ => []) (s.m.agent 0).eng.tlb 0, f.covers 4096 = false) ∧ (∃ e keep, walk s.m 0 0 4096 accRead = (.leaf e, keep)) ∧
    exec .pageWalk s = .next t := ⟨_, by decide, leaf_of_permits _ (by decide), rfl⟩
/-- A fault entry, numbered 5, of agent `who` at 4096 of the partition, for the task `k` or for a copy. -/
def faulting (who : Nat) (k : Option TaskId) (f : Mach → Mach) : State :=
  seated (fun m => f (m.modPanel 0 fun p => { p with flts := [⟨[], who, 0, 4096, accRead, some 5, k⟩] })) { a := 0, b := 5 }
theorem wit_LifetimeLogAndFaultEvents_task : ∃ t t', let k : TaskId := ⟨launchKey 0 1, 0⟩; let s := faulting 0 (some k) (tables 1); let r := faulting 0 (some k) id;
    (s.m.panel 0).flts.find? (fun f => f.cnt == some 5) = some ⟨[], 0, 0, 4096, accRead, some 5, some k⟩ ∧
    (∃ e keep, walk s.m 0 0 4096 accRead = (.leaf e, keep)) ∧ exec .fltrSupply s = .next t ∧ exec .fltrRefuse r = .next t' :=
  ⟨_, _, by decide, leaf_of_permits _ (by decide), rfl, rfl⟩
theorem wit_LifetimeLogAndFaultEvents_copy : ∃ t t', let s := faulting (2 ^ 20 + 9) none fun m => tables 1 (m.onSys fun y => { y with copies := [(9, { q := 16, req := 3, len := 64 })] });
    (s.m.panel 0).flts.find? (fun f => f.cnt == some 5) = some ⟨[], 2 ^ 20 + 9, 0, 4096, accRead, some 5, none⟩ ∧ (∃ e ∈ s.m.sys.copies, e.1 = 9) ∧
    (s.m.copy 9).dir ≤ 1 ∧ (s.m.copy 9).node = none ∧ (∃ e keep, walk s.m 0 0 4096 accRead = (.leaf e, keep)) ∧ exec .fltrSupply s = .next t ∧
    exec .fltrRefuse s = .next t' := ⟨_, _, by decide, by decide, by decide, by decide, leaf_of_permits _ (by decide), rfl, rfl⟩
theorem wit_LifetimeLogAndFaultEvents_load : ∃ t t', let s := faulting (2 ^ 20 + 9) none fun m => (tables 1 ((m.onSys fun y => { y with copies := [(9, { q := 16, req := 2, dir := 5, haddr := 0 })] }).setSlot 1 0 { st := 1, cmd := some (16, ⟨0, 2, 0, 7, 0⟩) }));
    (s.m.panel 0).flts.find? (fun f => f.cnt == some 5) = some ⟨[], 2 ^ 20 + 9, 0, 4096, accRead, some 5, none⟩ ∧ (∃ e ∈ s.m.sys.copies, e.1 = 9) ∧
    (s.m.copy 9).dir = 5 ∧ (s.m.slot (s.m.copy 9).vfn (s.m.copy 9).haddr).cmd = some (16, ⟨0, 2, 0, 7, 0⟩) ∧
    (∃ e keep, walk s.m 0 0 4096 accRead = (.leaf e, keep)) ∧ exec .fltrSupply s = .next t ∧ exec .fltrRefuse s = .next t' :=
  ⟨_, _, by decide, by decide, by decide, rfl, leaf_of_permits _ (by decide), rfl, rfl⟩
/-- The task's launch before its gang was placed, as `f` changes it; and the task's gang as `g`. -/
def unplaced (g : Gang) : Mach → Mach := fun m => withLaunch (fun l => { l with gangs := [(0, g)] }) (m.setSite 0 {})
def atTime (n : Nat) (m : Mach) : Mach := m.onSys fun y => { y with ns := n }
theorem wit_SchedulerEvents_place : ∃ t t', let s := seated fun m => tables 3 (unplaced {} m); let r := { seated (fun m => tables 3 (unplaced { refused := 2 } m)) with arg := { a := 1, b := 0 } };
    let m := headUpdate ((partLaunches s.m 0).foldl phaseDue s.m); choose m 0 ((partLaunches m 0).filter fun k => (offerOf m k).isSome) = some 1 ∧ offerOf m 1 = some (0, some (0, 0, 0)) ∧
    ((m.launch 1).gang 0).st = 0 ∧ SitesFree m 1 (0, 0, 0) ∧ NoneHeld m 1 0 ∧ exec .schedulerSelection s = .next t ∧ 0 < ((r.m.launch 1).gang 0).refused ∧
    ((r.m.launch 1).gang 0).retryAt ≤ r.m.dieClock ((r.m.launch 1).gang 0).die ∧ ((r.m.launch 1).gang 0).st = 0 ∧ nextGang r.m 1 = some 0 ∧
    offerFor r.m 1 0 = some (some (0, 0, 0)) ∧ SitesFree r.m 1 (0, 0, 0) ∧ NoneHeld r.m 1 0 ∧ exec .reservationRetry r = .next t' :=
  ⟨_, _, rfl, rfl, rfl, by unfold SitesFree; decide, by unfold NoneHeld; decide, rfl, by decide, by decide, rfl, by decide, rfl, by unfold SitesFree; decide,
    by unfold NoneHeld; decide, rfl⟩
theorem wit_SchedulerEvents_hold : ∃ t, let s := { seated id with arg := { a := 0, b := 2 } };
    s.m.hasLaunch 1 = true ∧ (s.m.launch 1).part = 0 ∧ (s.m.launch 1).st = 2 ∧ exec .schedulerSelection s = .next t := ⟨_, rfl, rfl, rfl, rfl⟩
/-- Slice 0 of partition 0 runs to the instant 100; entry 1 of its table is for VF 1 and lasts 10 units. -/
def sliced (ctl : Dword) (now : Nat) : State :=
  ev (fun m => atTime now (((withPart m).setPart 0 { (withPart m).partn 0 with slice := some 0, sliceVf := 1, sliceAt := 100 }).setCcCsr 0 0x841 0x8002000A00000000 |>.setCcCsr 0 0x850 ctl)) { a := 0 }
theorem wit_SchedulerEvents_slices : ∃ t t', let s := sliced 0x21 100; let n := sliced 0 100; let e := sliced 0x21 99;
    (s.m.partn 0).slice = some 0 ∧ (s.m.partn 0).sliceAt ≤ s.m.sys.ns ∧ nextSlice s.m 0 1 = some 1 ∧ exec .sliceBoundary s = .next t ∧
    nextSlice n.m 0 1 = none ∧ exec .sliceBoundary n = .next t' ∧ e.m.sys.ns < (e.m.partn 0).sliceAt ∧ exec .sliceBoundary e = .next e :=
  ⟨_, _, by decide, by decide, by decide, rfl, by decide, rfl, by decide, rfl⟩
/-- The task, blocked or at its yield point, with its gang as `g`, at the instant `now`. -/
def gangAs (g : Gang) (now : Nat) (c : Ctl → Ctl) (f : Mach → Mach := id) : State :=
  seated (fun m => f (atTime now (withLaunch (fun l => { l with gangs := [(0, g)], img := { g := 2 } }) (m.modCtl c)))) { a := 1, b := 0 }
theorem wit_SchedulerEvents_yields : ∃ t t', let r := gangAs { st := 1 } 60000 fun c => { c with wait := .resp, blockAt := some 5 };
    let d := gangAs { st := 1, askedAt := some 0 } 20000 id;
    let y := gangAs { st := 1, askedAt := some 0 } 9 (fun c => { c with wait := .yielded }) fun m => m.setVf 1 { m.vf 1 with saves := [(0, taskKey ⟨1, 0⟩)] };
    ((r.m.launch 1).gangs.filter fun e => e.2.st == 1) = [] ++ (0, { st := 1 }) :: [] ∧ (r.m.launch 1).undispatched = some 1 ∧
    (r.m.launch 1).st = 2 ∧ gangBlock r.m (r.m.launch 1) 0 = some 5 ∧ launchSince r.m 1 = some 5 ∧ 5 + 50000 ≤ r.m.sys.ns ∧ ((r.m.launch 1).gang 0).askedAt = none ∧
    (∀ a ∈ (r.m.launch 1).gangSites 0, (r.m.site a).tst ≠ 6) ∧ exec .residencyRotation r = .next t ∧
    ((d.m.launch 1).gang 0).st = 1 ∧ ((d.m.launch 1).gang 0).askedAt = some 0 ∧ 20000 ≤ d.m.sys.ns ∧ ((d.m.launch 1).gang 0).why ≠ 2 ∧
    (∀ a ∈ (d.m.launch 1).gangSites 0, (d.m.site a).tst ≠ 6) ∧ exec .yieldDeadline d = .next t' ∧ ((y.m.launch 1).gang 0).askedAt = some 0 ∧
    (∀ a ∈ (y.m.launch 1).gangSites 0, (y.m.agent a).atYield = true) ∧
    (∀ i ∈ (y.m.launch 1).gangTasks 0, slotReady y.m ⟨1, i⟩ = true ∧ ∃ e ∈ (y.m.vf 1).saves, e.2 = taskKey ⟨1, i⟩)   :=
  ⟨_, _, by decide, by decide, rfl, by decide, by decide, by decide, rfl, by decide, rfl, rfl, by decide, by decide, by decide, by decide, rfl, by decide, by decide,
    fun i h => by obtain rfl : i = 0 := by simpa using (show i ∈ [0] from h)
                  exact ⟨rfl, _, .head _, rfl⟩⟩
theorem wit_SchedulerEvents_scan : let s := seated fun m => (withLaunch (fun l => { l with gangs := [(0, { st := 3 })] }) (m.setSite 0 { m.site 0 with rst := 3, tst := 3 }));
    scanNext s.m (panelOfSite 0) = some 0 ∧ (s.m.site 0).occ = some ⟨launchKey 0 1, 0⟩ ∧ (s.m.site 0).tst = 3 ∧
    (∀ e ∈ (s.m.launch (launchKey 0 1)).gangs, e.2.toPhase = false) := ⟨rfl, rfl, rfl, by decide⟩
theorem wit_SchedulerEvents_crash : let s := seated fun m => (withLaunch (fun l => { l with gangs := [(0, { st := 3 })] }) (m.setSite 0 { m.site 0 with rst := 3, tst := 6 }));
    scanNext s.m (panelOfSite 0) = some 0 ∧ (s.m.site 0).tst = 6 ∧ s.m.hasLaunch (launchKey 0 1) = true := ⟨rfl, rfl, rfl⟩
/-- A graph run 3 of two nodes: node 0 is ready, its record begins with `b`; node 1 waits for one completion. -/
def graphing (b : List Byte) (n : GNode := { st := 1 }) (f : Mach → Mach := id) : State :=
  seated (fun m => f (m.setRun 3 { q := 16, vf := 1, gen := 1, desc := (List.replicate 64 0 ++ (b ++ List.replicate 64 0).take 64 ++ [1, 0, 0, 0, 1, 0] ++ List.replicate 58 0), nodes := [(0, n)] }))
    { a := 3, b := 0 }
theorem wit_SchedulerEvents_nodes : ∃ t t' t'', let c := graphing ([2, 0, 0, 0, 0, 0] ++ List.replicate 26 0 ++ [32]) { st := 1 } (tables 4);
    let b := graphing ([4, 2, 0, 0, 0, 0, 0, 0, 1, 1]) { st := 1 } (tables 4); let l := graphing ([5, 2, 0, 0, 1, 0, 0, 0, 1, 1]) { st := 1 } (tables 4);
    NodeReady c.m 3 0 ∧ (c.m.run 3).field 0 0 1 = 2 ∧ (c.m.run 3).field 0 32 8 ≠ 0 ∧ exec .graphNodeRun c = .next t ∧
    NodeReady b.m 3 0 ∧ (b.m.run 3).field 0 0 1 = 4 ∧ ((b.m.run 3).node 1).st = 0 ∧ (b.m.run 3).field 1 4 2 ≤ ((b.m.run 3).node 1).got + 1 ∧
    exec .graphNodeRun b = .next t' ∧ NodeReady l.m 3 0 ∧ (l.m.run 3).field 0 0 1 = 5 ∧ exec .graphNodeRun l = .next t'' :=
  ⟨_, _, _, by unfold NodeReady; decide, by decide, by decide, rfl, by unfold NodeReady; decide, by decide, by decide, by decide, rfl,
    by unfold NodeReady; decide, by decide, rfl⟩
theorem wit_SchedulerEvents_launches : ∃ t t' t'', let n := graphing [1, 0, 0, 0, 0, 0]; let g := graphing ([3, 0, 0, 0, 0, 0] ++ List.replicate 18 0 ++ [7] ++ List.replicate 7 0 ++ [5]) { st := 1 } (tables 4);
    let o := graphing [2, 0, 1, 0, 0, 0] { st := 2, readyAt := 0 } (atTime 2000);
    NodeReady n.m 3 0 ∧ (n.m.run 3).field 0 0 1 = 1 ∧ n.m.hasLaunch (launchKey 0 2) = false ∧ exec .graphNodeRun n = .next t ∧
    NodeReady g.m 3 0 ∧ (g.m.run 3).field 0 0 1 = 3 ∧ (g.m.run 3).field 0 16 1 = 0 ∧ (g.m.run 3).field 0 24 8 = 7 ∧ exec .graphNodeRun g = .next t' ∧
    (o.m.run 3).field 0 2 2 ≠ 0 ∧ ((o.m.run 3).node 0).overrun = false ∧ ((o.m.run 3).node 0).readyAt + 1000 * (o.m.run 3).field 0 2 2 < o.m.sys.ns ∧
    exec .graphDeadlineOverrun o = .next t'' :=
  ⟨_, _, _, by unfold NodeReady; decide, by decide, by decide, rfl, by unfold NodeReady; decide, by decide, by decide, by decide, rfl, by decide,
    by decide, by decide, rfl⟩
/-- A task image of 192 bytes, one task of one instruction section, at address 0 of the partition; its SHA3-256 digest. -/
def digest : Nat := 0x454ce6543a5af00acc4d7e9137bc0262d1cbb5807a1b46c4bb6a7d84dd0e3339
def imageBytes : List Byte :=
  leBytes 0x4C50 2 ++ [1, 0, 1, 1, 0, 0] ++ leBytes 1 4 ++ [1, 1, 1, 0] ++ leBytes 0 8 ++ leBytes 0xFFFF 2 ++ List.replicate 30 0 ++ leBytes 192 8 ++ leBytes digest 32 ++
    List.replicate 64 0 ++ leBytes 12 16 ++ leBytes 184 8 ++ leBytes 8 4 ++ leBytes 8 4
/-- The image lies in a region of state `st` of VF 1, whose slot 0 is `w`; a tile and 4 slots are its quota. -/
def slotted (st : Nat) (w : Slot) (m : Mach) : Mach :=
  let m := tables st (withVf m)
  let m := m.setHbm (m.sys.hbm.writeList (2 ^ 30) imageBytes)
  (m.setVf 1 { m.vf 1 with vqb := BitVec.ofNat 64 (2 ^ 53 + 2 ^ 48) }).setSlot 1 0 w
def resident : Slot := { st := 2, cur := 1, gens := [{ gen := 1, waddr := 0, wlen := 0 }] }
theorem wit_LaunchAndSlotEvents_invoke : ∃ t t' t'', let b := entry 1 (512 * 1) (leBytes 64 7); let s := fun w => queued 1 0 b (slotted 3 w);
    let r := s resident; let e := s {}; let l := s { st := 1 };
    AtHead r.m 1 0 b ∧ invokeLong b = false ∧ invokeForm r.m 16 b = true ∧ residency r.m 1 (r.m.queue 16).slotm 0 = .ok ∧
    r.m.hasLaunch (launchKey 0 2) = false ∧ exec .invoke r = .next t ∧ AtHead e.m 1 0 b ∧ residency e.m 1 (e.m.queue 16).slotm 0 = .fail 1 ∧
    exec .invoke e = .next t' ∧ AtHead l.m 1 0 b ∧ residency l.m 1 (l.m.queue 16).slotm 0 = .waits ∧ exec .invoke l = .next t'' :=
  ⟨_, _, _, ⟨by decide, by decide, rfl, by decide, by decide⟩, by decide, by decide, by decide, by decide, rfl,
    ⟨by decide, by decide, rfl, by decide, by decide⟩, by decide, rfl, ⟨by decide, by decide, rfl, by decide, by decide⟩, by decide, rfl⟩
theorem wit_LaunchAndSlotEvents_slots : ∃ t t' t'' u, let b := entry 2 0 (leBytes 0 8 ++ leBytes 192 8); let l := queued 1 0 b (slotted 1 {}); let f := queued 1 0 b (slotted 1 resident);
    let c := entry 3 0; let x := queued 1 0 c (slotted 3 resident); let d := entry 4 0 (List.replicate 16 0 ++ leBytes 0 8 ++ leBytes 64 8); let w := queued 1 0 d (slotted 1 resident);
    AtHead l.m 1 0 b ∧ leAt b 16 8 = 192 ∧ (l.m.slot 1 0).st = 0 ∧ twoRanges l.m 0 1 0 192 0 0 accRead = .ok [512] [] ∧ exec .loadslot l = .next t ∧
    AtHead f.m 1 0 b ∧ (f.m.slot 1 0).st ≠ 0 ∧ exec .loadslot f = .next t' ∧ AtHead x.m 1 0 c ∧ (x.m.slot 1 0).st = 2 ∧ exec .unloadslot x = .next t'' ∧
    AtHead w.m 1 0 d ∧ twoRanges w.m 0 1 0 64 0 0 accRead = .ok [512] [] ∧ (w.m.slot 1 0).cur < 0xFFFFFFFF ∧ exec .swapweights w = .next u :=
  ⟨_, _, _, _, ⟨by decide, by decide, rfl, by decide, by decide⟩, by decide, rfl, rfl, rfl, ⟨by decide, by decide, rfl, by decide, by decide⟩, by decide, rfl,
    ⟨by decide, by decide, rfl, by decide, by decide⟩, rfl, rfl, ⟨by decide, by decide, rfl, by decide, by decide⟩, rfl, by decide, rfl⟩
/-- A graph of one node, a copy, at 4096; its condition words lie in region 513. -/
def graphBytes : List Byte := leBytes 0x4C30 2 ++ [1, 0, 1, 0] ++ List.replicate 58 0 ++ [2] ++ List.replicate 63 0
def graphed (m : Mach) : Mach :=
  let m := slotted 3 resident m
  (m.setHbm (m.sys.hbm.writeList (2 ^ 30 + 4096) graphBytes)).setRegion 0 513 { RegionE.unalloc with st := 4, vfn := 1 }
theorem wit_LaunchAndSlotEvents_graph : ∃ t, let b := entry 5 0 (leBytes 4096 8 ++ leBytes 0x200000 8); let s := queued 1 0 b graphed; let d := devRead s.m 0 4096 128;
    AtHead s.m 1 0 b ∧ residency s.m 1 (s.m.queue 16).slotm 0 = .ok ∧ rangeIn s.m 0 4096 64 (graphSource 1) = true ∧
    rangeIn s.m 0 0x200000 2048 (fun e => e.st == 4 && e.vfn == 1) = true ∧ leAt (devRead s.m 0 4096 64) 4 2 = 1 ∧
    rangeIn s.m 0 4096 128 (graphSource 1) = true ∧ graphOk d = true ∧ leAt d 4 2 = 1 ∧ leAt d 68 2 = 0 ∧ exec .graph s = .next t :=
  ⟨_, ⟨by decide, by decide, rfl, by decide, by decide⟩, by decide, by decide, by decide, by decide, by decide, by decide, by decide, by decide, rfl⟩
/-- The slot loads at a command's request. -/
def loadingSlot (g : List WGen) : Slot := { st := 1, nti := 0, ntil := 192, cmd := some (16, ⟨0, 2, 0, 7, 0⟩), gens := g, regs := [512] }
theorem imageBytes_ok : imageOk imageBytes 192 = true := by decide
theorem imageBytes_read : devRead (queued 1 0 [] (slotted 5 (loadingSlot []))).m 0 0 192 = imageBytes := by decide
theorem wit_LaunchAndSlotEvents_loaded : ∃ t t' t'', let y := { queued 1 0 [] (slotted 5 (loadingSlot [])) with arg := { a := 1, b := 0 } };
    let n := { queued 1 0 [] (fun m => let m := slotted 5 (loadingSlot []) m; m.setHbm (m.sys.hbm.writeNat (2 ^ 30) 1 0)) with arg := { a := 1, b := 0 } };
    let e := { queued 1 0 [] (slotted 5 (loadingSlot [])) with arg := { a := 1, b := 0, c := 1 } };
    (y.m.slot 1 0).st = 1 ∧ (y.m.slot 1 0).cmd = some (16, ⟨0, 2, 0, 7, 0⟩) ∧ (y.m.slot 1 0).src = 0 ∧ imageOk (devRead y.m 0 0 192) 192 = true ∧
    exec .slotLoadDone y = .next t ∧ imageOk (devRead n.m 0 0 192) 192 = false ∧ exec .slotLoadDone n = .next t' ∧ e.arg.c ≠ 0 ∧ exec .slotLoadDone e = .next t'' :=
  ⟨_, _, _, rfl, rfl, rfl, (congrArg (imageOk · 192) imageBytes_read).trans imageBytes_ok, rfl, by decide, rfl, by decide, rfl⟩
theorem wit_LaunchAndSlotEvents_generations : ∃ t t', let x : WGen := { gen := 1, waddr := 0, wlen := 0, swap := some (16, ⟨0, 4, 0, 7, 0⟩, 2), regs := [512] };
    let s := { queued 1 0 [] (slotted 5 { st := 2, cur := 2, gens := [x] }) with arg := { a := 1, b := 0, c := 1 } };
    let h := { queued 1 0 [] id with arg := { a := 1, v := 0x8000000100000000 } };
    (s.m.slot 1 0).wgen 1 = some x ∧ x.users = [] ∧ (s.m.slot 1 0).st = 2 ∧ (s.m.slot 1 0).cur ≠ 1 ∧ exec .generationRetired s = .next t ∧
    (h.m.vf 1).live = true ∧ h.arg.v.getLsbD 63 = true ∧ exec .handleCommit h = .next t' := ⟨_, _, rfl, rfl, rfl, by decide, rfl, rfl, by decide, rfl⟩
theorem wit_LaunchAndSlotEvents_copies : ∃ t t', let c : Copy := { q := 16, daddr := 0, haddr := 64, len := 16, req := 1, held := [512] };
    let s := { queued 1 0 [] (fun m => (tables 5 m).onSys fun y => { y with copies := [(9, c)] }) with arg := { a := 9, b := 0 } };
    s.m.copy 9 = c ∧ (∃ e ∈ s.m.sys.copies, e.1 = 9) ∧ devPieces s.m 0 0 16 accWrite = .ok [(2 ^ 30, 16)] ∧ s.m.stalled [(2 ^ 30, 16)] = false ∧
    keyErased s.m (2 ^ 30) = false ∧ exec .copyhDone s = .next t ∧ exec .pageRequestResponse s = .next t' :=
  ⟨_, _, rfl, by decide, rfl, rfl, rfl, rfl, rfl⟩
theorem wit_LaunchAndSlotEvents_tables : OffTables (queued 1 0 [] (tables 5)).m (2 ^ 30) 16 := by
  refine ⟨by decide, fun P => Or.inr ?_⟩
  show monArea (SMap.get (fun _ => ({} : Part)) (queued 1 0 [] (tables 5)).m.sys.parts P).lead + 16 * 196608 ≤ 2 ^ 30
  match P with
  | 0 => decide
  | n + 1 => show monArea 0 + 16 * 196608 ≤ 2 ^ 30; decide
/-- A launch packet of sender 7 for slot 0 of VF 1 of the partition; the partition knows the sender, or not; it waits there. -/
def packetBytes : List Byte := leBytes 0x4C01 2 ++ [1, 0] ++ leBytes 1 4 ++ leBytes 7 8 ++ leBytes 0 2 ++ leBytes 1 2 ++ List.replicate 172 0
def arrived (f : Part → Part) : State := { queued 1 0 [] (fun m => let m := slotted 3 resident m; m.setPart 0 (f (m.partn 0))) with arg := { a := 4, bytes := packetBytes } }
def knows (p : Part) : Part := { p with senders := [(0, 7)] }
theorem packetOk_arrived : PacketOk (arrived knows).m packetBytes := by
  refine ⟨by decide, by decide, by decide, by decide, rfl, by decide, by decide, by decide, by decide, by decide⟩
theorem wit_LaunchAndSlotEvents_packets : ∃ t t' t'', let n := arrived id; let s := arrived knows;
    let w := { arrived (fun p => { knows p with waiting := [⟨4, 7, 1, packetBytes⟩] }) with arg := { a := 0 } };
    n.arg.bytes.length = 192 ∧ leAt n.arg.bytes 0 2 = 0x4C01 ∧ (n.m.partn 0).used = true ∧ (n.m.partn 0).senders = [] ∧ exec .launchPacket n = .next t ∧
    (∃ e ∈ (s.m.partn 0).senders, e.2.toNat = pktSender packetBytes) ∧ (s.m.partn 0).waiting = [] ∧ exec .launchPacket s = .next t' ∧
    (w.m.partn 0).waiting = [⟨4, 7, 1, packetBytes⟩] ∧ pktPart packetBytes = 0 ∧ exec .launchPacketRecheck w = .next t'' :=
  ⟨_, _, _, by decide, by decide, rfl, rfl, rfl, by decide, rfl, rfl, rfl, by decide, rfl⟩
theorem wit_LaunchAndSlotEvents_fabric : ∃ t t', let b := entry 2 64 (leBytes 0 8 ++ leBytes 64 8 ++ leBytes 0 8 ++ leBytes 64 8 ++ leBytes (2 ^ 60 + 3 * 2 ^ 49) 8);
    let s := fun fab => queued 1 0 b (fun m => let m := slotted 1 {} m; m.setPart 0 { m.partn 0 with fab := fab });
    let y := s [(3, 9)]; let n := s [(4, 9)]; AtHead y.m 1 0 b ∧ argOf b < 2 ^ 8 ∧ nbits (argOf b) 7 6 = 1 ∧ twoRanges y.m 0 1 0 64 0 64 accWrite = .ok [512] [512] ∧
    waitsMap y.m 16 = false ∧ fabricKnown y.m 0 (leAt b 40 8) = true ∧ exec .loadslot y = .next t ∧
    fabricKnown n.m 0 (leAt b 40 8) = false ∧ exec .loadslot n = .next t' :=
  ⟨_, _, ⟨by decide, by decide, rfl, by decide, by decide⟩, by decide, by decide, rfl, rfl, by decide, rfl, by decide, rfl⟩
theorem wit_LaunchAndSlotEvents_ready : let y := queued 1 0 [] (slotted 5 (loadingSlot []));
    let f := queued 1 0 [] (slotted 5 { loadingSlot [{ gen := 1, waddr := 0, wlen := 64 }] with src := 1 });
    loadWaits y.m 1 0 = false ∧ loadGap y.m 0 (y.m.slot 1 0) = none ∧ devStalled y.m 0 0 192 accRead = false ∧
    (f.m.slot 1 0).src = 1 ∧ loadGap f.m 0 (f.m.slot 1 0) = none ∧ devStalled f.m 0 0 64 accWrite = false ∧
    (f.m.slot 1 0).weights.wlen = 64 ∧ devPieces f.m 0 0 64 accWrite = .ok [(2 ^ 30, 64)] ∧
    copiesHold (queued 1 0 [] (slotted 5 { st := 2, cur := 2, gens := [] })).m 0 [512] = false :=
  ⟨rfl, rfl, rfl, rfl, rfl, rfl, rfl, rfl, rfl⟩
theorem wit_LaunchAndSlotEvents_pages : ∃ t t' u u', let c : Copy := { q := 16, daddr := 0, haddr := 64, len := 16, req := 1, held := [512] };
    let at_ := fun (r : Nat) (b c1 : Nat) => { queued 1 0 [] (fun m => (tables 5 m).onSys fun y => { y with copies := [(9, { c with req := r })] }) with arg := { a := 9, b := b, c := c1 } };
    (∃ e ∈ (at_ 1 1 0).m.sys.copies, e.1 = 9) ∧ c.node = none ∧ c.dir ≤ 1 ∧ pagesAsked (at_ 1 1 0).m < 512 ∧ exec .copyhDone (at_ 1 1 0) = .next t ∧
    exec .pageRequestResponse (at_ 1 1 0) = .next t' ∧ ((at_ 4 1 0).m.copy 9).req = 4 ∧ exec .pageRequestResponse (at_ 4 1 0) = .next u ∧
    exec .pageRequestResponse (at_ 4 0 0) = .next u' := ⟨_, _, _, _, ⟨_, .head _, rfl⟩, rfl, by decide, by decide, rfl, rfl, rfl, rfl, rfl⟩
/-- A forwarding entry of VF 1 in state `k`; a message to the partition. -/
def forwarded (k : Nat) (b : List Byte) : State :=
  { queued 1 0 [] (fun m => (tables 4 m).setPart 0 { (tables 4 m).partn 0 with fwds := [{ id := 9, vf := 1, q := 16, addr := 8, state := k }] }) with arg := { a := 0, bytes := b } }
theorem wit_LaunchAndSlotEvents_forwards : ∃ t t', let b := leBytes 0x4C20 2 ++ [1, 0] ++ leBytes 9 4 ++ leBytes 1 4 ++ leBytes 0 4 ++ leBytes 8 8 ++ leBytes 5 8;
    let e := leBytes 0x4C21 2 ++ [1, 0] ++ leBytes 9 4 ++ List.replicate 24 0; let s := forwarded 2 b; let r := forwarded 1 e;
    b.length = 32 ∧ zeroAt b 12 4 = true ∧ (s.m.partn 0).fwds.find? (fun f => f.id == 9 && f.state == 2) = some { id := 9, vf := 1, q := 16, addr := 8, state := 2 } ∧
    leAt b 16 8 = 8 ∧ leAt b 8 4 = 1 ∧ sigWord s.m 0 1 8 accWrite = .ok (2 ^ 30 + 8) ∧ exec .forwardedWrite s = .next t ∧
    e.length = 32 ∧ zeroAt e 8 24 = true ∧ (r.m.partn 0).fwds.find? (fun f => f.id == 9 && f.state != 2) = some { id := 9, vf := 1, q := 16, addr := 8, state := 1 } ∧
    exec .forwardEnd r = .next t' :=
  ⟨_, _, by decide, by decide, by decide, by decide, by decide, rfl, rfl, by decide, by decide, by decide, rfl⟩
theorem wit_LaunchAndSlotEvents_remote : ∃ t t' t'', let at_ := fun (st n : Nat) => { queued 1 0 [] (tables st) with arg := { a := 0, b := 8, c := n, bytes := leBytes 5 8 } };
    let w := at_ 4 8; let r := at_ 3 8;
    devPieces w.m 0 8 8 accWrite = .ok [(2 ^ 30 + 8, 8)] ∧ (w.m.region 0 512).st = 4 ∧ (w.m.partn 0).fwds = [] ∧ (w.m.vf 1).mig ≠ 4 ∧ (w.m.vf 1).live = true ∧
    keyErased w.m (2 ^ 30 + 8) = false ∧ exec .remoteWrite w = .next t ∧ devPieces r.m 0 8 8 accRead = .ok [(2 ^ 30 + 8, 8)] ∧ (r.m.region 0 512).st = 3 ∧
    r.m.sys.hbmErr = [] ∧ exec .remoteRead r = .next t' ∧ exec .remoteRead w = .next t'' :=
  ⟨_, _, _, rfl, rfl, rfl, by decide, rfl, rfl, rfl, rfl, rfl, rfl, rfl, rfl⟩
theorem wit_LaunchAndSlotEvents_atomic : ∃ t u, let at_ := fun (n : Nat) => { queued 1 0 [] (tables 4) with arg := { a := 0, b := 8, c := n, bytes := leBytes 5 8 } };
    (at_ 0).m.stalled [(2 ^ 30 + 8, 8)] = false ∧ exec .remoteWrite (at_ 0) = .next t ∧ (amoOf[1 - 1]?).isSome = true ∧
    sigWord (at_ 1).m 0 0 8 accAtomic = .ok (2 ^ 30 + 8) ∧ ((at_ 1).m.region 0 512).st = 4 ∧ (at_ 1).m.sys.hbmErr = [] ∧
    exec .remoteWrite (at_ 1) = .next u := ⟨_, _, rfl, rfl, by decide, rfl, rfl, rfl, rfl⟩
theorem wit_SchedulerEvents_operands : let c := graphing ([2, 0, 0, 0, 0, 0] ++ List.replicate 26 0 ++ [32]) { st := 1 } (tables 1);
    let g := graphing ([3, 0, 0, 0, 0, 0] ++ List.replicate 18 0 ++ [7]) { st := 1 } fun m =>
      (m.setVf 1 { m.vf 1 with vqb := 8 * 2 ^ 16 }).setHbm (m.sys.hbm.writeNat (semMapAddr m 0 1 7) 4 (2 ^ 31 + 9));
    let n := graphing [1, 0, 0, 0, 0, 0] { st := 1 } fun m => (slotted 3 resident m);
    copyRegions c.m 0 32 ({ q := 16, dir := 3, len := 32 } : Copy).ranges = .ok [(512, false), (512, true)] ∧ semOf g.m 0 1 7 = some (0, 9) ∧ (g.m.sem 0 9).waiters = [] ∧
    NodeReady n.m 3 0 ∧ (n.m.run 3).field 0 26 2 < (imageAt n.m 0 (n.m.slot 1 0).nti).entries.length :=
  ⟨rfl, by decide, rfl, by unfold NodeReady; decide, by decide⟩

/-! ### Well-formedness: a term that each check refuses -/

theorem refused_compare_to_p0 : (Instr.cmpEq 0 1 2).wellFormed = false ∧ (Instr.cmpLeu 0 1 2).wellFormed = false ∧
    (Instr.cmpiNe 0 1 2).wellFormed = false := by decide
theorem refused_pmov : (Instr.pmov 16 0 0).wellFormed = false ∧ (Instr.pmov 16 20 1).wellFormed = false ∧
    (Instr.pmov 20 16 2).wellFormed = false ∧ (Instr.pmov 0 0 3).wellFormed = false := by decide
theorem refused_loop_too_short : (Instr.loop 1 0 1).wellFormed = false ∧ (Instr.loopi 1 0 1).wellFormed = false := by decide
theorem refused_amo_fn : (Instr.amo 1 2 9 0).wellFormed = false := by decide
theorem refused_odd_pair : (Instr.cas 3 1 0).wellFormed = false ∧ (Instr.fminmaxn 3 1 0).wellFormed = false ∧ (Instr.wpop 60 1 0).wellFormed = false := by decide
theorem refused_row_pair : (Instr.vrshr 0 59 1 3).wellFormed = false ∧ (Instr.vslidei 0 59 0 0 1).wellFormed = false := by decide
theorem refused_types : (Instr.vred 0 0 3).wellFormed = false ∧ (Instr.vcvt 0 0 3 0).wellFormed = false ∧ (Instr.vtype 0 10).wellFormed = false ∧
    (Instr.mzero 0 14).wellFormed = false ∧ (Instr.mfill 0 0 15).wellFormed = false ∧ (Instr.mcfgT 9 8).wellFormed = false := by decide
theorem refused_fields : (Instr.vwin 2 4).wellFormed = false ∧ (Instr.vtopk 0 0 4 2).wellFormed = false ∧ (Instr.mmask 33 0).wellFormed = false ∧
    (Instr.mmask 0 65).wellFormed = false ∧ (Instr.mdrain 0 7).wellFormed = false ∧ (Instr.mwait 1 1).wellFormed = false ∧ (Instr.cwait 0 1 1).wellFormed = false := by decide
theorem refused_queues : (Instr.qbind 0 9 5 0).wellFormed = false ∧ (Instr.qbind 12 1 6 0).wellFormed = false ∧ (Instr.qbind 0 1 1 2).wellFormed = false ∧
    (Instr.qbind 0 8 5 0).wellFormed = false ∧ (Instr.wpopQ 0 0 11).wellFormed = false := by decide
theorem refused_system : (Instr.fence 5).wellFormed = false ∧ (Instr.chk 0 60 0).wellFormed = false ∧ (Instr.chkt 2 16).wellFormed = false ∧
    (Instr.pclr 3 0).wellFormed = false ∧ (Instr.swpt 256).wellFormed = false ∧ (Instr.waite 0 0 32).wellFormed = false := by decide
theorem refused_header : (Instr.bh 0 1 0 5).wellFormed = false ∧ (Instr.bh 1 0 3 0).wellFormed = false ∧ (Instr.bh 1 1 8 0).wellFormed = false ∧
    (⟨false, 1, .kx 4⟩ : Word).wellFormed = false ∧ (⟨false, 1, .bh 0 0 0 0⟩ : Word).wellFormed = false := by decide

/-! ### Words that the spec writes out (14 Table 14-5; 15 R365; 16 R387, R405; 17; 18 Table 18-2, R446, R455; 19; 20) -/

theorem decode_control : decode 0x107D6542 = .ok ⟨true, 0, .addx 22 21 2⟩ ∧ decode 0x104861BF = .ok ⟨true, 0, .shli 6 6 63⟩ ∧
    decode 0x00385180 = .ok ⟨false, 0, .ori 5 6 0⟩ ∧ decode 0x10D08284 = .ok ⟨true, 0, .loopi 1 5 4⟩ ∧ decode 0x10CCA008 = .ok ⟨true, 0, .loop 10 0 8⟩ ∧
    decode 0x12BBFFFC = .ok ⟨true, 2, .br 0x3FFFC⟩ ∧ decode 0x10848086 = .ok ⟨true, 0, .cmpNe 1 2 6⟩ ∧ decode 0x10888105 = .ok ⟨true, 0, .cmpLt 1 4 5⟩ :=
  ⟨rfl, rfl, rfl, rfl, rfl, rfl, rfl, rfl⟩
theorem decode_registers : decode 0x10D54023 = .ok ⟨true, 0, .csrr 20 0x023⟩ ∧ decode 0x10D83803 = .ok ⟨true, 0, .csrw 3 0x803⟩ ∧
    decode 0x10E0B024 = .ok ⟨true, 0, .csrc 11 0x024⟩ := ⟨rfl, rfl, rfl⟩
theorem decode_memory : decode 0x381CA140 = .ok ⟨true, 8, .ldd 10 5 0 0⟩ ∧ decode 0x301C40A0 = .ok ⟨true, 0, .ldd 4 2 1 0⟩ ∧
    decode 0x302904C0 = .ok ⟨true, 0, .stw 16 19 0⟩ ∧ decode 0x30320080 = .ok ⟨true, 0, .ldv 32 2 0 0⟩ ∧ decode 0x2035E100 = .ok ⟨false, 0, .stv 30 4 0⟩ ∧
    decode 0x30382149 = .ok ⟨true, 0, .amo 2 5 2 1⟩ ∧ decode 0x37400280 = .ok ⟨true, 7, .ownx 10 0⟩ ∧ decode 0x3054028B = .ok ⟨true, 0, .semsig 10 11⟩ ∧
    decode 0x305D4016 = .ok ⟨true, 0, .semtry 20 0 22⟩ := ⟨rfl, rfl, rfl, rfl, rfl, rfl, rfl, rfl, rfl⟩
theorem decode_vector : decode 0x50881200 = .ok ⟨true, 0, .vtype 1 2⟩ ∧ decode 0x5068C2A0 = .ok ⟨true, 0, .vslidei 12 10 1 0 0⟩ ∧
    decode 0x5069A2AE = .ok ⟨true, 0, .vslidei 26 10 1 0 14⟩ ∧ decode 0x507A1669 = .ok ⟨true, 0, .vmac2 33 25 41⟩ ∧ decode 0x5045E82F = .ok ⟨true, 0, .vrshr 30 32 1 15⟩ ∧
    decode 0x42505F00 = .ok ⟨false, 2, .vmov 5 60⟩ ∧ decode 0x50840800 = .ok ⟨true, 0, .vcvts 0 32 0⟩ ∧ decode 0xB02B6D52 = .ok ⟨true, 0, .vpart 54 53 18⟩ :=
  ⟨rfl, rfl, rfl, rfl, rfl, rfl, rfl, rfl⟩
theorem decode_matrix : decode 0x70040770 = .ok ⟨true, 0, .mcfgT 7 7⟩ ∧ decode 0x70050240 = .ok ⟨true, 0, .mcfgW 9⟩ ∧ decode 0x700A01C8 = .ok ⟨true, 0, .mlda 1 7 8⟩ ∧
    decode 0x700C01C1 = .ok ⟨true, 0, .mgath 0 7 1⟩ ∧ decode 0x70103800 = .ok ⟨true, 0, .mma 3 1⟩ ∧ decode 0x70144000 = .ok ⟨true, 0, .mmaz 4 0⟩ ∧
    decode 0x701C4800 = .ok ⟨true, 0, .mdrain 4 8⟩ ∧ decode 0x702402C0 = .ok ⟨true, 0, .mspill 0 11⟩ ∧ decode 0x702C0001 = .ok ⟨true, 0, .mwait 0 1⟩ :=
  ⟨rfl, rfl, rfl, rfl, rfl, rfl, rfl, rfl, rfl⟩
theorem decode_engines : decode 0x90162540 = .ok ⟨true, 0, .qbind 8 9 5 0⟩ ∧ decode 0x90207109 = .ok ⟨true, 0, .cpy 7 4 9⟩ ∧
    decode 0x90240462 = .ok ⟨true, 0, .cpyp 0 17 34⟩ ∧ decode 0x902C04C0 = .ok ⟨true, 0, .cwait 0 19 0⟩ ∧ decode 0x9038B36F = .ok ⟨true, 0, .seamg 11 13 47⟩ ∧
    decode 0x933CB53C = .ok ⟨true, 3, .seamp 11 20 60⟩ := ⟨rfl, rfl, rfl, rfl, rfl, rfl⟩
theorem decode_system : decode 0xD0084002 = .ok ⟨true, 0, .barq 4 2⟩ ∧ decode 0xD0040001 = .ok ⟨true, 0, .bar 1⟩ ∧ decode 0xD00C0004 = .ok ⟨true, 0, .fence 4⟩ ∧
    decode 0xD010100F = .ok ⟨true, 0, .chk 0 4 15⟩ ∧ decode 0xD01C0003 = .ok ⟨true, 0, .trap 3⟩ ∧ decode 0xD0200000 = .ok ⟨true, 0, .tret⟩ ∧
    decode 0xD0240000 = .ok ⟨true, 0, .yield⟩ ∧ decode 0xD02C0000 = .ok ⟨true, 0, .done⟩ ∧ decode 0xD0301010 = .ok ⟨true, 0, .waite 1 0 16⟩ :=
  ⟨rfl, rfl, rfl, rfl, rfl, rfl, rfl, rfl, rfl⟩
theorem decode_privileged : decode 0xD0409201 = .ok ⟨true, 0, .frz 9 8 1⟩ ∧ decode 0xD0459200 = .ok ⟨true, 0, .thaw 25 8 0⟩ ∧ decode 0xD0540209 = .ok ⟨true, 0, .keyl 8 9⟩ ∧
    decode 0xD05CE300 = .ok ⟨true, 0, .siteq 14 12⟩ ∧ decode 0xD0658556 = .ok ⟨true, 0, .qcbb 24 21 22⟩ := ⟨rfl, rfl, rfl, rfl, rfl⟩
theorem refused_word_reserved_bit : (decode 0xD02C0002).isOk = false ∧ (decode 0xD0040004).isOk = false ∧ (decode 0x10FC0000).isOk = false := by decide

/-! ### Worked values of the spec (14 R344; 15 R365; 16 R387, R405; 18 R446) -/

/-- R387: `vrshr.n v40, v4, 15` into INT16 lanes from the INT32 rows v4 and v5. -/
def narrowing : State := tileAt fun c =>
  ((c.setCsr true 0x014 0x22222212).setRow 4 ⟨rowOf 32 [16384, 49151, 0x7FFFFFFF, 2 ^ 32 - 16384, 2 ^ 32 - 16385], false⟩).setRow 5
    ⟨rowOf 32 (List.replicate 64 (2 ^ 31)), false⟩
def rowAfter (i : Instr) (s : State) (r w n : Nat) : List Nat :=
  match exec i s with | .next t => (lanes w (2048 / w) (t.m.core.row r).v).take n | _ => []
def flagAfter (i : Instr) (s : State) (n : Nat) : Dword :=
  match exec i s with | .next t => t.m.csr n | _ => 0
theorem test_vrshr_rounds_and_saturates : narrowing.old.nameType 40 = 1 ∧ narrowing.old.nameType 4 = 2 ∧
    rowAfter (.vrshr 40 4 1 15) narrowing (narrowing.old.rowOf 40) 16 65 = [1, 1, 32767, 0, 65535] ++ List.replicate 59 0 ++ [32768] ∧
    flagAfter (.vrshr 40 4 1 15) narrowing 0x001 = 1 := by decide
/-- R405: `vtopk v40, v2, 2, 4`; lane 5 is a NaN, lanes 8 to 63 are minus infinity. -/
def ranking : State := tileAt fun c => (c.setCsr true 0x014 0x22222228).setRow 2
  ⟨rowOf 32 ([0x40000000, 0x3F000000, 0x40000000, 0x40000000, 0x3F800000, 0x7FC00000, 0x40400000, 0x80000000] ++ List.replicate 56 0xFF800000), false⟩
theorem test_vtopk_takes_the_lower_lane : rowAfter (.vtopk 40 2 1 2) ranking (ranking.old.rowOf 40) 32 12 = [0, 2, 0, 0, 4, 6, 0, 0, 8, 9, 0, 0] ∧
    flagAfter (.vtopk 40 2 1 2) ranking 0x000 = 0 := by decide
/-- R294: VADD in E4M3 with SF: 448 + 64, NaN + 1, 2 + 1. -/
def adding : State := tileAt fun c => (((c.setCsr true 0x014 0x4).setCsr true 0x002 0x8).setRow 0 ⟨0x407F7E, false⟩).setRow 1 ⟨0x383868, false⟩
theorem test_vadd_saturates_e4m3 : rowAfter (.vadd 2 0 1) adding 2 8 3 = [0x7E, 0x7F, 0x44] ∧ flagAfter (.vadd 2 0 1) adding 0x000 = 0x05 := by decide

theorem test_vmac2_saturates_once : rowAfter (.vmac2 2 0 1) (tileAt fun c => (((c.setCsr true 0x014 0x2).setRow 0 ⟨0x80007FFF, false⟩).setRow 1
    ⟨0x7FFF7FFF, false⟩).setRow 2 ⟨0x7FFFFF00, false⟩) 2 32 2 = [0x7FFF7F01, 0] := by decide
/-- R309, R310: the first lanes of the generator with seeds and counter 0; VCVTS of 0x3F800300 to BF16 with them. -/
theorem test_rng_first_lanes : rowAfter (.rng 2) (tileAt fun c => c.setCsr true 0x014 0x2) 2 32 2 = [0x01000003, 0x05100213] := by decide
theorem test_vcvts_rounds_by_the_generator : rowAfter (.vcvts 33 0 0) (tileAt fun c => (c.setCsr true 0x014 0x78).setRow 0 ⟨0x3F8003003F800300, false⟩)
    ((tileAt id).old.rowOf 33) 16 2 = [0x3F81, 0x3F80] := by decide
/-- R446: BARQ of level 2 with PHASE2 = 6 answers 7. -/
theorem test_barq : ∃ t, exec (.barq 4 2) (tileAt fun c => c.setCsr true 0x036 6) = .next t ∧ t.m.core.s 4 = ⟨7, false⟩ := ⟨_, rfl, by decide⟩
theorem wit_FlagsOnlyAccumulate : ∃ t, 5 < 32 ∧ FlagsRaised 5 true false tile t ∧ t.m.csr 0x000 = 5 := ⟨_, by decide, rfl, by decide⟩

end Sys2Proof.Tests
end

section
/-!
SUPPORT. The queues of the host (03 R48-R60, R72-R77, Tables 3-5 to 3-9): which part of the machine their operations touch, what
the end of a command records, when the entry at the head starts, what each command, doorbell, poll and bind request does to its
queue; and from these the obligation on the host's queues.
-/
namespace Sys2Proof.Machine

open Sys2Proof.Safety

/-! ### Byte memories -/

theorem Memory.readList_congr {m m' : Memory} {a n : Nat} (h : ∀ j, a ≤ j → j < a + n → m'.read j = m.read j) :
    m'.readList a n = m.readList a n := by
  induction n generalizing a with
  | zero => rfl
  | succ k ih =>
    simp only [Memory.readList]
    rw [h a (by omega) (by omega), ih fun j h1 h2 => h j (by omega) (by omega)]

/-- Bytes stored are read back whatever number is stored beside them. -/
theorem Memory.readList_writeNat_writeList (m : Memory) {a p n : Nat} (v : Nat) {bs : List Byte}
    (h : a + bs.length ≤ p ∨ p + n ≤ a) : ((m.writeList a bs).writeNat p n v).readList a bs.length = bs := by
  rw [Memory.readList_congr (m := m.writeList a bs) fun j h1 h2 => Memory.read_writeNat_out _ _ _ _ (by omega),
    Memory.readList_writeList]

/-- A number in a block of memory is the number in the list of its bytes. -/
theorem Memory.leAt_readList (m : Memory) (a i : Nat) {n len : Nat} (h : i + n ≤ len) :
    leAt (m.readList a len) i n = m.readNat (a + i) n := by
  have byte : ∀ (len a i : Nat), i < len → byteAt (m.readList a len) i = (m.read (a + i)).toNat := by
    intro len
    induction len with
    | zero => intro a i h; omega
    | succ k ih =>
      intro a i h
      cases i with
      | zero => rfl
      | succ j =>
        have := ih (a + 1) j (by omega)
        rw [show a + (j + 1) = a + 1 + j by omega, ← this]
        rfl
  induction n generalizing i with
  | zero => rfl
  | succ k ih =>
    simp only [leAt, Memory.readNat]
    rw [byte len a i (by omega), ih (i + 1) (by omega), Nat.add_assoc]

theorem Memory.readNat_writeNat_self (m : Memory) (a n v : Nat) : (m.writeNat a n v).readNat a n = v % 256 ^ n := by
  induction n generalizing m a v with
  | zero => simp [Memory.readNat, Nat.mod_one]
  | succ k ih =>
    simp only [Memory.writeNat, Memory.readNat]
    rw [ih, Memory.read_writeNat_out _ _ _ _ (by omega), Memory.read_write_self, BitVec.toNat_ofNat]
    exact (Nat.pow_succ' ▸ Nat.mod_mul).symm

theorem Memory.readNat_congr {m m' : Memory} {a n : Nat} (h : ∀ j, a ≤ j → j < a + n → m'.read j = m.read j) :
    m'.readNat a n = m.readNat a n := by
  induction n generalizing a with
  | zero => rfl
  | succ k ih =>
    simp only [Memory.readNat]
    rw [h a (by omega) (by omega), ih fun j h1 h2 => h j (by omega) (by omega)]

/-! ### The part of the machine that host queues work on -/

/-- `m` with the queues, the host's memory, what was sent, the copies and the count of names of `y`. -/
def Mach.withHost (m : Mach) (y : Sys) : Mach :=
  m.onSys fun s => { s with queues := y.queues, host := y.host, out := y.out, copies := y.copies, seq := y.seq }
/-- Nothing but that part has changed. -/
def HostOnly (m m' : Mach) : Prop := m' = m.withHost m'.sys

theorem HostOnly.trans {m m' m'' : Mach} (h : HostOnly m m') (h' : HostOnly m' m'') : HostOnly m m'' := by
  unfold HostOnly at *
  rw [h'.trans (congrArg (Mach.withHost · m''.sys) h)]
  rfl
theorem HostOnly.setQueue (m : Mach) (k : Nat) (q : Queue) : HostOnly m (m.setQueue k q) := rfl
theorem HostOnly.writeRec (m : Mach) (k : Nat) (b : List Byte) (irq : Bool) : HostOnly m (writeRec m k b irq) := by
  cases irq <;> rfl
theorem HostOnly.setHost (m : Mach) (h : Memory) : HostOnly m (m.setHost h) := rfl
theorem HostOnly.consume (m : Mach) (k n : Nat) : HostOnly m (consume m k n) :=
  (HostOnly.setHost m _).trans (HostOnly.setQueue _ _ _)
theorem HostOnly.complete (m : Mach) (k : Nat) (c : Cmd) (st d w i : Nat) : HostOnly m (complete m k c st d w i) := by
  unfold Machine.complete
  split
  · rfl
  · dsimp only
    split
    · rfl
    · exact (HostOnly.setQueue m _ _).trans (HostOnly.writeRec _ _ _ _)
theorem HostOnly.endCmd (m : Mach) (k n : Nat) (c : Cmd) (st d w i : Nat) : HostOnly m (endCmd m k n c st d w i) :=
  (HostOnly.consume m k n).trans (HostOnly.complete _ _ _ _ _ _ _)
theorem HostOnly.goOn (m : Mach) (k n : Nat) (c : Cmd) : HostOnly m (goOn m k n c) :=
  (HostOnly.consume m k n).trans (HostOnly.setQueue _ _ _)

theorem HostOnly.sem {m m' : Mach} (h : HostOnly m m') (p i : Nat) : m'.sem p i = m.sem p i := by rw [h]; rfl
theorem HostOnly.hbm {m m' : Mach} (h : HostOnly m m') : m'.sys.hbm = m.sys.hbm := by rw [h]; rfl

theorem Mach.setQueue_copies (m : Mach) (k : Nat) (q : Queue) : (m.setQueue k q).sys.copies = m.sys.copies := rfl
theorem Mach.setHost_copies (m : Mach) (h : Memory) : (m.setHost h).sys.copies = m.sys.copies := rfl
theorem Mach.send_copies (m : Mach) (x : Out) : (m.send x).sys.copies = m.sys.copies := rfl
/-- The end of a command leaves the copies alone. -/
theorem endCmd_copies (m : Mach) (k n : Nat) (c : Cmd) (st d w i : Nat) : (endCmd m k n c st d w i).sys.copies = m.sys.copies := by
  unfold Machine.endCmd Machine.complete Machine.writeRec Machine.consume
  dsimp only
  repeat' split
  all_goals simp only [Mach.setQueue_copies, Mach.setHost_copies, Mach.send_copies]

/-! ### Records (R51, R52, R60) -/

theorem consume_queue (m : Mach) (k n : Nat) :
    (consume m k n).queue k = { m.queue k with head := ((m.queue k).head + n) % 2 ^ 32 } := Mach.queue_setQueue_self _ _ _
theorem writeRec_queue (m : Mach) (k : Nat) (b : List Byte) (irq : Bool) :
    (writeRec m k b irq).queue k = { m.queue k with cprod := ((m.queue k).cprod + 1) % 2 ^ 32 } := by
  cases irq <;> exact Mach.queue_setQueue_self _ _ _
theorem writeRec_host {m : Mach} {k : Nat} {q : Queue} (hq : m.queue k = q) (b : List Byte) (irq : Bool) :
    (writeRec m k b irq).sys.host =
      (m.sys.host.writeList (q.cplb + 32 * (q.cprod % 2 ^ q.csize)) (b ++ [BitVec.ofNat 8 (phaseOf q.cprod q.csize)])).writeNat
        (q.qcba + 60) 4 ((q.cprod + 1) % 2 ^ 32) := by
  subst hq
  cases irq <;> rfl

/-- Whatever the record does, the end of a command changes of its queue the started commands, CPROD and the waiting records only. -/
theorem complete_queue (m : Mach) (k : Nat) (c : Cmd) (st d w i : Nat) : ∃ rs cp, (complete m k c st d w i).queue k =
    { m.queue k with started := (m.queue k).started.filter fun d => d.cnt != c.cnt, recs := rs, cprod := cp } := by
  unfold complete
  split
  · exact ⟨_, _, Mach.queue_setQueue_self _ _ _⟩
  · dsimp only
    split
    · exact ⟨_, _, Mach.queue_setQueue_self _ _ _⟩
    · rw [writeRec_queue, Mach.queue_setQueue_self]
      exact ⟨_, _, rfl⟩

theorem recBytes_length (ns : Nat) (c : Cmd) (st d w i : Nat) : (recBytes ns c st d w i).length = 31 := by
  simp [recBytes, timeBytes, leBytes_length]

/-- A record stands in the ring, with its PHASE, where the ring lies apart from the control block. -/
theorem writeRec_readList {m : Mach} {k : Nat} {q : Queue} (hq : m.queue k = q) {b : List Byte} (irq : Bool) (hb : b.length = 31)
    (hd : q.cplb + 32 * 2 ^ q.csize ≤ q.qcba ∨ q.qcba + 64 ≤ q.cplb) :
    (writeRec m k b irq).sys.host.readList (q.cplb + 32 * (q.cprod % 2 ^ q.csize)) 32 =
      b ++ [if q.cprod / 2 ^ q.csize % 2 = 0 then 1 else 0] := by
  have hp : BitVec.ofNat 8 (phaseOf q.cprod q.csize) = if q.cprod / 2 ^ q.csize % 2 = 0 then 1 else 0 := by
    unfold phaseOf; split <;> rfl
  have hl : (b ++ [BitVec.ofNat 8 (phaseOf q.cprod q.csize)]).length = 32 := by simp [hb]
  have hm := Nat.mod_lt q.cprod (Nat.two_pow_pos q.csize)
  rw [writeRec_host hq, ← hp]
  have h := Memory.readList_writeNat_writeList m.sys.host (a := q.cplb + 32 * (q.cprod % 2 ^ q.csize)) (p := q.qcba + 60)
    (n := 4) ((q.cprod + 1) % 2 ^ 32) (bs := b ++ [BitVec.ofNat 8 (phaseOf q.cprod q.csize)]) (by rw [hl]; omega)
  rwa [hl] at h

/-- The queue without a command that has completed. -/
def Queue.without (q : Queue) (c : Cmd) : Queue := { q with started := q.started.filter fun d => d.cnt != c.cnt }

section
variable {m : Mach} {k : Nat} {c : Cmd} {st : Nat} (d w i : Nat)

/-- NOCPL and STATUS 0: no record (R58). -/
theorem complete_silent (h : Nat.testBit c.flags 0 = true ∧ st = 0) :
    complete m k c st d w i = m.setQueue k ((m.queue k).without c) := if_pos h

/-- Otherwise the record is written where the ring has room. -/
theorem complete_written (h : ¬(Nat.testBit c.flags 0 = true ∧ st = 0)) (hf : (m.queue k).full = false) (hr : (m.queue k).recs = []) :
    complete m k c st d w i =
      writeRec (m.setQueue k ((m.queue k).without c)) k (recBytes m.sys.ns c st d w i) (nbit c.flags 1) := by
  have hroom : ¬(((m.queue k).without c).full = true ∨ ((m.queue k).without c).recs ≠ []) := by
    rintro (hc | hc)
    · exact Bool.false_ne_true (hf.symm.trans hc)
    · exact hc hr
  exact (if_neg h).trans (if_neg hroom)

end

theorem complete_recorded (m : Mach) (k : Nat) (c : Cmd) (st d w i : Nat) :
    Recorded m (complete m k c st d w i) k c st d w i := by
  unfold Recorded
  intro q q' hf hr
  obtain ⟨rs, cp, hq⟩ := complete_queue m k c st d w i
  refine ⟨(congrArg Queue.started hq :), ?_⟩
  show if _ then ((complete m k c st d w i).queue k).cprod = q.cprod else _ ∧ _
  split
  · next hn => rw [complete_silent d w i hn, Mach.queue_setQueue_self]; rfl
  · next hn =>
    have hk : (m.setQueue k (q.without c)).queue k = q.without c := Mach.queue_setQueue_self _ _ _
    refine ⟨?_, fun hd => ?_⟩
    · show ((complete m k c st d w i).queue k).cprod = _
      rw [complete_written d w i hn hf hr, writeRec_queue, hk]
      rfl
    · rw [complete_written d w i hn hf hr]
      exact writeRec_readList hk _ (recBytes_length _ _ _ _ _ _) hd

/-- `Recorded` speaks of the fields of the queue that no command has before its end, and of the instant. -/
theorem Recorded.of_queue {m m1 m' : Mach} {k : Nat} {c : Cmd} {st d w i h : Nat} {wc : Option (List Byte × Option Nat)}
    (hq : m1.queue k = { m.queue k with head := h, waitCmd := wc }) (hn : m1.sys.ns = m.sys.ns)
    (hr : Recorded m1 m' k c st d w i) : Recorded m m' k c st d w i := by
  unfold Recorded at *
  rw [hq, hn] at hr
  exact hr

/-- A command that ends at the head is recorded as ended, whatever was done before that left its queue and the instant alone. -/
theorem endCmd_ended {m m1 : Mach} {k : Nat} {wc : Option (List Byte × Option Nat)} (n : Nat) (c : Cmd) (st d w i : Nat)
    (hq : m1.queue k = { m.queue k with waitCmd := wc }) (hn : m1.sys.ns = m.sys.ns) :
    Ended m (endCmd m1 k n c st d w i) k n c st d w i := by
  have hc := consume_queue m1 k n
  rw [hq] at hc
  obtain ⟨rs, cp, hk⟩ := complete_queue (consume m1 k n) k c st d w i
  rw [hc] at hk
  exact ⟨(congrArg Queue.head hk :), (congrArg Queue.tail hk :),
    Recorded.of_queue hc hn (complete_recorded _ k c st d w i)⟩

/-- A command that ends in the machine as it stands. -/
theorem endCmd_ended_self (m : Mach) (k n : Nat) (c : Cmd) (st d w i : Nat) :
    Ended m (endCmd m k n c st d w i) k n c st d w i := endCmd_ended n c st d w i rfl rfl

theorem endCmd_waitCmd (m : Mach) (k n : Nat) (c : Cmd) (st d w i : Nat) :
    ((endCmd m k n c st d w i).queue k).waitCmd = (m.queue k).waitCmd := by
  obtain ⟨rs, cp, hk⟩ := complete_queue (consume m k n) k c st d w i
  rw [consume_queue] at hk
  exact (congrArg Queue.waitCmd hk :)

/-! ### The entry at the head of a queue starts (R49, R52, R58, R59) -/

theorem headOf_some {m : Mach} {k : Nat} {b : List Byte} (h : headOf m k = some b) :
    queueRuns m k = true ∧ (m.queue k).full = false ∧ (m.queue k).recs = [] ∧ (m.queue k).waitCmd = none := by
  unfold headOf at h
  dsimp only at h
  split at h
  · next hc =>
    simp only [Bool.and_eq_true, Bool.not_eq_true', beq_iff_eq, Option.isNone_iff_eq_none] at hc
    obtain ⟨⟨⟨⟨hruns, hfull⟩, hrecs⟩, hwait⟩, -⟩ := hc
    exact ⟨hruns, hfull, hrecs, hwait⟩
  · cases h

theorem catchUp_of_no_doorbell {m : Mach} {k : Nat} (h : (m.queue k).dbl = false) : catchUp m k = m := by
  simp [catchUp, h]

/-- No entry is skipped while the one at the head has an OPC that is not reserved. -/
theorem skipBad_of_head {m : Mach} {k : Nat} {b : List Byte} (h : headOf m k = some b) (ho : byteAt b 0 ≤ 10) (fuel : Nat) :
    skipBad fuel m k = m := by
  cases fuel with
  | zero => rw [skipBad]
  | succ n =>
    have hn : ¬ 0x0A < byteAt b 0 := by omega
    simp only [skipBad, h, if_neg hn]

/-- The command at the head runs, unless it is an INVOKE or a queue of this kind does not carry it. -/
theorem startCmd_atHead {m : Mach} {vfn qidx opc : Nat} {b : List Byte} (h : AtHead m vfn qidx b) (ho : byteAt b 0 = opc)
    (h10 : opc ≤ 10) (h1 : opc ≠ 1) (hk : kindFail vfn (m.queue (queueKey vfn qidx)).kind opc = none)
    (f : Mach → Nat → List Byte → Cmd → Mach) :
    startCmd m vfn qidx opc f = f m (queueKey vfn qidx) b (cmdOf (m.queue (queueKey vfn qidx)) b) := by
  obtain ⟨hv, hq, hd, hb, hf⟩ := h
  have hs : spanOf m (queueKey vfn qidx) b = some 1 := by
    have hl : invokeLong b = false := by
      unfold invokeLong
      rw [ho, beq_eq_false_iff_ne.mpr h1, Bool.false_and]
    unfold spanOf
    rw [hl, if_neg Bool.false_ne_true]
  unfold startCmd
  rw [if_neg (by omega)]
  extract_lets m1 m2
  have h1 : m1 = m := catchUp_of_no_doorbell hd
  have h2 : m2 = m := by
    show skipBad _ m1 _ = m
    rw [h1]
    exact skipBad_of_head hb (ho ▸ h10) _
  clear_value m2
  subst h2
  rw [hb]
  simp only [hs, ho]
  rw [if_neg (not_not_intro rfl), if_neg (by omega), hk]

theorem exec_atHead {s : State} {opc : Nat} {b : List Byte} (h : AtHead s.m s.arg.a s.arg.b b) (ho : byteAt b 0 = opc)
    (h10 : opc ≤ 10) (h1 : opc ≠ 1) (hk : kindFail s.arg.a (s.m.queue (queueKey s.arg.a s.arg.b)).kind opc = none)
    (f : Mach → Nat → List Byte → Cmd → Mach) :
    runEvent (fun x m => startCmd m x.a x.b opc f) s =
      .next { s with m := f s.m (queueKey s.arg.a s.arg.b) b (cmdOf (s.m.queue (queueKey s.arg.a s.arg.b)) b) } := by
  unfold runEvent
  dsimp only
  rw [startCmd_atHead h ho h10 h1 hk f]

/-- Every queue carries a command that is neither for a slot nor a copy. -/
theorem kindFail_of_neutral {vfn kind opc : Nat} (h : opc = 0 ∨ 7 ≤ opc) : kindFail vfn kind opc = none := by
  unfold kindFail
  rw [if_neg (by omega), if_neg (by omega)]

/-! ### NOP, MARK, FENCE (R74, R75) -/

section
variable {m : Mach} {k : Nat} {b : List Byte} {c : Cmd}

theorem cmdNop_ended (ha : argOf b = 0) (hz : zeroAt b 8 56 = true) : Ended m (cmdNop m k b c) k 1 c 0 0 0 0 := by
  unfold cmdNop
  rw [if_pos ⟨ha, hz⟩]
  exact endCmd_ended_self m k 1 c 0 0 0 0

theorem cmdNop_malformed (ha : argOf b ≠ 0) : Ended m (cmdNop m k b c) k 1 c 2 0 0 0 := by
  unfold cmdNop
  rw [if_neg fun h => ha h.1]
  exact endCmd_ended_self m k 1 c 2 0 0 0

theorem cmdMark_ended (ha : argOf b = 0) (hz : zeroAt b 16 48 = true) : Ended m (cmdMark m k b c) k 1 c 0 0 0 (leAt b 8 8) := by
  unfold cmdMark
  rw [if_pos ⟨ha, hz⟩]
  exact endCmd_ended_self m k 1 c 0 0 0 _

theorem cmdFence_eq (ha : argOf b = 0) (hz : zeroAt b 8 56 = true) :
    cmdFence m k b c = if (m.queue k).started = [] then endCmd m k 1 c 0 0 0 0 else m := by
  unfold cmdFence
  rw [if_neg (by simp [ha, hz])]

/-! ### SIGNAL (R72) -/

theorem Mach.sem_setSem_self (m : Mach) (p i : Nat) (x : Sem) : (m.setSem p i x).sem p i = x := by
  unfold Mach.setSem Mach.modPanel Mach.sem
  rw [Mach.panel_setPanel_self, SMap.get_set_self]

theorem semSignal_of_no_waiter {x : Sem} (h : x.waiters = []) (n : Nat) :
    semSignal x n = { x with count := min (x.count + n) 0xFFFFFFFF } := by
  unfold semSignal
  rw [h]
  rfl

theorem cmdSignal_sem_eq {p i : Nat} (ha : argOf b = 0) (hf : semForm k b = true) (hz : zeroAt b 20 44 = true)
    (hs : cmdSem m k b = some (p, i)) :
    cmdSignal m k b c = endCmd (m.setSem p i (semSignal (m.sem p i) (leAt b 16 4))) k 1 c 0 0 0 0 := by
  unfold cmdSignal
  dsimp only
  rw [if_pos ha, if_neg (by simp [hf, hz]), hs]

theorem cmdSignal_sem {p i : Nat} (ha : argOf b = 0) (hf : semForm k b = true) (hz : zeroAt b 20 44 = true)
    (hs : cmdSem m k b = some (p, i)) (hw : (m.sem p i).waiters = []) :
    (cmdSignal m k b c).sem p i = { m.sem p i with count := min ((m.sem p i).count + leAt b 16 4) 0xFFFFFFFF } ∧
      Ended m (cmdSignal m k b c) k 1 c 0 0 0 0 := by
  rw [cmdSignal_sem_eq ha hf hz hs]
  refine ⟨?_, endCmd_ended 1 c 0 0 0 0 (wc := (m.queue k).waitCmd) rfl rfl⟩
  rw [(HostOnly.endCmd _ k 1 c 0 0 0 0).sem, Mach.sem_setSem_self, semSignal_of_no_waiter hw]

theorem markDirty_sys (m : Mach) (part pa : Nat) : ∃ vs, (markDirty m part pa).sys = { m.sys with vfs := vs } := by
  unfold markDirty
  dsimp only
  split
  · exact ⟨m.sys.vfs, rfl⟩
  · exact ⟨_, rfl⟩

theorem noteHbmWrite_sys (m : Mach) (pa n : Nat) : ∃ es, (noteHbmWrite m pa n).sys = { m.sys with hbmErr := es } := by
  have clear : ∃ es, (if m.sys.hbmErr = [] then m else m.onSys fun s =>
      { s with hbmErr := s.hbmErr.filter fun e => decide (e.1 < pa / 64) || decide ((pa + n - 1) / 64 < e.1) }).sys =
        { m.sys with hbmErr := es } := by
    split
    · exact ⟨m.sys.hbmErr, rfl⟩
    · exact ⟨_, rfl⟩
  obtain ⟨es, hc⟩ := clear
  unfold noteHbmWrite
  dsimp only
  generalize (if m.sys.hbmErr = [] then m else _ : Mach) = m1 at hc
  split
  · split
    · exact ⟨es, (Mach.modAgent_sys _ _ _).trans hc⟩
    · unfold Mach.setCcCsr
      rw [Mach.onSys_sys, Mach.modAgent_sys, hc]
      exact ⟨_, rfl⟩
  · exact ⟨es, hc⟩

theorem sendAll_sys (l : List Out) (m : Mach) : ∃ o, (l.foldl (fun m x => m.send x) m).sys = { m.sys with out := o } := by
  induction l generalizing m with
  | nil => exact ⟨m.sys.out, rfl⟩
  | cons x t ih =>
    obtain ⟨o, h⟩ := ih (m.send x)
    exact ⟨o, h⟩

theorem fwdNote_sys (m : Mach) (part vfn va n : Nat) :
    ∃ ps o, (fwdNote m part vfn va n).sys = { m.sys with parts := ps, out := o } := by
  unfold fwdNote
  dsimp only
  split
  · exact ⟨m.sys.parts, m.sys.out, rfl⟩
  · obtain ⟨o, h⟩ := sendAll_sys (fwdTake _ _ _ (m.partn part).fwds).2 (m.setPart part _)
    exact ⟨_, o, h⟩

/-- A signal word is written (R72, R113): of what the queues stand on, HBM alone changes. -/
theorem putWord_sys {part pa : Nat} (va v : Nat) (hk : keyErased m pa = false) :
    ∃ vs es ps o, (putWord m part pa va v).sys =
      { m.sys with hbm := m.sys.hbm.writeList pa (leBytes v 8), vfs := vs, hbmErr := es, parts := ps, out := o } := by
  unfold putWord hbmWrite
  rw [hk]
  obtain ⟨vs, h1⟩ := markDirty_sys (m.setHbm (m.sys.hbm.writeList pa (leBytes v 8))) part pa
  obtain ⟨es, h2⟩ := noteHbmWrite_sys (markDirty (m.setHbm (m.sys.hbm.writeList pa (leBytes v 8))) part pa) pa 8
  obtain ⟨ps, o, h3⟩ := fwdNote_sys (noteHbmWrite (markDirty (m.setHbm (m.sys.hbm.writeList pa (leBytes v 8))) part pa) pa 8)
    part (m.region part (pa / regionSize)).vfn va 8
  rw [h2, h1] at h3
  exact ⟨vs, es, ps, o, h3⟩

theorem stored_writeList (mem : Memory) (a : Nat) (bs : List Byte) : Stored mem (mem.writeList a bs) a bs :=
  ⟨fun _ h => Memory.read_writeList_in mem a bs h, fun _ h => Memory.read_writeList_out mem a bs h⟩

theorem cmdSignal_word_eq {pa : Nat} (ha : argOf b = 1) (hz : zeroAt b 24 40 = true) (h8 : leAt b 8 8 % 8 = 0)
    (hw : waitsMap m k = false) (hs : sigWord m (queuePart m k) (k / 16) (leAt b 8 8) accWrite = .ok pa) :
    cmdSignal m k b c = endCmd (putWord m (queuePart m k) pa (leAt b 8 8) (leAt b 16 8)) k 1 c 0 0 0 0 := by
  simp [cmdSignal, ha, hz, h8, hw, hs]

theorem cmdSignal_word {pa : Nat} (ha : argOf b = 1) (hz : zeroAt b 24 40 = true) (h8 : leAt b 8 8 % 8 = 0)
    (hw : waitsMap m k = false) (hs : sigWord m (queuePart m k) (k / 16) (leAt b 8 8) accWrite = .ok pa)
    (hk : keyErased m pa = false) :
    Stored m.sys.hbm (cmdSignal m k b c).sys.hbm pa (leBytes (leAt b 16 8) 8) ∧ Ended m (cmdSignal m k b c) k 1 c 0 0 0 0 := by
  rw [cmdSignal_word_eq ha hz h8 hw hs]
  obtain ⟨vs, es, ps, o, hm⟩ := putWord_sys (part := queuePart m k) (leAt b 8 8) (leAt b 16 8) hk
  refine ⟨?_, endCmd_ended 1 c 0 0 0 0 (wc := (m.queue k).waitCmd) ?_ (congrArg Sys.ns hm :)⟩
  · rw [(HostOnly.endCmd _ k 1 c 0 0 0 0).hbm, hm]
    exact stored_writeList _ _ _
  · exact (congrArg (fun y : Sys => SMap.get (fun _ => {}) y.queues k) hm :)

theorem cmdSignal_word_refused (ha : argOf b = 1) (hz : zeroAt b 24 40 = true) (h8 : leAt b 8 8 % 8 = 0)
    (hw : waitsMap m k = false) (hs : sigWord m (queuePart m k) (k / 16) (leAt b 8 8) accWrite = .bad) :
    (cmdSignal m k b c).sys.hbm = m.sys.hbm ∧ Ended m (cmdSignal m k b c) k 1 c 5 0 0 0 := by
  have he : cmdSignal m k b c = endCmd m k 1 c 5 0 0 0 := by simp [cmdSignal, ha, hz, h8, hw, hs]
  rw [he]
  exact ⟨(HostOnly.endCmd m k 1 c 5 0 0 0).hbm, endCmd_ended_self m k 1 c 5 0 0 0⟩

end

/-! ### Walks of device addresses do not depend on the queues (R240, R241) -/

/-- A command core keeps no TLB: an address is walked. -/
theorem translate_cc_fail {a w : Nat} (ha : isTileAgent a = false) {m : Mach} {part va acc : Nat} (eng : Nat)
    (hw : (walk m (panelOf a) part va acc).1 = .fail w) : translate m a part eng va acc = (.error w, m) := by
  simp [translate, ha, hw]
theorem translate_cc_leaf {a : Nat} {e : TlbE} (ha : isTileAgent a = false) {m : Mach} {part va acc : Nat} (eng : Nat)
    (hw : (walk m (panelOf a) part va acc).1 = .leaf e) : translate m a part eng va acc = (.ok (e.pa + (va - e.va)),
      m.modPanel (panelOf a) fun p => { p with walkc := walkKeep p.walkc (walk m (panelOf a) part va acc).2 }) := by
  simp [translate, ha, hw]

theorem translate_withHost {a : Nat} (ha : isTileAgent a = false) (m : Mach) (y : Sys) (part eng va acc : Nat) :
    translate (m.withHost y) a part eng va acc =
      ((translate m a part eng va acc).1, (translate m a part eng va acc).2.withHost y) := by
  cases hw : (walk m (panelOf a) part va acc).1 with
  | fail w => rw [translate_cc_fail ha eng hw, translate_cc_fail ha eng (m := m.withHost y) hw]
  | leaf e =>
    rw [translate_cc_leaf ha eng hw, translate_cc_leaf ha eng (m := m.withHost y) hw]
    rfl

theorem translateAll_withHost {a : Nat} (ha : isTileAgent a = false) (y : Sys) (part eng acc : Nat) (ps : List (Nat × Nat))
    (m : Mach) : translateAll (m.withHost y) a part eng acc ps =
      ((translateAll m a part eng acc ps).1, (translateAll m a part eng acc ps).2.withHost y) := by
  induction ps generalizing m with
  | nil => rfl
  | cons x t ih =>
    unfold translateAll
    rw [translate_withHost ha]
    rcases translate m a part eng x.1 acc with ⟨_ | pa, m1⟩
    · rfl
    · dsimp only
      rw [ih]
      rcases translateAll m1 a part eng acc t with ⟨_ | l, m2⟩ <;> rfl

theorem isTileAgent_ccOf (p : Nat) : isTileAgent (ccOf p) = false := by
  unfold isTileAgent ccOf
  exact decide_eq_false (by omega)

section
variable {m m' : Mach} (h : HostOnly m m')
include h

theorem HostOnly.devPieces (part va n acc : Nat) : devPieces m' part va n acc = devPieces m part va n acc := by
  have hp : (m.withHost m'.sys).partn part = m.partn part := rfl
  unfold Machine.devPieces
  rw [h, hp, translateAll_withHost (isTileAgent_ccOf _)]

theorem HostOnly.region (part r : Nat) : m'.region part r = m.region part r := by rw [h]; rfl
theorem HostOnly.vf (v : Nat) : m'.vf v = m.vf v := by rw [h]; rfl
theorem HostOnly.stalled (ps : List (Nat × Nat)) : m'.stalled ps = m.stalled ps := by rw [h]; rfl
theorem HostOnly.grantTo (w : Nat) : grantTo m' w = grantTo m w := by rw [h]; rfl
theorem HostOnly.ns : m'.sys.ns = m.sys.ns := by rw [h]; rfl

theorem HostOnly.sigWord (part vfn sa acc : Nat) : sigWord m' part vfn sa acc = sigWord m part vfn sa acc := by
  simp only [Machine.sigWord, Machine.sigAt, h.devPieces, h.region, h.stalled]

theorem HostOnly.rangeRegions (part va n acc : Nat) : rangeRegions m' part va n acc = rangeRegions m part va n acc := by
  simp only [Machine.rangeRegions, h.devPieces]

theorem HostOnly.copyRegions (part len : Nat) (rs : List (Nat × Bool)) : copyRegions m' part len rs = copyRegions m part len rs := by
  induction rs with
  | nil => rfl
  | cons x t ih => simp only [Machine.copyRegions, h.rangeRegions, ih]

end

/-! ### Entries of a finite map after a write -/

section
variable {α : Type}

theorem SMap.mem_erase {m : SMap α} {k : Nat} {e : Nat × α} (h : e ∈ SMap.erase m k) : e ∈ m ∧ e.1 ≠ k := by
  induction m with
  | nil => cases h
  | cons x t ih =>
    unfold SMap.erase at h
    split at h
    · exact ⟨List.mem_cons_of_mem _ (ih h).1, (ih h).2⟩
    · next hk =>
      rcases List.mem_cons.mp h with rfl | h
      · exact ⟨List.mem_cons_self, Ne.symm hk⟩
      · exact ⟨List.mem_cons_of_mem _ (ih h).1, (ih h).2⟩

theorem SMap.mem_put_self (m : SMap α) (k : Nat) (x : α) : (k, x) ∈ SMap.put m k x := by
  induction m with
  | nil => exact List.mem_cons_self
  | cons y t ih =>
    unfold SMap.put
    split
    · exact List.mem_cons_self
    · split
      · exact List.mem_cons_self
      · exact List.mem_cons_of_mem _ ih

theorem SMap.mem_put {m : SMap α} {k : Nat} {x : α} {e : Nat × α} (h : e ∈ SMap.put m k x) : e = (k, x) ∨ e ∈ m := by
  induction m with
  | nil => exact .inl (List.mem_singleton.mp h)
  | cons y t ih =>
    unfold SMap.put at h
    split at h
    · exact (List.mem_cons.mp h).imp_right (List.mem_cons_of_mem _)
    · split at h
      · exact List.mem_cons.mp h
      · rcases List.mem_cons.mp h with rfl | h
        · exact .inr List.mem_cons_self
        · exact (ih h).imp_right (List.mem_cons_of_mem _)

theorem SMap.mem_set [DecidableEq α] {d : Nat → α} {m : SMap α} {k : Nat} {x : α} {e : Nat × α} (h : e ∈ SMap.set d m k x) :
    e = (k, x) ∨ e ∈ m := by
  unfold SMap.set at h
  split at h
  · exact .inr (SMap.mem_erase h).1
  · exact SMap.mem_put h

theorem SMap.mem_set_self [DecidableEq α] {d : Nat → α} (m : SMap α) {k : Nat} {x : α} (h : x ≠ d k) :
    (k, x) ∈ SMap.set d m k x := by
  unfold SMap.set
  rw [if_neg h]
  exact SMap.mem_put_self m k x

/-- What a key reads is listed, unless it is the unlisted value. -/
theorem SMap.get_mem (d : Nat → α) (m : SMap α) (k : Nat) : SMap.get d m k = d k ∨ (k, SMap.get d m k) ∈ m := by
  induction m with
  | nil => exact .inl rfl
  | cons y t ih =>
    unfold SMap.get
    split
    · next hk => subst hk; exact .inr List.mem_cons_self
    · exact ih.imp_right (List.mem_cons_of_mem _)

end

/-! ### Grants of a semaphore (R133) -/

/-- Semaphore `i` of panel `p` has granted `who` its count and it has not gone on. -/
def Grants (m : Mach) (who p i : Nat) : Prop :=
  ∃ x sm, (p, x) ∈ m.sys.panels ∧ (i, sm) ∈ x.sems ∧ sm.granted.contains who = true

theorem Grants.of_grantTo {m : Mach} {who p i : Nat} (h : grantTo m who = some (p, i)) : Grants m who p i := by
  unfold grantTo at h
  obtain ⟨⟨p', x⟩, hp, hx⟩ := List.exists_of_findSome?_eq_some h
  obtain ⟨⟨i', sm⟩, hs, he⟩ := Option.map_eq_some_iff.mp hx
  cases he
  have hg := List.find?_some hs
  exact ⟨x, sm, hp, List.mem_of_find?_eq_some hs, hg⟩

theorem grantTo_eq_none_iff {m : Mach} {who : Nat} : grantTo m who = none ↔ ∀ p i, ¬Grants m who p i := by
  constructor
  · rintro h p i ⟨x, sm, hp, hs, hg⟩
    have hx := List.findSome?_eq_none_iff.mp h (p, x) hp
    exact List.find?_eq_none.mp (Option.map_eq_none_iff.mp hx) (i, sm) hs hg
  · intro h
    cases hg : grantTo m who with
    | none => rfl
    | some v => exact absurd (Grants.of_grantTo hg) (h v.1 v.2)

theorem Mach.setSem_panels (m : Mach) (p i : Nat) (x : Sem) : (m.setSem p i x).sys.panels = SMap.set (fun _ => {}) m.sys.panels p
    { m.panel p with sems := SMap.set (fun _ => {}) (m.panel p).sems i x } := rfl

/-- A semaphore that is written grants what it says; the others grant what they did. -/
theorem Grants.of_setSem {m : Mach} {who p i p' i' : Nat} {sm : Sem} (h : Grants (m.setSem p i sm) who p' i') :
    (p' = p ∧ i' = i ∧ sm.granted.contains who = true) ∨ ∃ p i, Grants m who p i := by
  obtain ⟨x, sm', hp, hs, hg⟩ := h
  rw [Mach.setSem_panels] at hp
  rcases SMap.mem_set hp with he | hp
  · cases he
    have hs : (i', sm') ∈ SMap.set (fun _ => {}) (m.panel p).sems i sm := hs
    rcases SMap.mem_set hs with he | hs
    · cases he
      exact .inl ⟨rfl, rfl, hg⟩
    · rcases SMap.get_mem (fun _ => ({} : Panel)) m.sys.panels p with hd | hd
      · have : (m.panel p).sems = [] := congrArg Panel.sems hd
        rw [this] at hs
        cases hs
      · exact .inr ⟨p, i', _, sm', hd, hs, hg⟩
  · exact .inr ⟨p', i', x, sm', hp, hs, hg⟩

theorem Grants.setSem {m : Mach} {who p i : Nat} {sm : Sem} (h : sm.granted.contains who = true) :
    Grants (m.setSem p i sm) who p i := by
  have hsm : sm ≠ {} := by rintro rfl; cases h
  have hs : (i, sm) ∈ SMap.set (fun _ => {}) (m.panel p).sems i sm := SMap.mem_set_self _ hsm
  refine ⟨{ m.panel p with sems := SMap.set (fun _ => {}) (m.panel p).sems i sm }, sm, ?_, hs, h⟩
  rw [Mach.setSem_panels]
  refine SMap.mem_set_self _ fun hx => ?_
  have : SMap.set (fun _ => {}) (m.panel p).sems i sm = [] := congrArg Panel.sems hx
  rw [this] at hs
  cases hs

theorem grantTo_setSem_none {m : Mach} {who p i : Nat} {sm : Sem} (h : grantTo m who = none)
    (hs : sm.granted.contains who = false) : grantTo (m.setSem p i sm) who = none := by
  refine grantTo_eq_none_iff.mpr fun p' i' hg => ?_
  rcases Grants.of_setSem hg with ⟨-, -, hc⟩ | ⟨p, i, hg⟩
  · exact Bool.false_ne_true (hs.symm.trans hc)
  · exact grantTo_eq_none_iff.mp h p i hg

theorem grantTo_setSem_some {m : Mach} {who p i : Nat} {sm : Sem} (h : grantTo m who = none)
    (hs : sm.granted.contains who = true) : grantTo (m.setSem p i sm) who = some (p, i) := by
  cases hg : grantTo (m.setSem p i sm) who with
  | none => exact absurd (Grants.setSem hs) (grantTo_eq_none_iff.mp hg p i)
  | some v =>
    rcases Grants.of_setSem (Grants.of_grantTo hg) with ⟨hp, hi, -⟩ | ⟨p', i', hg'⟩
    · rw [← hp, ← hi]
    · exact absurd hg' (grantTo_eq_none_iff.mp h p' i')

/-- A semaphore that has granted `who` nothing does not list it. -/
theorem sem_granted_of_grantTo_none {m : Mach} {who : Nat} (h : grantTo m who = none) (p i : Nat) :
    (m.sem p i).granted.contains who = false := by
  refine Bool.eq_false_iff.mpr fun hc => ?_
  rcases SMap.get_mem (fun _ => ({} : Sem)) (m.panel p).sems i with hd | hd
  · have : (m.sem p i).granted = [] := congrArg Sem.granted hd
    rw [this] at hc
    cases hc
  · rcases SMap.get_mem (fun _ => ({} : Panel)) m.sys.panels p with hp | hp
    · have : (m.panel p).sems = [] := congrArg Panel.sems hp
      rw [this] at hd
      cases hd
    · exact grantTo_eq_none_iff.mp h p i ⟨_, _, hp, hd, hc⟩

/-- A first waiter is served at once where the count suffices, and waits otherwise. -/
theorem semJoin_of_no_waiter {x : Sem} (h : x.waiters = []) (who n : Nat) : semJoin x who n =
    if n ≤ x.count then { x with count := x.count - n, granted := x.granted ++ [who] } else { x with waiters := [⟨who, n⟩] } := by
  obtain ⟨count, vf, waiters, granted⟩ := x
  obtain rfl : waiters = [] := h
  rfl

/-! ### The end of a pending WAIT (R73, R113) -/

theorem endRestored_of_notRestored {m : Mach} {k : Nat} (h : NotRestored m k) (tell : Bool) : endRestored m k tell = m := by
  have he : ((m.partn (queuePart m k)).fwds.filter fun f => f.state == 2 && f.q == k) = [] := by
    refine List.filter_eq_nil_iff.mpr fun f hf hc => ?_
    simp only [Bool.and_eq_true, beq_iff_eq] at hc
    exact h f hf hc.1 hc.2
  unfold endRestored
  exact if_pos he

theorem endWaitCmd_eq {m : Mach} {k : Nat} (h : NotRestored m k) (b : List Byte) (st d : Nat) : endWaitCmd m k b st d =
    endCmd (m.setQueue k { m.queue k with waitCmd := none }) k 1 (cmdOf (m.queue k) b) st d 0 0 := by
  simp only [endWaitCmd, endRestored_of_notRestored h]

/-- A WAIT that no migration restored ends: it is recorded, and the queue waits no more. -/
theorem endWaitCmd_ended {m m1 : Mach} {k : Nat} {b : List Byte} {wc : Option (List Byte × Option Nat)} (hr : NotRestored m1 k)
    (hq : m1.queue k = { m.queue k with waitCmd := wc }) (hn : m1.sys.ns = m.sys.ns) (st d : Nat) :
    ((endWaitCmd m1 k b st d).queue k).waitCmd = none ∧ Ended m (endWaitCmd m1 k b st d) k 1 (cmdOf (m.queue k) b) st d 0 0 := by
  have h1 : (m1.setQueue k { m1.queue k with waitCmd := none }).queue k = { m.queue k with waitCmd := none } := by
    rw [Mach.queue_setQueue_self, hq]
  have hc : cmdOf (m1.queue k) b = cmdOf (m.queue k) b := by rw [hq]; rfl
  rw [endWaitCmd_eq hr, hc]
  exact ⟨(endCmd_waitCmd _ _ _ _ _ _ _ _).trans (congrArg Queue.waitCmd h1 :), endCmd_ended 1 _ st d 0 0 h1 hn⟩

/-! ### A WAIT looks at its condition (R73) -/

theorem nbit_zero_of_odd {x : Nat} (h : x % 2 = 1) : nbit x 0 = true := by
  unfold nbit
  rw [Nat.testBit_zero]
  exact decide_eq_true h

/-- The condition code of a WAIT on a word means what Table 3-9 says. -/
theorem condHolds_iff_wordCond {b : List Byte} (h : nbits (argOf b) 2 1 ≠ 3) (x : Nat) :
    condHolds (nbits (argOf b) 2 1) x (leAt b 16 8) = true ↔ WordCond b x := by
  have hlt : nbits (argOf b) 2 1 < 4 := Nat.mod_lt _ (by decide)
  unfold WordCond
  generalize nbits (argOf b) 2 1 = n at h hlt
  obtain rfl | rfl | rfl : n = 0 ∨ n = 1 ∨ n = 2 := by omega
  · simp [condHolds]
  · simp [condHolds]
  · simp [condHolds]

section
variable {m : Mach} {k : Nat} {b : List Byte} {lim : Option Nat}

theorem waitCheck_word {pa : Nat} (hw : (m.queue k).waitCmd = some (b, lim)) (hr : queueRuns m k = true)
    (hf : (m.queue k).full = false) (hs : (m.queue k).recs = []) (ho : argOf b % 2 = 1) (hm : waitsMap m k = false)
    (hp : sigWord m (queuePart m k) (k / 16) (leAt b 8 8) accRead = .ok pa) :
    waitCheck m k =
      if condHolds (nbits (argOf b) 2 1) (m.sys.hbm.readNat pa 8) (leAt b 16 8) = true then endWaitCmd m k b 0 0 else m := by
  simp [waitCheck, hw, hr, hf, hs, nbit_zero_of_odd ho, hm, hp]

/-- A WAIT whose word waits for a mapping does not end yet. -/
theorem waitCheck_of_mapping (hw : (m.queue k).waitCmd = some (b, lim)) (ho : argOf b % 2 = 1) (hm : waitsMap m k = true) :
    waitCheck m k = m := by
  simp [waitCheck, hw, nbit_zero_of_odd ho, hm]

theorem waitCheck_sem_granted {p i : Nat} (hw : (m.queue k).waitCmd = some (b, lim)) (hr : queueRuns m k = true)
    (hf : (m.queue k).full = false) (hs : (m.queue k).recs = []) (ho : argOf b = 0) (hg : grantTo m (queueWho k) = some (p, i)) :
    waitCheck m k = endWaitCmd (m.setSem p i (semTake (m.sem p i) (queueWho k))) k b 0 0 := by
  simp [waitCheck, hw, hr, hf, hs, ho, nbit, hg]

theorem waitCheck_sem_not_granted (hw : (m.queue k).waitCmd = some (b, lim)) (ho : argOf b = 0)
    (hg : grantTo m (queueWho k) = none) : waitCheck m k = m := by
  simp [waitCheck, hw, ho, nbit, hg]

theorem waitLate_of_unmet {n : Nat} (hc : waitCheck m k = m) (hw : (m.queue k).waitCmd = some (b, some n))
    (hr : queueRuns m k = true) (hn : n ≤ m.sys.ns) :
    waitLate m k = endWaitCmd (leaveSems (dropMaps m k) (queueWho k) (leAt b 16 4)) k b 7 0 := by
  simp [waitLate, hc, hw, hr, hn]

end

/-! ### A WAIT starts (R73) -/

/-- The instant at which a WAIT that starts now times out, if it has a time. -/
def waitDeadline (m : Mach) (b : List Byte) : Option Nat :=
  if leAt b 24 4 = 0 then none else some (m.sys.ns + 1000 * leAt b 24 4)
/-- The WAIT of entry `b` stands at the head of its queue. -/
def pendWait (m : Mach) (k : Nat) (b : List Byte) : Mach := m.setQueue k { m.queue k with waitCmd := some (b, waitDeadline m b) }

section
variable {m : Mach} {k : Nat} {b : List Byte} {c : Cmd}

theorem pendWait_queue : (pendWait m k b).queue k = { m.queue k with waitCmd := some (b, waitDeadline m b) } :=
  Mach.queue_setQueue_self _ _ _
theorem pendWait_hostOnly : HostOnly m (pendWait m k b) := HostOnly.setQueue _ _ _
theorem pendWait_queuePart : queuePart (pendWait m k b) k = queuePart m k := by
  unfold queuePart
  rw [pendWait_queue]
  rfl
theorem pendWait_queueRuns : queueRuns (pendWait m k b) k = queueRuns m k := by
  unfold queueRuns
  rw [pendWait_queue]
  rfl
theorem pendWait_notRestored (h : NotRestored m k) : NotRestored (pendWait m k b) k := by
  unfold NotRestored at *
  rwa [pendWait_queuePart]

theorem cmdWait_word_eq (ho : argOf b % 2 = 1) (h16 : argOf b < 16) (h3 : nbits (argOf b) 2 1 ≠ 3) (h8 : leAt b 8 8 % 8 = 0)
    (hz : zeroAt b 28 36 = true) : cmdWait m k b c = waitCheck (pendWait m k b) k := by
  have hn : ¬16 ≤ argOf b := by omega
  simp [cmdWait, hn, h3, hz, nbit_zero_of_odd ho, h8, pendWait, waitDeadline]

theorem cmdWait_sem_eq {p i : Nat} (ho : argOf b = 0) (hf : semForm k b = true) (hz : zeroAt b 20 4 = true)
    (hz' : zeroAt b 28 36 = true) (hs : cmdSem m k b = some (p, i)) :
    cmdWait m k b c = waitCheck (pendWait (m.setSem p i (semJoin (m.sem p i) (queueWho k) (leAt b 16 4))) k b) k := by
  simp [cmdWait, ho, hf, hz, hz', hs, nbit, nbits, pendWait, waitDeadline]

end

/-! ### A time-out leaves the lists and the mapping it waited for (R73) -/

/-- `m` with the panels and copies of `y`. -/
def Mach.withWaits (m : Mach) (y : Sys) : Mach := m.onSys fun s => { s with panels := y.panels, copies := y.copies }
/-- Nothing but semaphores, fault records and copies has changed. -/
def WaitsOnly (m m' : Mach) : Prop := m' = m.withWaits m'.sys

theorem WaitsOnly.trans {m m' m'' : Mach} (h : WaitsOnly m m') (h' : WaitsOnly m' m'') : WaitsOnly m m'' := by
  unfold WaitsOnly at *
  rw [h'.trans (congrArg (Mach.withWaits · m''.sys) h)]
  rfl
theorem WaitsOnly.setSem (m : Mach) (p i : Nat) (x : Sem) : WaitsOnly m (m.setSem p i x) := rfl

theorem WaitsOnly.queue {m m' : Mach} (h : WaitsOnly m m') (k : Nat) : m'.queue k = m.queue k := by rw [h]; rfl
theorem WaitsOnly.ns {m m' : Mach} (h : WaitsOnly m m') : m'.sys.ns = m.sys.ns := by rw [h]; rfl
theorem WaitsOnly.notRestored {m m' : Mach} (h : WaitsOnly m m') {k : Nat} (hn : NotRestored m k) : NotRestored m' k := by
  rw [h]; exact hn

/-- A change kept by every step of a fold is kept by the fold. -/
theorem foldl_keeps {α : Type} {R : Mach → Mach → Prop} (refl : ∀ m, R m m) (trans : ∀ {m m' m''}, R m m' → R m' m'' → R m m'')
    {f : Mach → α → Mach} (step : ∀ m a, R m (f m a)) (l : List α) (m : Mach) : R m (l.foldl f m) := by
  induction l generalizing m with
  | nil => exact refl m
  | cons a t ih => exact trans (step m a) (ih _)

/-- Only semaphores have changed: the copies stand as they did. -/
def SemsOnly (m m' : Mach) : Prop := WaitsOnly m m' ∧ m'.sys.copies = m.sys.copies

theorem SemsOnly.refl (m : Mach) : SemsOnly m m := ⟨rfl, rfl⟩
theorem SemsOnly.trans {m m' m'' : Mach} (h : SemsOnly m m') (h' : SemsOnly m' m'') : SemsOnly m m'' :=
  ⟨h.1.trans h'.1, h'.2.trans h.2⟩
theorem SemsOnly.setSem (m : Mach) (p i : Nat) (x : Sem) : SemsOnly m (m.setSem p i x) := ⟨rfl, rfl⟩

theorem leaveSems_semsOnly (m : Mach) (who n : Nat) : SemsOnly m (leaveSems m who n) := by
  have leave : ∀ m1 : Mach, SemsOnly m1 (m1.sys.panels.foldl (fun m p =>
      (p.2.sems.filter fun e => e.2.waiters.any fun w => w.who == who).foldl (fun m e =>
        m.setSem p.1 e.1 (semLeave (m.sem p.1 e.1) who)) m) m1) := fun m1 =>
    foldl_keeps SemsOnly.refl SemsOnly.trans
      (fun m (p : Nat × Panel) => foldl_keeps SemsOnly.refl SemsOnly.trans (fun m (e : Nat × Sem) => SemsOnly.setSem m p.1 e.1 _) _ m) _ m1
  unfold leaveSems
  cases grantTo m who with
  | none => exact leave m
  | some v => exact (SemsOnly.setSem m v.1 v.2 _).trans (leave _)

theorem dropCopies_sys (ids : List Nat) (m : Mach) : (ids.foldl (fun m i => m.dropCopy i) m) =
    m.onSys fun s => { s with copies := ids.foldl SMap.erase s.copies } := by
  induction ids generalizing m with
  | nil => rfl
  | cons i t ih => exact ih (m.dropCopy i)

theorem SMap.mem_foldl_erase {α : Type} {ids : List Nat} {m : SMap α} {e : Nat × α} (h : e ∈ ids.foldl SMap.erase m) :
    e ∈ m ∧ e.1 ∉ ids := by
  induction ids generalizing m with
  | nil => exact ⟨h, List.not_mem_nil⟩
  | cons i t ih =>
    obtain ⟨hm, ht⟩ := ih h
    obtain ⟨hm, hi⟩ := SMap.mem_erase hm
    exact ⟨hm, fun hc => (List.mem_cons.mp hc).elim hi ht⟩

theorem dropMaps_waitsOnly (m : Mach) (k : Nat) : WaitsOnly m (dropMaps m k) := by
  unfold dropMaps
  dsimp only
  rw [dropCopies_sys]
  rfl

/-- The queue waits for no mapping any more. -/
theorem dropMaps_waitsMap (m : Mach) (k : Nat) : waitsMap (dropMaps m k) k = false := by
  have hc : (dropMaps m k).sys.copies =
      ((m.sys.copies.filter fun e => e.2.q == k && e.2.dir == 2).map Prod.fst).foldl SMap.erase m.sys.copies := by
    unfold dropMaps
    dsimp only
    rw [dropCopies_sys]
    rfl
  unfold waitsMap
  rw [hc]
  refine List.any_eq_false.mpr fun e he hw => ?_
  obtain ⟨hm, hi⟩ := SMap.mem_foldl_erase he
  exact hi (List.mem_map.mpr ⟨e, List.mem_filter.mpr ⟨hm, hw⟩, rfl⟩)

/-! ### A WAIT that starts (R73) -/

section
variable {m : Mach} {k : Nat} {b : List Byte} {c : Cmd}

section
variable {pa : Nat} (hr : queueRuns m k = true) (hf : (m.queue k).full = false) (hs : (m.queue k).recs = [])
  (ho : argOf b % 2 = 1) (h16 : argOf b < 16) (h3 : nbits (argOf b) 2 1 ≠ 3) (h8 : leAt b 8 8 % 8 = 0)
  (hz : zeroAt b 28 36 = true) (hm : waitsMap m k = false)
  (hp : sigWord m (queuePart m k) (k / 16) (leAt b 8 8) accRead = .ok pa)
include hr hf hs ho h16 h3 h8 hz hm hp

/-- A WAIT on a word that can be read looks at it at once. -/
theorem cmdWait_word : cmdWait m k b c =
    if condHolds (nbits (argOf b) 2 1) (m.sys.hbm.readNat pa 8) (leAt b 16 8) = true then endWaitCmd (pendWait m k b) k b 0 0
    else pendWait m k b := by
  have hq := pendWait_queue (m := m) (k := k) (b := b)
  rw [cmdWait_word_eq ho h16 h3 h8 hz, waitCheck_word (pa := pa) (congrArg Queue.waitCmd hq :) (pendWait_queueRuns.trans hr)
    ((congrArg Queue.full hq :).trans hf) ((congrArg Queue.recs hq :).trans hs) ho hm
    (by rw [pendWait_queuePart, pendWait_hostOnly.sigWord, hp])]
  rfl

theorem cmdWait_word_met (hn : NotRestored m k) (hc : WordCond b (m.sys.hbm.readNat pa 8)) :
    Ended m (cmdWait m k b c) k 1 (cmdOf (m.queue k) b) 0 0 0 0 := by
  rw [cmdWait_word hr hf hs ho h16 h3 h8 hz hm hp, if_pos ((condHolds_iff_wordCond h3 _).mpr hc)]
  exact (endWaitCmd_ended (pendWait_notRestored hn) pendWait_queue pendWait_hostOnly.ns 0 0).2

theorem cmdWait_word_unmet (hc : ¬WordCond b (m.sys.hbm.readNat pa 8)) :
    (cmdWait m k b c).queue k = { m.queue k with waitCmd := some (b, waitDeadline m b) } := by
  rw [cmdWait_word hr hf hs ho h16 h3 h8 hz hm hp, if_neg fun h => hc ((condHolds_iff_wordCond h3 _).mp h)]
  exact pendWait_queue

end

section
variable {p i : Nat} (ho : argOf b = 0) (hsf : semForm k b = true) (hz : zeroAt b 20 4 = true) (hz' : zeroAt b 28 36 = true)
  (hcs : cmdSem m k b = some (p, i)) (hw : (m.sem p i).waiters = []) (hg : grantTo m (queueWho k) = none)
include ho hsf hz hz' hcs hw hg

theorem cmdWait_sem_met (hr : queueRuns m k = true) (hf : (m.queue k).full = false) (hs : (m.queue k).recs = [])
    (hn : NotRestored m k) (hle : leAt b 16 4 ≤ (m.sem p i).count) :
    ((cmdWait m k b c).sem p i).count = (m.sem p i).count - leAt b 16 4 ∧
      Ended m (cmdWait m k b c) k 1 (cmdOf (m.queue k) b) 0 0 0 0 := by
  let x : Sem := { m.sem p i with count := (m.sem p i).count - leAt b 16 4, granted := (m.sem p i).granted ++ [queueWho k] }
  have hj : semJoin (m.sem p i) (queueWho k) (leAt b 16 4) = x := (semJoin_of_no_waiter hw _ _).trans (if_pos hle)
  have hx : x.granted.contains (queueWho k) = true := by simp [x]
  let m1 := pendWait (m.setSem p i x) k b
  have hq : m1.queue k = { m.queue k with waitCmd := some (b, waitDeadline m b) } := pendWait_queue
  have hs1 : m1.sem p i = x := (pendWait_hostOnly.sem p i).trans (Mach.sem_setSem_self m p i x)
  have hg1 : grantTo m1 (queueWho k) = some (p, i) := (pendWait_hostOnly.grantTo _).trans (grantTo_setSem_some hg hx)
  have hn1 : NotRestored m1 k := pendWait_notRestored hn
  let m2 := m1.setSem p i (semTake (m1.sem p i) (queueWho k))
  have he : cmdWait m k b c = endWaitCmd m2 k b 0 0 := by
    rw [cmdWait_sem_eq ho hsf hz hz' hcs, hj]
    exact waitCheck_sem_granted (congrArg Queue.waitCmd hq :) (pendWait_queueRuns.trans hr)
      ((congrArg Queue.full hq :).trans hf) ((congrArg Queue.recs hq :).trans hs) ho hg1
  have ho : WaitsOnly m1 m2 := WaitsOnly.setSem _ _ _ _
  have hn2 : NotRestored m2 k := ho.notRestored hn1
  rw [he]
  refine ⟨?_, (endWaitCmd_ended hn2 ((ho.queue k).trans hq) (ho.ns.trans pendWait_hostOnly.ns) 0 0).2⟩
  have hs2 : m2.sem p i = semTake x (queueWho k) := by
    rw [← hs1]
    exact Mach.sem_setSem_self m1 p i _
  rw [endWaitCmd_eq hn2, (HostOnly.endCmd _ _ _ _ _ _ _ _).sem, (HostOnly.setQueue _ _ _).sem, hs2]
  rfl

theorem cmdWait_sem_unmet (hlt : (m.sem p i).count < leAt b 16 4) :
    ((cmdWait m k b c).sem p i).waiters = [⟨queueWho k, leAt b 16 4⟩] ∧
      (cmdWait m k b c).queue k = { m.queue k with waitCmd := some (b, waitDeadline m b) } := by
  let x : Sem := { m.sem p i with waiters := [⟨queueWho k, leAt b 16 4⟩] }
  have hj : semJoin (m.sem p i) (queueWho k) (leAt b 16 4) = x := (semJoin_of_no_waiter hw _ _).trans (if_neg (by omega))
  let m1 := pendWait (m.setSem p i x) k b
  have hq : m1.queue k = { m.queue k with waitCmd := some (b, waitDeadline m b) } := pendWait_queue
  have hs1 : m1.sem p i = x := (pendWait_hostOnly.sem p i).trans (Mach.sem_setSem_self m p i x)
  have hg1 : grantTo m1 (queueWho k) = none :=
    (pendWait_hostOnly.grantTo _).trans (grantTo_setSem_none hg (sem_granted_of_grantTo_none hg p i))
  have he : cmdWait m k b c = m1 := by
    rw [cmdWait_sem_eq ho hsf hz hz' hcs, hj]
    exact waitCheck_sem_not_granted (congrArg Queue.waitCmd hq :) ho hg1
  rw [he]
  exact ⟨congrArg Sem.waiters hs1, hq⟩

end
end

/-! ### A pending WAIT on a word that can be read (R73) -/

section
variable {m : Mach} {k pa : Nat} {b : List Byte} {lim : Option Nat} (hw : (m.queue k).waitCmd = some (b, lim))
  (hr : queueRuns m k = true) (hf : (m.queue k).full = false) (hs : (m.queue k).recs = []) (ho : argOf b % 2 = 1)
  (h3 : nbits (argOf b) 2 1 ≠ 3) (hm : waitsMap m k = false)
  (hp : sigWord m (queuePart m k) (k / 16) (leAt b 8 8) accRead = .ok pa)
include hw hr hf hs ho h3 hm hp

theorem waitCheck_word_met (hn : NotRestored m k) (hc : WordCond b (m.sys.hbm.readNat pa 8)) :
    ((waitCheck m k).queue k).waitCmd = none ∧ Ended m (waitCheck m k) k 1 (cmdOf (m.queue k) b) 0 0 0 0 := by
  rw [waitCheck_word hw hr hf hs ho hm hp, if_pos ((condHolds_iff_wordCond h3 _).mpr hc)]
  exact endWaitCmd_ended (wc := (m.queue k).waitCmd) hn rfl rfl 0 0

theorem waitCheck_word_unmet (hc : ¬WordCond b (m.sys.hbm.readNat pa 8)) : waitCheck m k = m := by
  rw [waitCheck_word hw hr hf hs ho hm hp, if_neg fun h => hc ((condHolds_iff_wordCond h3 _).mp h)]

end

/-! ### A WAIT that times out (R73) -/

section
variable {m : Mach} {k n : Nat} {b : List Byte} (hw : (m.queue k).waitCmd = some (b, some n)) (hr : queueRuns m k = true)
  (hc : waitCheck m k = m) (hn : NotRestored m k) (ht : n ≤ m.sys.ns)
include hw hr hc hn ht

/-- A pending WAIT whose time has come ends with STATUS 7, and nothing of the queue waits for a mapping. -/
theorem waitLate_ended : ((waitLate m k).queue k).waitCmd = none ∧ waitsMap (waitLate m k) k = false ∧
    Ended m (waitLate m k) k 1 (cmdOf (m.queue k) b) 7 0 0 0 := by
  have hs := leaveSems_semsOnly (dropMaps m k) (queueWho k) (leAt b 16 4)
  have ho : WaitsOnly m (leaveSems (dropMaps m k) (queueWho k) (leAt b 16 4)) := (dropMaps_waitsOnly m k).trans hs.1
  rw [waitLate_of_unmet hc hw hr ht]
  obtain ⟨h1, h2⟩ := endWaitCmd_ended (b := b) (wc := (m.queue k).waitCmd) (ho.notRestored hn) (ho.queue k) ho.ns 7 0
  refine ⟨h1, ?_, h2⟩
  unfold waitsMap
  rw [endWaitCmd_eq (ho.notRestored hn), endCmd_copies, Mach.setQueue_copies, hs.2]
  exact dropMaps_waitsMap m k

end

/-! ### COPYH (R76, R77) -/

theorem HostOnly.setCopy (m : Mach) (i : Nat) (c : Copy) : HostOnly m (m.setCopy i c) := rfl
theorem HostOnly.newId (m : Mach) : HostOnly m m.newId.2 := rfl
theorem Mach.copy_setCopy_self (m : Mach) (i : Nat) (c : Copy) : (m.setCopy i c).copy i = c := SMap.get_put_self _ _ _ _
theorem Mach.queue_setCopy (m : Mach) (i k : Nat) (c : Copy) : (m.setCopy i c).queue k = m.queue k := rfl

theorem goOn_queue (m : Mach) (k n : Nat) (c : Cmd) : (goOn m k n c).queue k =
    { m.queue k with head := ((m.queue k).head + n) % 2 ^ 32, started := (m.queue k).started ++ [c] } := by
  unfold goOn
  dsimp only
  rw [Mach.queue_setQueue_self, consume_queue]
theorem Mach.setQueue_seq (m : Mach) (k : Nat) (q : Queue) : (m.setQueue k q).sys.seq = m.sys.seq := rfl
theorem Mach.setHost_seq (m : Mach) (h : Memory) : (m.setHost h).sys.seq = m.sys.seq := rfl
theorem goOn_seq (m : Mach) (k n : Nat) (c : Cmd) : (goOn m k n c).sys.seq = m.sys.seq := by
  simp only [goOn, consume, Mach.setQueue_seq, Mach.setHost_seq]

/-- An entry written as IN_TRANSFER for a copy is read back as such. -/
theorem RegionE.ofNat_busy (e : RegionE) : (RegionE.ofNat (e.busy.toNat % 256 ^ 16)).st = 5 ∧
    (RegionE.ofNat (e.busy.toNat % 256 ^ 16)).hold = 1 := by
  have hbits : e.busy.toNat % 256 ^ 16 % 8 = 5 ∧ e.busy.toNat % 256 ^ 16 / 16 % 4 = 1 := by
    obtain ⟨st, pin, hold, vfn, task, lnch⟩ := e
    cases pin <;> simp only [RegionE.busy, RegionE.toNat, if_true, Bool.false_eq_true, if_false] <;> omega
  generalize e.busy.toNat % 256 ^ 16 = x at hbits
  have hst : nbits x 2 0 = 5 := hbits.1
  have hhold : nbits x 5 4 = 1 := by
    unfold nbits
    rw [Nat.shiftRight_eq_div_pow]
    exact hbits.2
  simp [RegionE.ofNat, hst, hhold]

theorem Mach.setRegion_hbm (m : Mach) (part r : Nat) (e : RegionE) :
    (m.setRegion part r e).sys.hbm = m.sys.hbm.writeNat (m.maBase part + 16 * r) 16 e.toNat := Mach.setHbm_hbm _ _
theorem Mach.maBase_setRegion (m : Mach) (part r : Nat) (e : RegionE) (p : Nat) :
    (m.setRegion part r e).maBase p = m.maBase p := by
  unfold Mach.maBase Mach.setRegion
  rw [Mach.partn_setHbm]
theorem Mach.region_setRegion_self (m : Mach) (part r : Nat) (e : RegionE) :
    (m.setRegion part r e).region part r = RegionE.ofNat (e.toNat % 256 ^ 16) := by
  unfold Mach.region
  rw [Mach.maBase_setRegion, Mach.setRegion_hbm, Memory.readNat_writeNat_self]
theorem Mach.region_setRegion_ne (m : Mach) (part : Nat) {r r' : Nat} (e : RegionE) (h : r ≠ r') :
    (m.setRegion part r' e).region part r = m.region part r := by
  unfold Mach.region
  rw [Mach.maBase_setRegion, Mach.setRegion_hbm,
    Memory.readNat_congr fun _ _ _ => Memory.read_writeNat_out _ _ _ _ (by omega)]

/-- Regions made IN_TRANSFER one after another are all held in the end. -/
theorem eachRegion_busy_held (part : Nat) (l : List Nat) {r : Nat} (m : Mach) (h : r ∈ l ∨ HeldRegion m part r) :
    HeldRegion (eachRegion m part l RegionE.busy) part r := by
  induction l generalizing m with
  | nil => exact h.resolve_left List.not_mem_nil
  | cons x t ih =>
    refine ih (m.setRegion part x (m.region part x).busy) ?_
    by_cases hx : r = x
    · subst hx
      right
      unfold HeldRegion
      rw [Mach.region_setRegion_self]
      exact RegionE.ofNat_busy _
    · refine h.imp (fun hm => (List.mem_cons.mp hm).resolve_left hx) fun hh => ?_
      unfold HeldRegion at *
      rwa [Mach.region_setRegion_ne _ _ _ hx]

theorem Mach.setHbm_setHbm (m : Mach) (h h' : Memory) : (m.setHbm h).setHbm h' = m.setHbm h' := rfl
theorem eachRegion_setHbm (part : Nat) (l : List Nat) (f : RegionE → RegionE) (m : Mach) :
    ∃ h, eachRegion m part l f = m.setHbm h := by
  induction l generalizing m with
  | nil => exact ⟨m.sys.hbm, rfl⟩
  | cons x t ih =>
    obtain ⟨h, hh⟩ := ih (m.setRegion part x (f (m.region part x)))
    unfold Mach.setRegion at hh
    rw [Mach.setHbm_setHbm] at hh
    exact ⟨h, hh⟩

/-- A copy whose regions are all FREE for it starts and holds them; no VF is being moved (R77). -/
theorem startCopy_free {m : Mach} {id : Nat} {rs : List (Nat × Bool)} {cp : Copy} (hc : m.copy id = cp) (hl : cp.len ≠ 0)
    (hr : copyRegions m (copyPart m cp) cp.len cp.ranges = .ok rs)
    (hf : ∀ r ∈ rs, (m.region (copyPart m cp) r.1).st = 1 ∧ (cp.vfn = 0 ∨ (m.region (copyPart m cp) r.1).vfn = cp.vfn))
    (hm : ∀ v, (m.vf v).mig = 0) :
    startCopy m id = (eachRegion m (copyPart m cp) (rs.map Prod.fst).eraseDups RegionE.busy).setCopy id
      { cp with req := 1, held := (rs.map Prod.fst).eraseDups } := by
  have hmoved : ∀ wr e, readsMoved m cp wr e = false := by simp [readsMoved, hm]
  have hall : (rs.all fun r => copyAllows m cp r.2 (m.region (copyPart m cp) r.1)) = true := by
    refine List.all_eq_true.mpr fun r hr => ?_
    obtain ⟨h1, h2⟩ := hf r hr
    simp [copyAllows, h1, h2]
  have hmine : (rs.filter fun r => !readsMoved m cp r.2 (m.region (copyPart m cp) r.1)) = rs :=
    List.filter_eq_self.mpr fun r _ => by rw [hmoved]; rfl
  have hbusy : ((rs.map Prod.fst).filter fun r => (m.region (copyPart m cp) r).st == 1) = rs.map Prod.fst := by
    refine List.filter_eq_self.mpr fun r hr => ?_
    obtain ⟨x, hx, rfl⟩ := List.mem_map.mp hr
    exact beq_iff_eq.mpr (hf x hx).1
  simp only [startCopy, hc, if_neg hl, hr, hall, if_true, hmine, hbusy]

theorem runCopyh_atHead {m : Mach} {vfn qidx : Nat} {b : List Byte} (h : AtHead m vfn qidx b) (ho : byteAt b 0 = 6)
    (hk : (m.queue (queueKey vfn qidx)).kind = 1) (hd : (m.queue (queueKey vfn qidx)).dmaq = []) :
    runCopyh m vfn qidx = cmdCopyh m (queueKey vfn qidx) b (cmdOf (m.queue (queueKey vfn qidx)) b) := by
  obtain ⟨hv, hq, hdb, -, -⟩ := id h
  have hs : startDmaq m (queueKey vfn qidx) = none := by simp only [startDmaq, hd]
  have hkind : kindFail vfn (m.queue (queueKey vfn qidx)).kind 6 = none := by simp [kindFail, hk]
  have hno : ¬(8 ≤ qidx ∨ 512 < vfn) := by omega
  simp only [runCopyh, if_neg hno, catchUp_of_no_doorbell hdb, hs]
  exact startCmd_atHead h ho (by decide) (by decide) hkind _

section
variable {m : Mach} {k : Nat} {b : List Byte} {c : Cmd}

/-- The copy that a COPYH entry with a host address asks for. -/
def copyOf (m : Mach) (k : Nat) (b : List Byte) (c : Cmd) : Copy :=
  { q := k, cmd := c, dir := argOf b % 2, pasid := (m.queue k).pasid, haddr := leAt b 8 8, daddr := leAt b 16 8, len := leAt b 24 8 }

/-- The machine in which the entry's copy stands, its regions not yet looked at. -/
def openedCopy (m : Mach) (k : Nat) (b : List Byte) (c : Cmd) : Mach :=
  (goOn m k 1 c).newId.2.setCopy m.sys.seq (copyOf m k b c)

theorem openedCopy_hostOnly : HostOnly m (openedCopy m k b c) :=
  ((HostOnly.goOn m k 1 c).trans (HostOnly.newId _)).trans (HostOnly.setCopy _ _ _)
theorem openedCopy_queue : (openedCopy m k b c).queue k =
    { m.queue k with head := ((m.queue k).head + 1) % 2 ^ 32, started := (m.queue k).started ++ [c] } := goOn_queue m k 1 c
theorem openedCopy_queuePart : queuePart (openedCopy m k b c) k = queuePart m k := by
  unfold queuePart
  rw [openedCopy_queue, openedCopy_hostOnly.vf]

theorem cmdCopyh_eq (hf : copyForm b = true) (hh : nbit (argOf b) 1 = false) :
    cmdCopyh m k b c = startCopy (openedCopy m k b c) m.sys.seq := by
  have hs : hostSide (goOn m k 1 c) k b = some ((m.queue k).pasid, leAt b 8 8) := by
    simp only [hostSide, hh, goOn_queue, Bool.false_eq_true, if_false]
    rfl
  simp only [cmdCopyh, hf, if_true, openCopy, hs, Mach.newId, goOn_seq]
  rfl

theorem cmdCopyh_starts {rs : List (Nat × Bool)} (hf : copyForm b = true) (hh : nbit (argOf b) 1 = false) (hl : leAt b 24 8 ≠ 0)
    (hm : ∀ v, (m.vf v).mig = 0)
    (hr : copyRegions m (queuePart m k) (copyOf m k b c).len (copyOf m k b c).ranges = .ok rs)
    (hrs : ∀ r ∈ rs, (m.region (queuePart m k) r.1).st = 1 ∧ (k / 16 = 0 ∨ (m.region (queuePart m k) r.1).vfn = k / 16)) :
    Started m (cmdCopyh m k b c) k c ∧
      (cmdCopyh m k b c).copy m.sys.seq = { copyOf m k b c with req := 1, held := (rs.map Prod.fst).eraseDups } ∧
      ∀ r ∈ rs, HeldRegion (cmdCopyh m k b c) (queuePart m k) r.1 := by
  have ho := openedCopy_hostOnly (m := m) (k := k) (b := b) (c := c)
  have hpart : copyPart (openedCopy m k b c) (copyOf m k b c) = queuePart m k := openedCopy_queuePart
  have hvfn : (copyOf m k b c).vfn = k / 16 := rfl
  have hs := startCopy_free (m := openedCopy m k b c) (id := m.sys.seq) (rs := rs) (Mach.copy_setCopy_self _ _ _) hl
    (by rw [hpart, ho.copyRegions, hr]) (by simpa only [hpart, ho.region, hvfn] using hrs) (by simpa only [ho.vf] using hm)
  rw [hpart] at hs
  rw [cmdCopyh_eq hf hh, hs]
  obtain ⟨h, he⟩ := eachRegion_setHbm (queuePart m k) (rs.map Prod.fst).eraseDups RegionE.busy (openedCopy m k b c)
  refine ⟨?_, Mach.copy_setCopy_self _ _ _, fun r hr => ?_⟩
  · unfold Started
    rw [Mach.queue_setCopy, he, Mach.queue_setHbm, openedCopy_queue]
    exact ⟨rfl, rfl⟩
  · exact eachRegion_busy_held _ _ _ (.inl (List.mem_eraseDups.mpr (List.mem_map_of_mem hr)))

end

/-! ### Space in the completion ring (R52) -/

section
variable {m : Mach} {k : Nat}

theorem flushRecs_of_none (h : (m.queue k).recs = []) (fuel : Nat) : flushRecs m k fuel = m := by
  cases fuel with
  | zero => rfl
  | succ n => simp only [flushRecs, h]

theorem flushRecs_of_room {r : List Byte × Bool} {t : List (List Byte × Bool)} (h : (m.queue k).recs = r :: t)
    (hf : (m.queue k).full = false) (n : Nat) :
    flushRecs m k (n + 1) = flushRecs (writeRec (m.setQueue k { m.queue k with recs := t }) k r.1 r.2) k n := by
  simp only [flushRecs, h, hf, Bool.false_eq_true, if_false]

theorem flushRecs_of_full (h : (m.queue k).full = true) (fuel : Nat) : flushRecs m k fuel = m := by
  cases fuel with
  | zero => rfl
  | succ n =>
    cases hr : (m.queue k).recs with
    | nil => exact flushRecs_of_none hr _
    | cons r t => simp only [flushRecs, hr, h, if_true]

/-- Writing records moves CPROD, and of the queue nothing but that and the records that wait. -/
theorem flushRecs_queue (fuel : Nat) (m : Mach) (k : Nat) :
    ∃ rs cp, (flushRecs m k fuel).queue k = { m.queue k with recs := rs, cprod := cp } := by
  induction fuel generalizing m with
  | zero => exact ⟨(m.queue k).recs, (m.queue k).cprod, rfl⟩
  | succ n ih =>
    cases hr : (m.queue k).recs with
    | nil => exact ⟨(m.queue k).recs, (m.queue k).cprod, by rw [flushRecs_of_none hr]⟩
    | cons r t =>
      cases hf : (m.queue k).full with
      | true => exact ⟨(m.queue k).recs, (m.queue k).cprod, by rw [flushRecs_of_full hf]⟩
      | false =>
        obtain ⟨rs, cp, h⟩ := ih (writeRec (m.setQueue k { m.queue k with recs := t }) k r.1 r.2)
        rw [writeRec_queue, Mach.queue_setQueue_self] at h
        exact ⟨rs, cp, by rw [flushRecs_of_room hr hf, h]⟩

theorem flushQueue_of_bound (h : (m.queue k).st ≠ 0) : flushQueue m k = flushRecs m k ((m.queue k).recs.length + 1) := by
  obtain ⟨rs, cp, hq⟩ := flushRecs_queue ((m.queue k).recs.length + 1) m k
  have hst : ((flushRecs m k ((m.queue k).recs.length + 1)).queue k).st ≠ 0 := by rw [hq]; exact h
  unfold flushQueue
  exact if_neg fun hc => hst hc.1

theorem flushQueue_of_none (h : (m.queue k).st ≠ 0) (hr : (m.queue k).recs = []) : flushQueue m k = m :=
  (flushQueue_of_bound h).trans (flushRecs_of_none hr _)

theorem flushQueue_queue (h : (m.queue k).st ≠ 0) :
    ∃ rs cp, (flushQueue m k).queue k = { m.queue k with recs := rs, cprod := cp } := by
  rw [flushQueue_of_bound h]
  exact flushRecs_queue _ m k

/-- One record that waited is written when there is room. -/
theorem flushQueue_one {r : List Byte × Bool} (h : (m.queue k).st ≠ 0) (hr : (m.queue k).recs = [r])
    (hf : (m.queue k).full = false) :
    (flushQueue m k).queue k = { m.queue k with recs := [], cprod := ((m.queue k).cprod + 1) % 2 ^ 32 } := by
  have hq : (writeRec (m.setQueue k { m.queue k with recs := [] }) k r.1 r.2).queue k =
      { m.queue k with recs := [], cprod := ((m.queue k).cprod + 1) % 2 ^ 32 } := by
    rw [writeRec_queue, Mach.queue_setQueue_self]
  rw [flushQueue_of_bound h, flushRecs_of_room hr hf, flushRecs_of_none (congrArg Queue.recs hq :), hq]

theorem full_of_ne {q : Queue} (h : cntDiff q.cprod q.ccons ≠ 2 ^ q.csize) : q.full = false := beq_eq_false_iff_ne.mpr h

/-- CCONS_POLL of a queue whose ring is full reads CCONS and writes records as far as there is room. -/
theorem pollCcons_of_full (hst : (m.queue k).st ≠ 0) (hf : (m.queue k).full = true) : ∃ m1 : Mach, pollCcons m k = flushQueue m1 k ∧
    m1.queue k = { m.queue k with ccons := m.sys.host.readNat ((m.queue k).qcba + 56) 4 } :=
  ⟨_, if_pos ⟨hf, .inl hst⟩, Mach.queue_setQueue_self _ _ _⟩

section
variable (hst : (m.queue k).st ≠ 0) (hf : (m.queue k).full = true)
include hst hf

theorem pollCcons_ccons : ((pollCcons m k).queue k).ccons = m.sys.host.readNat ((m.queue k).qcba + 56) 4 := by
  obtain ⟨m1, hp, hq⟩ := pollCcons_of_full hst hf
  obtain ⟨rs, cp, hfl⟩ := flushQueue_queue (m := m1) (k := k) (by rw [hq]; exact hst)
  rw [hp, hfl, hq]

theorem pollCcons_of_none (hr : (m.queue k).recs = []) :
    (pollCcons m k).queue k = { m.queue k with ccons := m.sys.host.readNat ((m.queue k).qcba + 56) 4 } := by
  obtain ⟨m1, hp, hq⟩ := pollCcons_of_full hst hf
  rw [hp, flushQueue_of_none (by rw [hq]; exact hst) (by rw [hq]; exact hr), hq]

theorem pollCcons_one {r : List Byte × Bool} (hr : (m.queue k).recs = [r])
    (hc : cntDiff (m.queue k).cprod (m.sys.host.readNat ((m.queue k).qcba + 56) 4) ≠ 2 ^ (m.queue k).csize) :
    ((pollCcons m k).queue k).recs = [] ∧ ((pollCcons m k).queue k).cprod = ((m.queue k).cprod + 1) % 2 ^ 32 := by
  obtain ⟨m1, hp, hq⟩ := pollCcons_of_full hst hf
  rw [hp, flushQueue_one (r := r) (by rw [hq]; exact hst) (by rw [hq]; exact hr) (by rw [hq]; exact full_of_ne hc), hq]
  exact ⟨rfl, rfl⟩

end

/-! ### TAIL and events (R48, R103) -/

theorem postEvent_queue (m : Mach) (code part vfn qidx : Nat) (data : List Byte) (k : Nat) :
    (postEvent m code part vfn qidx data).queue k = m.queue k := by
  have written : ∀ (m : Mach) (b : List Byte), (writeEvent m b).queue k = m.queue k := fun _ _ => rfl
  have lost : (lostEvent m).queue k = m.queue k := by
    unfold lostEvent
    split
    · rw [Mach.queue_setReg, written]
    · rfl
  unfold postEvent
  dsimp only
  split
  · rw [written, lost]
  · rw [Mach.queue_setReg, lost]

/-- TAIL is read, and is not too far ahead. -/
theorem readTail_ok (h : cntDiff (m.sys.host.readNat ((m.queue k).qcba + 48) 4) (m.queue k).head ≤ 2 ^ (m.queue k).rsize) :
    readTail m k = m.setQueue k { m.queue k with tail := m.sys.host.readNat ((m.queue k).qcba + 48) 4, dbl := false } := by
  unfold readTail
  exact if_neg (by omega)

/-- A TAIL too far ahead puts the queue into ERROR. -/
theorem readTail_far (h : 2 ^ (m.queue k).rsize < cntDiff (m.sys.host.readNat ((m.queue k).qcba + 48) 4) (m.queue k).head) :
    (readTail m k).queue k =
      { m.queue k with st := 3, tail := m.sys.host.readNat ((m.queue k).qcba + 48) 4, dbl := false } := by
  unfold readTail
  dsimp only
  rw [if_pos h, postEvent_queue, Mach.queue_setQueue_self]

theorem readTail_queue (m : Mach) (k : Nat) :
    ∃ st tl, (readTail m k).queue k = { m.queue k with st := st, tail := tl, dbl := false } := by
  rcases Nat.lt_or_ge (2 ^ (m.queue k).rsize) (cntDiff (m.sys.host.readNat ((m.queue k).qcba + 48) 4) (m.queue k).head) with h | h
  · exact ⟨_, _, readTail_far h⟩
  · exact ⟨_, _, by rw [readTail_ok h, Mach.queue_setQueue_self]⟩

end

/-! ### The doorbell (R49, R91) -/

section
variable {m : Mach} {vfn qidx : Nat} (hq : qidx < 8) (hv : vfn ≤ 512) (hl : vfn = 0 ∨ (m.vf vfn).live = true)

/-- The doorbell is recorded, and the command core that serves the queue sees the event. -/
def rungQueue (m : Mach) (k : Nat) : Mach :=
  let m := m.setQueue k { m.queue k with dbl := true }
  setEv m (ccOf (m.partn (queuePart m k)).lead) 1

theorem rungQueue_queue (m : Mach) (k : Nat) : (rungQueue m k).queue k = { m.queue k with dbl := true } := by
  unfold rungQueue setEv
  dsimp only
  rw [Mach.queue_modAgent, Mach.queue_setQueue_self]
theorem rungQueue_host (m : Mach) (k : Nat) : (rungQueue m k).sys.host = m.sys.host := by
  unfold rungQueue setEv
  dsimp only
  rw [Mach.modAgent_sys]
  rfl
theorem rungQueue_queueRuns (m : Mach) (k : Nat) : queueRuns (rungQueue m k) k = queueRuns m k := by
  have hs : vfStarts (rungQueue m k) (k / 16) = vfStarts m (k / 16) := by
    unfold rungQueue setEv vfStarts vfClosing
    dsimp only
    rw [Mach.vf_modAgent, Mach.partn_modAgent, Mach.modAgent_sys]
    rfl
  unfold queueRuns
  rw [rungQueue_queue, hs]

include hq hv hl

theorem ringDoorbell_eq (lost : Bool) : ringDoorbell m vfn qidx lost =
    if lost then ringLost (rungQueue m (queueKey vfn qidx)) (queueKey vfn qidx)
    else catchUp (rungQueue m (queueKey vfn qidx)) (queueKey vfn qidx) := by
  have hno : ¬(8 ≤ qidx ∨ 512 < vfn ∨ (vfn ≠ 0 ∧ (!(m.vf vfn).live) = true)) := by
    rintro (h | h | ⟨h0, h1⟩)
    · omega
    · omega
    · rw [hl.resolve_left h0] at h1
      cases h1
  unfold ringDoorbell
  rw [if_neg hno]
  rfl

end

theorem ringLost_queue (m : Mach) (k : Nat) :
    (ringLost m k).queue k = { m.queue k with st := if (m.queue k).st = 1 then 3 else (m.queue k).st } := by
  unfold ringLost
  dsimp only
  split
  · rw [postEvent_queue, Mach.queue_setQueue_self]
  · rfl

section
variable {m : Mach} {k : Nat}

theorem catchUp_of_not_running (h : queueRuns m k = false) : catchUp m k = m := by
  simp [catchUp, h]
theorem catchUp_of_doorbell (hd : (m.queue k).dbl = true) (h : queueRuns m k = true) : catchUp m k = readTail m k := by
  simp [catchUp, hd, h]

end

/-! ### Bind requests (R53, R55) -/

/-- Fields that a mask of ones keeps. -/
theorem bits_and_of_ones {v mask : Dword} {hi lo : Nat} (h : bits mask hi lo = 2 ^ (hi + 1 - lo) - 1) :
    bits (v &&& mask) hi lo = bits v hi lo := by
  unfold bits at *
  rw [BitVec.toNat_and, Nat.shiftRight_and_distrib, Nat.and_mod_two_pow, h, Nat.and_two_pow_sub_one_eq_mod, Nat.mod_mod]

/-- What the monitor does for operation `op` on a queue that may have it done. -/
def bindOp (op : Nat) (m : Mach) (k part qcba : Nat) : Mach × Nat :=
  if op = 0 then doBind m k part qcba
  else if op = 1 then doRebind m k
  else if op = 2 then doDetach m k
  else doRelease m k

section
variable (m : Mach) (k part qcba : Nat)

theorem bindOp_bind : bindOp 0 m k part qcba = doBind m k part qcba := by
  rw [bindOp, if_pos rfl]
theorem bindOp_rebind : bindOp 1 m k part qcba = doRebind m k := by
  rw [bindOp, if_neg (by decide), if_pos rfl]
theorem bindOp_detach : bindOp 2 m k part qcba = doDetach m k := by
  rw [bindOp, if_neg (by decide), if_neg (by decide), if_pos rfl]
theorem bindOp_release : bindOp 3 m k part qcba = doRelease m k := by
  rw [bindOp, if_neg (by decide), if_neg (by decide), if_neg (by decide)]

end

/-- The machine and the cause of a refusal become queue states and QBSTAT. -/
def BindAnswer (t : Mach) (k : Nat) (r : Mach × Nat) : Prop :=
  t.queue k = r.1.queue k ∧ t.reg 0x210 = if r.2 = 0 then 2 else dw (r.2 * 256 + 3)
/-- Where the control block of a bind request stands. -/
def bindBlock (m : Mach) : Nat := (m.reg 0x208 &&& 0xFFFFFFFFFFFFFFC0).toNat

theorem qbDo_eq {m : Mach} {v : Dword} {op k part : Nat} (h : BindReq m v op k part) (qcba : Nat) :
    qbDo m op (bits v 41 32) (bits v 20 16) (bits v 3 0) qcba = bindOp op m k part qcba := by
  obtain ⟨-, -, -, rfl, rfl, hq, hv, h0, hn⟩ := h
  have h6 : ¬(512 < bits v 41 32 ∨ (bits v 41 32 ≠ 0 ∧ (!(m.vf (bits v 41 32)).live) = true) ∨
      (bits v 41 32 = 0 ∧ (!(m.partn (bits v 20 16)).used) = true)) := by
    rintro (hc | ⟨hc, hl⟩ | ⟨hc, hu⟩)
    · omega
    · rw [(hn hc).1] at hl; cases hl
    · rw [h0 hc] at hu; cases hu
  have h1 : ¬(8 ≤ bits v 3 0 ∨ (bits v 41 32 ≠ 0 ∧ bits (m.vf (bits v 41 32)).vqa 53 50 ≤ bits v 3 0)) := by
    rintro (hc | ⟨hc, hl⟩)
    · omega
    · exact absurd (hn hc).2 (by omega)
  unfold qbDo
  rw [if_neg h6, if_neg h1]
  rfl

theorem qbRequest_busy {m : Mach} {op k part : Nat} (hb : qbBusy m = true) (h : BindReq m (m.reg 0x200) op k part) (v : Dword) :
    BindAnswer (qbRequest m op v) k (bindOp op m k part (bindBlock m)) := by
  obtain ⟨-, hm, hop, -⟩ := id h
  have hno : ¬((!qbBusy m) = true ∨ bits (m.reg regQBREQ) 49 48 ≠ op ∨ monHolds m (bits (m.reg regQBREQ) 41 32) = true) := by
    rintro (hc | hc | hc)
    · rw [hb] at hc; cases hc
    · exact hc hop
    · exact Bool.false_ne_true (hm.symm.trans hc)
  have hstart : (if qbBusy m = true ∨ bits v 49 48 ≠ op then m else qbWrite m v) = m := if_pos (.inl hb)
  unfold qbRequest
  rw [hstart]
  dsimp only
  rw [if_neg hno]
  unfold BindAnswer
  rw [← qbDo_eq h (bindBlock m)]
  unfold bindBlock regQBREQ
  generalize qbDo m op _ _ _ _ = r
  exact ⟨rfl, Mach.reg_setReg_self _ _ _⟩

section
variable {m : Mach} {v : Dword} (hb : qbBusy m = false) (hgo : v.getLsbD 63 = true)
include hb hgo

/-- A write of QBREQ with GO puts a request in progress. -/
theorem qbWrite_go : qbWrite m v = (m.setReg 0x200 (v &&& 0x000303FF001F000F)).setReg 0x210 1 := by
  unfold qbWrite
  rw [hb]
  exact if_pos hgo

theorem qbWrite_reg : (qbWrite m v).reg 0x200 = v &&& 0x000303FF001F000F ∧ (qbWrite m v).reg 0x208 = m.reg 0x208 ∧
    qbBusy (qbWrite m v) = true := by
  rw [qbWrite_go hb hgo]
  refine ⟨?_, ?_, ?_⟩
  · simp [Mach.reg_setReg]
  · simp [Mach.reg_setReg]
  · unfold qbBusy regQBSTAT
    rw [Mach.reg_setReg_self]
    decide

theorem qbWrite_bindReq {op k part : Nat} (h : BindReq m v op k part) :
    BindReq (qbWrite m v) ((qbWrite m v).reg 0x200) op k part := by
  obtain ⟨hr, -, hbusy⟩ := qbWrite_reg hb hgo
  have h1 : bits (v &&& 0x000303FF001F000F) 49 48 = bits v 49 48 := bits_and_of_ones (by decide)
  have h2 : bits (v &&& 0x000303FF001F000F) 41 32 = bits v 41 32 := bits_and_of_ones (by decide)
  have h3 : bits (v &&& 0x000303FF001F000F) 20 16 = bits v 20 16 := bits_and_of_ones (by decide)
  have h4 : bits (v &&& 0x000303FF001F000F) 3 0 = bits v 3 0 := bits_and_of_ones (by decide)
  rw [hr]
  unfold BindReq
  rw [h1, h2, h3, h4]
  refine ⟨.inl hbusy, ?_⟩
  rw [qbWrite_go hb hgo]
  exact h.2

theorem qbRequest_idle {op : Nat} (hop : bits v 49 48 = op) : qbRequest m op v = qbRequest (qbWrite m v) op v := by
  have hbusy := (qbWrite_reg hb hgo).2.2
  have hidle : (if qbBusy m = true ∨ bits v 49 48 ≠ op then m else qbWrite m v) = qbWrite m v := if_neg (by simp [hb, hop])
  have hstart : (if qbBusy (qbWrite m v) = true ∨ bits v 49 48 ≠ op then qbWrite m v else qbWrite (qbWrite m v) v) =
    qbWrite m v := if_pos (.inl hbusy)
  unfold qbRequest
  rw [hidle, hstart]

end

/-- A request that may be carried out is carried out on a machine with the same queues, block address and host memory. -/
theorem qbRequest_answer {s : State} {op k part : Nat} (h : BindReq s.m (bindWord s) op k part) :
    ∃ m1 : Mach, m1.queue k = s.m.queue k ∧ m1.sys.host = s.m.sys.host ∧
      BindAnswer (qbRequest s.m op s.arg.v) k (bindOp op m1 k part (bindBlock s.m)) := by
  cases hb : qbBusy s.m with
  | true =>
    have hw : bindWord s = s.m.reg 0x200 := if_pos hb
    exact ⟨s.m, rfl, rfl, qbRequest_busy hb (hw ▸ h) _⟩
  | false =>
    have hw : bindWord s = s.arg.v := if_neg (by simp [hb])
    rw [hw] at h
    obtain ⟨hreq, -, hop, -⟩ := id h
    have hgo : s.arg.v.getLsbD 63 = true := hreq.resolve_left (by simp [hb])
    obtain ⟨-, hbl, hbusy⟩ := qbWrite_reg hb hgo
    refine ⟨qbWrite s.m s.arg.v, ?_, ?_, ?_⟩
    · rw [qbWrite_go hb hgo, Mach.queue_setReg, Mach.queue_setReg]
    · rw [qbWrite_go hb hgo]
      rfl
    · have ha := qbRequest_busy hbusy (qbWrite_bindReq hb hgo h) s.arg.v
      rw [qbRequest_idle hb hgo hop]
      unfold bindBlock at *
      rwa [hbl] at ha

/-! ### BIND, REBIND, DETACH, RELEASE (R55) -/

theorem byteAt_take {l : List Byte} {n i : Nat} (h : i < n) : byteAt (l.take n) i = byteAt l i := by
  unfold byteAt
  rw [List.getElem?_take_of_lt h]

section
variable {m : Mach} {k : Nat}

/-- The queue that BIND makes of the control block `b` at `qcba`. -/
def boundQueue (k part qcba : Nat) (b : List Byte) : Queue :=
  { st := 1, part := if k / 16 = 0 then part else 0, qcba := qcba, cache := b.take 48, head := leAt b 52 4, tail := leAt b 48 4,
    ccons := leAt b 56 4, cprod := leAt b 60 4 }

theorem doBind_ok {part qcba : Nat} {b : List Byte} (hb : m.sys.host.readList qcba 64 = b) (hst : (m.queue k).st = 0)
    (hok : qcbOk (k / 16) b = true) (hvf : k / 16 ≠ 0 → leAt b 22 2 = k / 16 - 1)
    (ht : cntDiff (leAt b 48 4) (leAt b 52 4) ≤ 2 ^ byteAt b 16) :
    (doBind m k part qcba).2 = 0 ∧ (doBind m k part qcba).1.queue k = boundQueue k part qcba b := by
  let q : Queue := { boundQueue k part qcba b with tail := 0 }
  have hd : doBind m k part qcba = (readTail (m.setQueue k q) k, 0) := by
    unfold doBind
    dsimp only
    rw [if_neg (not_not_intro hst), hb, if_neg (by simp [hok]), if_neg fun h => h.2 (hvf h.1)]
    rfl
  have hq : (m.setQueue k q).queue k = q := Mach.queue_setQueue_self _ _ _
  have htail : (m.setQueue k q).sys.host.readNat (q.qcba + 48) 4 = leAt b 48 4 :=
    hb ▸ (Memory.leAt_readList m.sys.host qcba 48 (by decide)).symm
  have hsize : q.rsize = byteAt b 16 := byteAt_take (by decide)
  have hr := readTail_ok (m := m.setQueue k q) (k := k) (by rw [hq, htail, hsize]; exact ht)
  rw [hd]
  refine ⟨rfl, ?_⟩
  dsimp only
  rw [hr, Mach.queue_setQueue_self, hq, htail]
  rfl

theorem doBind_refused (part qcba : Nat) (hst : (m.queue k).st ≠ 0) : doBind m k part qcba = (m, 1) := if_pos hst

/-- REBIND of a queue whose block has changed is refused with cause 4. -/
theorem doRebind_refused (hst : (m.queue k).st = 2 ∨ (m.queue k).st = 3)
    (hb : m.sys.host.readList (m.queue k).qcba 48 ≠ (m.queue k).cache) :
    (doRebind m k).2 = 4 ∧ (doRebind m k).1.queue k = m.queue k := by
  unfold doRebind
  dsimp only
  rw [if_neg (by omega), if_pos hb]
  exact ⟨rfl, postEvent_queue _ _ _ _ _ _ _⟩

/-- The queue that REBIND binds again, before its records are written and TAIL is read. -/
def reboundQueue (m : Mach) (k : Nat) : Queue :=
  { m.queue k with st := 1, ccons := m.sys.host.readNat ((m.queue k).qcba + 56) 4 }

theorem doRebind_eq (hst : (m.queue k).st = 2 ∨ (m.queue k).st = 3)
    (hb : m.sys.host.readList (m.queue k).qcba 48 = (m.queue k).cache) :
    doRebind m k = (readTail (flushQueue (m.setQueue k (reboundQueue m k)) k) k, 0) := by
  unfold doRebind
  dsimp only
  rw [if_neg (by omega), if_neg (not_not_intro hb)]
  rfl

theorem doRebind_ok (hst : (m.queue k).st = 2 ∨ (m.queue k).st = 3)
    (hb : m.sys.host.readList (m.queue k).qcba 48 = (m.queue k).cache) (hr : (m.queue k).recs = [])
    (ht : cntDiff (m.sys.host.readNat ((m.queue k).qcba + 48) 4) (m.queue k).head ≤ 2 ^ (m.queue k).rsize) :
    (doRebind m k).2 = 0 ∧ (doRebind m k).1.queue k =
      { reboundQueue m k with tail := m.sys.host.readNat ((m.queue k).qcba + 48) 4, dbl := false } := by
  have hq : (m.setQueue k (reboundQueue m k)).queue k = reboundQueue m k := Mach.queue_setQueue_self _ _ _
  rw [doRebind_eq hst hb, flushQueue_of_none (by rw [hq]; exact Nat.one_ne_zero) (by rw [hq]; exact hr),
    readTail_ok (by rw [hq]; exact ht)]
  refine ⟨rfl, ?_⟩
  dsimp only
  rw [Mach.queue_setQueue_self, hq]
  rfl

/-- REBIND writes the record that waits. -/
theorem doRebind_writes {r : List Byte × Bool} (hst : (m.queue k).st = 2 ∨ (m.queue k).st = 3)
    (hb : m.sys.host.readList (m.queue k).qcba 48 = (m.queue k).cache) (hr : (m.queue k).recs = [r])
    (hc : cntDiff (m.queue k).cprod (m.sys.host.readNat ((m.queue k).qcba + 56) 4) ≠ 2 ^ (m.queue k).csize) :
    ((doRebind m k).1.queue k).recs = [] ∧ ((doRebind m k).1.queue k).cprod = ((m.queue k).cprod + 1) % 2 ^ 32 := by
  have hq : (m.setQueue k (reboundQueue m k)).queue k = reboundQueue m k := Mach.queue_setQueue_self _ _ _
  have hf := flushQueue_one (m := m.setQueue k (reboundQueue m k)) (k := k) (r := r) (by rw [hq]; exact Nat.one_ne_zero)
    (by rw [hq]; exact hr) (by rw [hq]; exact full_of_ne hc)
  obtain ⟨st, tl, ht⟩ := readTail_queue (flushQueue (m.setQueue k (reboundQueue m k)) k) k
  rw [doRebind_eq hst hb]
  dsimp only
  rw [ht, hf, hq]
  exact ⟨rfl, rfl⟩

theorem doDetach_ok (hst : (m.queue k).st = 1) : doDetach m k = (m.setQueue k { m.queue k with st := 2 }, 0) := if_pos hst
theorem doDetach_refused (hst : (m.queue k).st ≠ 1) : doDetach m k = (m, 1) := if_neg hst

theorem dropQueue_queue (hr : (m.queue k).recs = []) : (dropQueue m k).queue k = {} := by
  have hend : ∀ m1 : Mach, (endRestored m1 k false).queue k = m1.queue k := by
    intro m1
    unfold endRestored
    dsimp only
    split <;> rfl
  have hq : ∀ n, (endRestored (dropMaps (leaveSems m (queueWho k) n) k) k false).queue k = m.queue k := fun n => by
    rw [hend, (dropMaps_waitsOnly _ k).queue, (leaveSems_semsOnly m (queueWho k) n).1.queue]
  unfold dropQueue
  dsimp only
  rw [Mach.queue_setQueue_self, hq, if_pos hr]

theorem doRelease_ok (hst : (m.queue k).st = 2 ∨ (m.queue k).st = 3) (hs : (m.queue k).started = []) (hr : (m.queue k).recs = []) :
    doRelease m k = (dropQueue m k, 0) := by
  unfold doRelease
  dsimp only
  rw [if_neg (by omega), if_neg fun h => h.elim (· hs) (· hr)]

theorem doRelease_refused (hst : (m.queue k).st = 2 ∨ (m.queue k).st = 3)
    (h : (m.queue k).started ≠ [] ∨ (m.queue k).recs ≠ []) : doRelease m k = (m, 5) := by
  unfold doRelease
  dsimp only
  rw [if_neg (by omega), if_pos h]

end

/-! ### What the doorbell does to its queue (R49, R91) -/

section
variable {m : Mach} {vfn qidx : Nat} (hq : qidx < 8) (hv : vfn ≤ 512) (hl : vfn = 0 ∨ (m.vf vfn).live = true)
include hq hv hl

theorem ringDoorbell_lost : let q := m.queue (queueKey vfn qidx)
    (ringDoorbell m vfn qidx true).queue (queueKey vfn qidx) = { q with dbl := true, st := if q.st = 1 then 3 else q.st } := by
  rw [ringDoorbell_eq hq hv hl true, if_pos rfl, ringLost_queue, rungQueue_queue]

/-- A doorbell of a queue that does not run is only recorded. -/
theorem ringDoorbell_recorded (hr : queueRuns m (queueKey vfn qidx) = false) :
    (ringDoorbell m vfn qidx false).queue (queueKey vfn qidx) = { m.queue (queueKey vfn qidx) with dbl := true } := by
  rw [ringDoorbell_eq hq hv hl false, if_neg Bool.false_ne_true, catchUp_of_not_running ((rungQueue_queueRuns _ _).trans hr),
    rungQueue_queue]

/-- A doorbell of a queue that runs has TAIL read. -/
theorem ringDoorbell_reads (hr : queueRuns m (queueKey vfn qidx) = true) :
    ringDoorbell m vfn qidx false = readTail (rungQueue m (queueKey vfn qidx)) (queueKey vfn qidx) := by
  rw [ringDoorbell_eq hq hv hl false, if_neg Bool.false_ne_true,
    catchUp_of_doorbell (congrArg Queue.dbl (rungQueue_queue _ _) :) ((rungQueue_queueRuns _ _).trans hr)]

theorem ringDoorbell_tail (hr : queueRuns m (queueKey vfn qidx) = true) : let q := m.queue (queueKey vfn qidx)
    cntDiff (m.sys.host.readNat (q.qcba + 48) 4) q.head ≤ 2 ^ q.rsize →
    (ringDoorbell m vfn qidx false).queue (queueKey vfn qidx) =
      { q with tail := m.sys.host.readNat (q.qcba + 48) 4, dbl := false } := by
  intro q ht
  have hk := rungQueue_queue m (queueKey vfn qidx)
  have hh := rungQueue_host m (queueKey vfn qidx)
  rw [ringDoorbell_reads hq hv hl hr, readTail_ok (by rw [hk, hh]; exact ht), Mach.queue_setQueue_self, hk, hh]

theorem ringDoorbell_far (hr : queueRuns m (queueKey vfn qidx) = true) : let q := m.queue (queueKey vfn qidx)
    2 ^ q.rsize < cntDiff (m.sys.host.readNat (q.qcba + 48) 4) q.head →
    ((ringDoorbell m vfn qidx false).queue (queueKey vfn qidx)).st = 3 := by
  intro q ht
  have hk := rungQueue_queue m (queueKey vfn qidx)
  have hh := rungQueue_host m (queueKey vfn qidx)
  rw [ringDoorbell_reads hq hv hl hr, readTail_far (by rw [hk, hh]; exact ht)]

end

/-! ### The events as meanings of the model -/

section
variable {s : State}

/-- A doorbell does what `ringDoorbell` does, whether or not the ring answers. -/
theorem exec_doorbell {lost : Bool} (h : (s.arg.c != 0) = lost) :
    exec .doorbell s = .next { s with m := ringDoorbell s.m s.arg.a s.arg.b lost } := h ▸ rfl

/-- A command that every queue carries runs when it stands at the head. -/
theorem exec_neutral_atHead {opc : Nat} {b : List Byte} (h : AtHead s.m s.arg.a s.arg.b b) (ho : byteAt b 0 = opc)
    (hopc : opc = 0 ∨ 7 ≤ opc ∧ opc ≤ 10) (f : Mach → Nat → List Byte → Cmd → Mach) :
    runEvent (fun x m => startCmd m x.a x.b opc f) s =
      .next { s with m := f s.m (queueKey s.arg.a s.arg.b) b (cmdOf (s.m.queue (queueKey s.arg.a s.arg.b)) b) } :=
  exec_atHead h ho (by omega) (by omega) (kindFail_of_neutral (by omega)) f

theorem exec_copyh_atHead {b : List Byte} (h : AtHead s.m s.arg.a s.arg.b b) (ho : byteAt b 0 = 6)
    (hk : (s.m.queue (queueKey s.arg.a s.arg.b)).kind = 1) (hd : (s.m.queue (queueKey s.arg.a s.arg.b)).dmaq = []) :
    exec .copyh s =
      .next { s with m := cmdCopyh s.m (queueKey s.arg.a s.arg.b) b (cmdOf (s.m.queue (queueKey s.arg.a s.arg.b)) b) } := by
  show Host.Outcome.next { s with m := runCopyh s.m s.arg.a s.arg.b } = _
  rw [runCopyh_atHead h ho hk hd]

end

/-! ### Bind requests on the queue as it stands -/

section
variable {s : State} {k part : Nat}

/-- A bind request whose operation is refused with `cause` on every machine with this queue leaves the queue alone. -/
theorem bind_refused {op cause : Nat} (h : BindReq s.m (bindWord s) op k part) (hc : cause ≠ 0)
    (hop : ∀ m : Mach, m.queue k = s.m.queue k → m.sys.host = s.m.sys.host →
      (bindOp op m k part (bindBlock s.m)).2 = cause ∧ (bindOp op m k part (bindBlock s.m)).1.queue k = s.m.queue k) :
    (qbRequest s.m op s.arg.v).reg 0x210 = dw (cause * 256 + 3) ∧ (qbRequest s.m op s.arg.v).queue k = s.m.queue k := by
  obtain ⟨m1, hq, hh, ha, hr⟩ := qbRequest_answer h
  obtain ⟨h2, h1⟩ := hop m1 hq hh
  rw [hr, ha, h2, if_neg hc, h1]
  exact ⟨rfl, rfl⟩

/-- A bind request whose operation is done on every machine with this queue leaves the queue that the operation makes. -/
theorem bind_done {op : Nat} {q : Queue} (h : BindReq s.m (bindWord s) op k part)
    (hop : ∀ m : Mach, m.queue k = s.m.queue k → m.sys.host = s.m.sys.host →
      (bindOp op m k part (bindBlock s.m)).2 = 0 ∧ (bindOp op m k part (bindBlock s.m)).1.queue k = q) :
    (qbRequest s.m op s.arg.v).reg 0x210 = 2 ∧ (qbRequest s.m op s.arg.v).queue k = q := by
  obtain ⟨m1, hq, hh, ha, hr⟩ := qbRequest_answer h
  obtain ⟨h2, h1⟩ := hop m1 hq hh
  rw [hr, ha, h2, if_pos rfl, h1]
  exact ⟨rfl, rfl⟩

/-- BIND of an UNBOUND queue with a well-formed block binds it (R54, R55). -/
theorem qbRequest_bind {b : List Byte} (h : BindReq s.m (bindWord s) 0 k part) (hst : (s.m.queue k).st = 0)
    (hb : s.m.sys.host.readList (bindBlock s.m) 64 = b) (hok : qcbOk (k / 16) b = true)
    (hvf : k / 16 ≠ 0 → leAt b 22 2 = k / 16 - 1) (ht : cntDiff (leAt b 48 4) (leAt b 52 4) ≤ 2 ^ byteAt b 16) :
    (qbRequest s.m 0 s.arg.v).reg 0x210 = 2 ∧
      (qbRequest s.m 0 s.arg.v).queue k = boundQueue k part (bindBlock s.m) b :=
  bind_done h fun m hq hh => by
    rw [bindOp_bind]
    exact doBind_ok (by rw [hh, hb]) (by rw [hq, hst]) hok hvf ht

theorem qbRequest_bind_refused (h : BindReq s.m (bindWord s) 0 k part) (hst : (s.m.queue k).st ≠ 0) :
    (qbRequest s.m 0 s.arg.v).reg 0x210 = 0x103 ∧ (qbRequest s.m 0 s.arg.v).queue k = s.m.queue k :=
  bind_refused (cause := 1) h (by decide) fun m hq _ => by
    rw [bindOp_bind, doBind_refused part _ (by rw [hq]; exact hst)]
    exact ⟨rfl, hq⟩

section
variable (h : BindReq s.m (bindWord s) 1 k part) (hst : (s.m.queue k).st = 2 ∨ (s.m.queue k).st = 3)
include h hst

theorem qbRequest_rebind (hb : s.m.sys.host.readList (s.m.queue k).qcba 48 = (s.m.queue k).cache) (hr : (s.m.queue k).recs = [])
    (ht : cntDiff (s.m.sys.host.readNat ((s.m.queue k).qcba + 48) 4) (s.m.queue k).head ≤ 2 ^ (s.m.queue k).rsize) :
    (qbRequest s.m 1 s.arg.v).reg 0x210 = 2 ∧ (qbRequest s.m 1 s.arg.v).queue k =
      { reboundQueue s.m k with tail := s.m.sys.host.readNat ((s.m.queue k).qcba + 48) 4, dbl := false } :=
  bind_done h fun m hq hh => by
    have hd := doRebind_ok (m := m) (k := k) (by rw [hq]; exact hst) (by rw [hq, hh]; exact hb) (by rw [hq]; exact hr)
      (by rw [hq, hh]; exact ht)
    unfold reboundQueue at *
    rw [hq, hh] at hd
    rw [bindOp_rebind]
    exact hd

theorem qbRequest_rebind_writes {r : List Byte × Bool}
    (hb : s.m.sys.host.readList (s.m.queue k).qcba 48 = (s.m.queue k).cache) (hr : (s.m.queue k).recs = [r])
    (hc : cntDiff (s.m.queue k).cprod (s.m.sys.host.readNat ((s.m.queue k).qcba + 56) 4) ≠ 2 ^ (s.m.queue k).csize) :
    ((qbRequest s.m 1 s.arg.v).queue k).recs = [] ∧
      ((qbRequest s.m 1 s.arg.v).queue k).cprod = ((s.m.queue k).cprod + 1) % 2 ^ 32 := by
  obtain ⟨m1, hq, hh, ha, -⟩ := qbRequest_answer h
  have hd := doRebind_writes (m := m1) (k := k) (r := r) (by rw [hq]; exact hst) (by rw [hq, hh]; exact hb)
    (by rw [hq]; exact hr) (by rw [hq, hh]; exact hc)
  rw [hq] at hd
  rw [ha, bindOp_rebind]
  exact hd

theorem qbRequest_rebind_refused (hb : s.m.sys.host.readList (s.m.queue k).qcba 48 ≠ (s.m.queue k).cache) :
    (qbRequest s.m 1 s.arg.v).reg 0x210 = 0x403 ∧ (qbRequest s.m 1 s.arg.v).queue k = s.m.queue k :=
  bind_refused (cause := 4) h (by decide) fun m hq hh => by
    have hd := doRebind_refused (m := m) (k := k) (by rw [hq]; exact hst) (by rw [hq, hh]; exact hb)
    rw [bindOp_rebind]
    exact ⟨hd.1, hd.2.trans hq⟩

end

theorem qbRequest_detach (h : BindReq s.m (bindWord s) 2 k part) (hst : (s.m.queue k).st = 1) :
    (qbRequest s.m 2 s.arg.v).reg 0x210 = 2 ∧ (qbRequest s.m 2 s.arg.v).queue k = { s.m.queue k with st := 2 } :=
  bind_done h fun m hq _ => by
    rw [bindOp_detach, doDetach_ok (by rw [hq]; exact hst)]
    dsimp only
    rw [Mach.queue_setQueue_self, hq]
    exact ⟨rfl, rfl⟩

theorem qbRequest_detach_refused (h : BindReq s.m (bindWord s) 2 k part) (hst : (s.m.queue k).st ≠ 1) :
    (qbRequest s.m 2 s.arg.v).reg 0x210 = 0x103 ∧ (qbRequest s.m 2 s.arg.v).queue k = s.m.queue k :=
  bind_refused (cause := 1) h (by decide) fun m hq _ => by
    rw [bindOp_detach, doDetach_refused (by rw [hq]; exact hst)]
    exact ⟨rfl, hq⟩

section
variable (h : BindReq s.m (bindWord s) 3 k part) (hst : (s.m.queue k).st = 2 ∨ (s.m.queue k).st = 3)
include h hst

theorem qbRequest_release (hs : (s.m.queue k).started = []) (hr : (s.m.queue k).recs = []) :
    (qbRequest s.m 3 s.arg.v).reg 0x210 = 2 ∧ (qbRequest s.m 3 s.arg.v).queue k = {} :=
  bind_done h fun m hq _ => by
    rw [bindOp_release, doRelease_ok (by rw [hq]; exact hst) (by rw [hq]; exact hs) (by rw [hq]; exact hr)]
    exact ⟨rfl, dropQueue_queue (by rw [hq]; exact hr)⟩

theorem qbRequest_release_refused (hc : (s.m.queue k).started ≠ [] ∨ (s.m.queue k).recs ≠ []) :
    (qbRequest s.m 3 s.arg.v).reg 0x210 = 0x503 ∧ (qbRequest s.m 3 s.arg.v).queue k = s.m.queue k :=
  bind_refused (cause := 5) h (by decide) fun m hq _ => by
    rw [bindOp_release, doRelease_refused (by rw [hq]; exact hst) (by rw [hq]; exact hc)]
    exact ⟨rfl, hq⟩

end
end

/-! ### The obligation -/

/-- Settles O55: clause by clause, from the lemma that says what the operation behind the event does to its queue; what it
writes of records is `endCmd_ended`. -/
theorem hostQueueEvents : Obligations.HostQueueEvents := by
  refine ⟨?doorbell, ?commands, ?waits, ?mapping, ?poll, ?binds⟩
  case doorbell =>
    intro s k q tail hb ha hl
    refine ⟨fun hc => ⟨_, exec_doorbell (bne_iff_ne.mpr hc), ringDoorbell_lost hb ha hl⟩, fun hc => ?_⟩
    have he := exec_doorbell (s := s) (lost := false) (bne_eq_false_iff_eq.mpr hc)
    exact ⟨fun hr => ⟨_, he, ringDoorbell_recorded hb ha hl hr⟩, fun hr ht => ⟨_, he, ringDoorbell_tail hb ha hl hr ht⟩,
      fun hr ht => ⟨_, he, ringDoorbell_far hb ha hl hr ht⟩⟩
  case commands =>
    intro s b h k q c part n
    obtain ⟨-, -, -, hhead, -⟩ := id h
    obtain ⟨hr, hf, hs, -⟩ := headOf_some (k := k) hhead
    refine ⟨?nop, ?badNop, ?mark, ?fence, ?signalSem, ?signalWord, ?waitSem, ?waitWord, ?copyh⟩
    case nop => exact fun ho ha hz => ⟨_, exec_neutral_atHead h ho (by decide) cmdNop, cmdNop_ended ha hz⟩
    case badNop => exact fun ho ha => ⟨_, exec_neutral_atHead h ho (by decide) cmdNop, cmdNop_malformed ha⟩
    case mark => exact fun ho ha hz => ⟨_, exec_neutral_atHead h ho (by decide) cmdMark, cmdMark_ended ha hz⟩
    case fence =>
      intro ho ha hz
      have he := exec_neutral_atHead h ho (by decide) cmdFence
      rw [cmdFence_eq ha hz] at he
      refine ⟨fun hst => ?_, fun hst => ?_⟩
      · rw [if_pos hst] at he
        exact ⟨_, he, endCmd_ended_self _ _ _ _ _ _ _ _⟩
      · rw [if_neg hst] at he
        exact he
    case signalSem =>
      exact fun ho ha hsf hz p i hcs hw => ⟨_, exec_neutral_atHead h ho (by decide) cmdSignal, cmdSignal_sem ha hsf hz hcs hw⟩
    case signalWord =>
      intro ho ha hz h8 hm
      have he := exec_neutral_atHead h ho (by decide) cmdSignal
      exact ⟨fun pa hp hk => ⟨_, he, cmdSignal_word ha hz h8 hm hp hk⟩, fun hp => ⟨_, he, cmdSignal_word_refused ha hz h8 hm hp⟩⟩
    case waitSem =>
      intro ho ha hsf hz hz' p i hcs hw hg hn
      have he := exec_neutral_atHead h ho (by decide) cmdWait
      exact ⟨fun hle => ⟨_, he, cmdWait_sem_met ha hsf hz hz' hcs hw hg hr hf hs hn hle⟩,
        fun hlt => ⟨_, he, cmdWait_sem_unmet ha hsf hz hz' hcs hw hg hlt⟩⟩
    case waitWord =>
      intro ho ha h16 h3 h8 hz hm hn pa hp
      have he := exec_neutral_atHead h ho (by decide) cmdWait
      exact ⟨fun hc => ⟨_, he, cmdWait_word_met hr hf hs ha h16 h3 h8 hz hm hp hn hc⟩,
        fun hc => ⟨_, he, cmdWait_word_unmet hr hf hs ha h16 h3 h8 hz hm hp hc⟩⟩
    case copyh =>
      intro ho hk hd hcf hh hl hm cp rs hrs hfree
      exact ⟨_, exec_copyh_atHead h ho hk hd, cmdCopyh_starts hcf hh hl hm hrs hfree⟩
  case waits =>
    intro s b lim pa k q hw hr hf hs ho h3 hm hn hp
    refine ⟨fun hc => ⟨_, rfl, waitCheck_word_met hw hr hf hs ho h3 hm hp hn hc⟩, fun hc n hlim ht => ⟨_, rfl, ?_⟩⟩
    have hcheck := waitCheck_word_unmet hw hr hf hs ho h3 hm hp hc
    obtain ⟨hnone, -, hended⟩ := waitLate_ended (hlim ▸ hw) hr hcheck hn ht
    exact ⟨hnone, hended⟩
  case mapping =>
    intro s b n k q hw hr ho hm hn ht
    exact ⟨_, rfl, waitLate_ended hw hr (waitCheck_of_mapping hw ho hm) hn ht⟩
  case poll =>
    intro s k q hst hf
    exact ⟨_, rfl, pollCcons_ccons hst hf, pollCcons_of_none hst hf, fun r hr hc => pollCcons_one hst hf hr hc⟩
  case binds =>
    intro s k part q v qcba b answers tail
    exact ⟨fun h hst hok hvf ht => ⟨_, rfl, qbRequest_bind h hst rfl hok hvf ht⟩,
      fun h hst => ⟨_, rfl, qbRequest_bind_refused h hst⟩,
      fun h hst => ⟨fun hb hr ht => ⟨_, rfl, qbRequest_rebind h hst hb hr ht⟩,
        fun r hb hr hc => ⟨_, rfl, qbRequest_rebind_writes h hst hb hr hc⟩,
        fun hb => ⟨_, rfl, qbRequest_rebind_refused h hst hb⟩⟩,
      fun h => ⟨fun hst => ⟨_, rfl, qbRequest_detach h hst⟩, fun hst => ⟨_, rfl, qbRequest_detach_refused h hst⟩⟩,
      fun h hst => ⟨fun hs hr => ⟨_, rfl, qbRequest_release h hst hs hr⟩,
        fun hc => ⟨_, rfl, qbRequest_release_refused h hst hc⟩⟩⟩

end Sys2Proof.Machine
end

section
/-!
SUPPORT. Traps and returns (04 R108, R109, 13 R320, 18 R451-R455; 05 R145, 07 R180, R187): the words that step 3 refuses, where a trap
goes and what it saves, what freezing a gang keeps, why a launch that has ended is gone, what TRET restores; and from these the
obligation on traps and returns.
-/
namespace Sys2Proof.Machine

open Sys2Proof.Safety

/-! ### Words that the checks of step 3 refuse (R320) -/

theorem bind_error {α β : Type} {x : Exec α} {f : α → Exec β} {s : State} {e : Stop} (h : x s = .error e) :
    (x >>= f) s = .error e := by
  simp [bind, StateT.bind, Except.bind, h]

theorem runExec_error {e : Exec Unit} {s : State} {x : Stop} (h : e s = .error x) : runExec e s = .next (stopState x s) := by
  simp [runExec, h]

theorem check3_refused {i : Instr} {s : State} {c f : Nat} (h : trap3 i s.old = some (c, f)) :
    check3 i s = .error (.trap c (if c = 3 then BitVec.ofNat 64 f else s.wordBits)) := by
  unfold check3
  rw [bind_ok (by rfl : getOld s = .ok (s.old, s)), h]
  dsimp only
  split
  · next hc => subst hc; rfl
  · rfl

theorem check3_legal {i : Instr} {s : State} (h : Legal i s) : check3 i s = .ok ((), s) := by
  have hh : trap3 i s.old = none := h
  unfold check3
  rw [bind_ok (by rfl : getOld s = .ok (s.old, s)), hh]
  rfl

theorem word_error {i : Instr} {e : Exec Unit} {s : State} {x : Stop} (hl : Legal i s) (he : e s = .error x) :
    word i e s = .next (stopState x s) :=
  runExec_error ((bind_ok (check3_legal hl)).trans he)

/-- A word's row of the dispatch is the checks of step 3 and an effect; the other rows are events. -/
theorem exec_word {i : Instr} (h : isEvent i = false) : ∃ e, ∀ s, exec i s = word i e s := by
  cases i
  case kx k => exact ⟨kxWord k, fun _ => rfl⟩
  any_goals exact ⟨_, fun _ => rfl⟩
  all_goals cases h

theorem exec_refused {i : Instr} {s : State} {c f : Nat} (hi : isEvent i = false) (h : trap3 i s.old = some (c, f)) :
    exec i s = .next (stopState (.trap c (if c = 3 then BitVec.ofNat 64 f else s.wordBits)) s) := by
  obtain ⟨e, he⟩ := exec_word hi
  rw [he]
  exact runExec_error (bind_error (check3_refused h))

/-! ### Privileged words (R108) -/

theorem privOf_code {d a b : BitVec 6} {y : BitVec 1} {n : BitVec 4} {i : Instr} {l : Nat} (h : (i, l) ∈ privOf d a b y n) :
    isEvent i = false ∧ ∃ g o x, i.code = some (g, o, x) ∧ ccOnly g.toNat o.toNat = true ∧ tileOnly g.toNat o.toNat = false ∧
      wordLevel g.toNat o.toNat = l := by
  simp only [privOf, List.mem_cons, Prod.mk.injEq, List.not_mem_nil, or_false] at h
  rcases h with ⟨rfl, rfl⟩ | ⟨rfl, rfl⟩ | ⟨rfl, rfl⟩ | ⟨rfl, rfl⟩ | ⟨rfl, rfl⟩ | ⟨rfl, rfl⟩ | ⟨rfl, rfl⟩ | ⟨rfl, rfl⟩ | ⟨rfl, rfl⟩ |
    ⟨rfl, rfl⟩ | ⟨rfl, rfl⟩ | ⟨rfl, rfl⟩
  all_goals exact ⟨rfl, _, _, _, rfl, rfl, rfl, rfl⟩

/-- A word of command cores traps on a tile as illegal, and below its level by privilege. -/
theorem trap3_ccOnly {i : Instr} {m : Mach} {g : BitVec 3} {o : BitVec 6} {x : BitVec 18} (hw : i.wellFormed = true)
    (hc : i.code = some (g, o, x)) (hcc : ccOnly g.toNat o.toNat = true) (ht : tileOnly g.toNat o.toNat = false)
    (h : m.isTile = true ∨ m.level < wordLevel g.toNat o.toNat) : trap3 i m = some (if m.isTile then 0x01 else 0x0E, 0) := by
  unfold trap3
  cases hi : m.isTile with
  | true => simp [hw, hc, hcc]
  | false =>
    have hl : m.level < wordLevel g.toNat o.toNat := h.resolve_left (by simp [hi])
    simp [hw, hc, ht, hl]

theorem exec_privileged {s : State} {d a b : BitVec 6} {y : BitVec 1} {n : BitVec 4} {i : Instr} {l : Nat}
    (hp : (i, l) ∈ privOf d a b y n) (hw : i.wellFormed = true) (h : s.old.isTile = true ∨ s.old.level < l) :
    exec i s = .next (stopState (.trap (if s.old.isTile then 0x01 else 0x0E) s.wordBits) s) := by
  obtain ⟨hi, g, o, x, hc, hcc, ht, rfl⟩ := privOf_code hp
  rw [exec_refused hi (trap3_ccOnly hw hc hcc ht h)]
  cases s.old.isTile <;> rfl

/-! ### TRAP, BRK, ECALL (R451, R455) -/

theorem exec_trap {s : State} {n : BitVec 12} (h : Legal (.trap n) s) :
    exec (.trap n) s = .next (stopState (.trap 0x0C (BitVec.ofNat 64 (n.toNat + wordCount s * 2 ^ 16))) s) :=
  word_error h rfl

theorem exec_brk {s : State} {n : BitVec 12} (h : Legal (.brk n) s) :
    exec (.brk n) s = .next (stopState (.trap 0x0D (BitVec.ofNat 64 (n.toNat + wordCount s * 2 ^ 16))) s) :=
  word_error h rfl

theorem needWord_true (c : Nat) (s : State) : needWord true c s = .ok ((), s) := rfl
theorem needWord_false (c : Nat) (s : State) : needWord false c s = .error (.trap c s.wordBits) := rfl

theorem exec_ecall {s : State} (h : Legal .ecall s) :
    exec .ecall s = .next (stopState (if s.old.level = 2 then .trap 0x01 s.wordBits else .trap 0x0F 0) s) := by
  refine word_error h ?_
  unfold ecallWord
  rw [bind_ok (by rfl : getOld s = .ok (s.old, s))]
  by_cases hl : s.old.level = 2
  · rw [if_pos hl, hl]
    exact bind_error (needWord_false 0x01 s)
  · rw [if_neg hl, bne_iff_ne.mpr hl]
    exact bind_ok (needWord_true 0x01 s)

/-! ### What every trap begins with -/

theorem leaveWq_me (m : Mach) (a : Nat) : (leaveWq m a).me = m.me := by unfold leaveWq; dsimp only; split <;> rfl
theorem leaveWq_core (m : Mach) (a : Nat) : (leaveWq m a).core = m.core := by unfold leaveWq; dsimp only; split <;> rfl
theorem leaveWq_rest (m : Mach) (a : Nat) : (leaveWq m a).rest = m.rest := by unfold leaveWq; dsimp only; split <;> rfl
theorem leaveWq_launches (m : Mach) (a : Nat) : (leaveWq m a).sys.launches = m.sys.launches := by
  unfold leaveWq; dsimp only; split <;> rfl
theorem leaveWq_absent {m : Mach} {a : Nat} (h : ∀ e ∈ m.sys.wqs, 32 * a ∉ e.2.poppers ∧ a ∉ e.2.pushers) : leaveWq m a = m := by
  unfold leaveWq
  dsimp only
  rw [if_neg]
  simpa using h

/-- The machine once its bundle waits for nothing any more. -/
def unwaited (m : Mach) : Mach :=
  leaveWq ((m.modCtl fun c => { c with blockAt := none, blockOn := none, own := none }).modEng fun e => { e with closing := none }) m.me

@[simp] theorem unwaited_me (m : Mach) : (unwaited m).me = m.me := leaveWq_me _ _
@[simp] theorem unwaited_isTile (m : Mach) : (unwaited m).isTile = m.isTile := congrArg isTileAgent (unwaited_me m)
@[simp] theorem unwaited_rf (m : Mach) : (unwaited m).core.rf = m.core.rf := by unfold unwaited; rw [leaveWq_core]; rfl
@[simp] theorem unwaited_mem (m : Mach) : (unwaited m).core.mem = m.core.mem := by unfold unwaited; rw [leaveWq_core]; rfl
@[simp] theorem unwaited_ctl (m : Mach) :
    (unwaited m).core.ctl = { m.core.ctl with blockAt := none, blockOn := none, own := none } := by
  unfold unwaited; rw [leaveWq_core]; rfl
@[simp] theorem unwaited_rest (m : Mach) : (unwaited m).rest = m.rest := leaveWq_rest _ _
@[simp] theorem unwaited_launch (m : Mach) (k : Nat) : (unwaited m).launch k = m.launch k := by
  unfold Mach.launch unwaited; rw [leaveWq_launches]; rfl
@[simp] theorem unwaited_csr (m : Mach) (n : Nat) : (unwaited m).csr n = m.csr n := by
  unfold Mach.csr Core.csr; rw [unwaited_isTile, unwaited_rf]
@[simp] theorem unwaited_level (m : Mach) : (unwaited m).level = m.level := by
  unfold Mach.level Core.level Core.csr; rw [unwaited_rf]
theorem unwaited_sys {m : Mach} (h : ∀ e ∈ m.sys.wqs, 32 * m.me ∉ e.2.poppers ∧ m.me ∉ e.2.pushers) : (unwaited m).sys = m.sys := by
  unfold unwaited; rw [leaveWq_absent (by exact h)]; rfl

/-! ### Where a trap goes (R109, R145, R180, R187, R452, R455) -/

theorem level_of_csr {m : Mach} (h : m.isTile = false) : m.level = bits (m.csr 0x800) 1 0 := by
  unfold Mach.level Core.level Mach.csr; rw [h]

/-- The cause of a trap: its code and the word's place in the bundle. -/
def causeOf (c w : Nat) : Dword := BitVec.ofNat 64 (c + 256 * (w % 8))
/-- `m`, waiting for nothing, with the address of its bundle, cause and value of a trap in the registers `ra`, `rc` and `rv`. -/
def saveTrap (tile : Bool) (ra rc rv : Nat) (m : Mach) (c w : Nat) (v : Dword) : Mach :=
  (((unwaited m).setCsr ra (m.core.rf.pc &&& codeMask tile)).setCsr rc (causeOf c w)).setCsr rv v
/-- `m` with issue to go on at `vec`, its control changed by `f`. -/
def enter (vec : Dword) (f : Ctl → Ctl) (m : Mach) : Mach := (m.modCtl f).modRf fun r => { r with pc := vec, npc := vec }
/-- The control of a task that enters its handler: a fresh frame, the loop suspended (R452). -/
def taskEntry (k : Ctl) : Ctl := { k with cyc := k.cyc + 4, sfc0 := k.cyc + 4, loop := k.loop.map fun l => { l with susp := true } }
/-- The control of a command core that enters a handler at level 1, which has to lie below the monitor's memory. -/
def level1Entry (vec : Dword) (k : Ctl) : Ctl := { k with cyc := k.cyc + 4, wait := if 0x30000 ≤ vec.toNat then .halt else k.wait }
/-- The control of a command core that enters the monitor. -/
def level2Entry (k : Ctl) : Ctl := { k with cyc := k.cyc + 4 }

theorem saveTrap_csr (tile : Bool) (ra rc rv : Nat) (m : Mach) (c w : Nat) (v : Dword) (n : Nat) :
    (saveTrap tile ra rc rv m c w v).csr n =
      if n = rv then v else if n = rc then causeOf c w else if n = ra then m.core.rf.pc &&& codeMask tile else m.csr n := by
  unfold saveTrap; rw [Mach.csr_setCsr, Mach.csr_setCsr, Mach.csr_setCsr, unwaited_csr]
theorem enter_csr (vec : Dword) (f : Ctl → Ctl) (m : Mach) (n : Nat) : (enter vec f m).csr n = m.csr n := rfl

theorem errIn_congr {c c' : Core} (h : c'.mem = c.mem) (ary off n : Nat) : errIn c' ary off n = errIn c ary off n := by
  unfold errIn Core.err; rw [h]

/-- A trap begins with `unwaited`. -/
theorem leaveWq_unwaited (m : Mach) : leaveWq ((m.modCtl fun c => { c with blockAt := none, blockOn := none, own := none }).modEng
    fun e => { e with closing := none }) m.me = unwaited m := rfl

/-- What a task keeps of the trap of an absent feature: where it goes on once the feature is there. -/
def savedAbsent (m : Mach) : Mach := (unwaited m).setCsr 0x022 (m.core.rf.pc &&& 0xFFFC)

section
variable {m : Mach} {c : Nat} (w : Nat) (v : Dword)

theorem takeTrap_feature (h : m.isTile = true) : takeTrap m 3 w v = featureAbsent (savedAbsent m) m.me v.toNat := by
  unfold takeTrap
  rw [leaveWq_unwaited]
  dsimp only
  rw [if_pos ((unwaited_isTile m).trans h), if_pos rfl, unwaited_rf, unwaited_me]
  rfl

theorem takeTrap_delegated (h : m.isTile = true) (h3 : c ≠ 3) (hd : (m.csr 0x024).getLsbD c = true) :
    takeTrap m c w v = escalate (unwaited m) m.me c := by
  unfold takeTrap
  rw [leaveWq_unwaited]
  dsimp only
  rw [if_pos ((unwaited_isTile m).trans h), if_neg h3, unwaited_csr, if_pos (by exact hd), unwaited_me]

/-- A trap that the task takes itself: a double fault, or its handler. -/
theorem takeTrap_entry (h : m.isTile = true) (h3 : c ≠ 3) (hd : (m.csr 0x024).getLsbD c = false) :
    let t := saveTrap true 0x022 0x021 0x023 m c w v
    let vec := m.csr 0x020 &&& 0xFFFC
    takeTrap m c w v = if 2 ≤ errIn m.core 2 vec.toNat 4 then crash (noteRead t m.me 2 vec.toNat 4) m.me c 1
      else enter vec taskEntry t := by
  intro t vec
  have ht : (((unwaited m).setCsr 0x022 (m.core.rf.pc &&& codeMask true)).setCsr 0x021 (dw (c + 256 * (w % 8)))).setCsr 0x023 v = t := rfl
  have hvec : t.csr 0x020 &&& codeMask true = vec := by rw [saveTrap_csr]; rfl
  have herr : errIn t.core 2 vec.toNat 4 = errIn m.core 2 vec.toNat 4 := errIn_congr (unwaited_mem m) _ _ _
  have hme : t.me = m.me := unwaited_me m
  unfold takeTrap
  rw [leaveWq_unwaited]
  dsimp only
  rw [if_pos ((unwaited_isTile m).trans h), if_neg h3, unwaited_csr, if_neg (by rw [bit, hd]; decide), unwaited_rf, ht, hvec, herr, hme]
  rfl

theorem takeTrap_level0 (h : m.isTile = false) (hl : m.level = 0) :
    let vec := m.csr 0x020 &&& 0x3FFFC
    takeTrap m c w v = enter vec (level1Entry vec)
      ((saveTrap false 0x022 0x021 0x023 m c w v).setCsr 0x800 ((m.csr 0x800 &&& 0xC) ||| 1)) := by
  intro vec
  have ht : (((unwaited m).setCsr 0x022 (m.core.rf.pc &&& codeMask false)).setCsr 0x021 (dw (c + 256 * (w % 8)))).setCsr 0x023 v =
    saveTrap false 0x022 0x021 0x023 m c w v := rfl
  have hplvl : (saveTrap false 0x022 0x021 0x023 m c w v).csr 0x800 = m.csr 0x800 := by rw [saveTrap_csr]; rfl
  have hvec : ((saveTrap false 0x022 0x021 0x023 m c w v).setCsr 0x800 ((m.csr 0x800 &&& 0xC) ||| 1)).csr 0x020 &&& codeMask false =
    vec := by rw [Mach.csr_setCsr, saveTrap_csr]; rfl
  unfold takeTrap
  rw [leaveWq_unwaited]
  dsimp only
  rw [if_neg (by rw [unwaited_isTile, h]; decide), if_pos ((unwaited_level m).trans hl), unwaited_rf, ht, hplvl, hvec]
  rfl

theorem takeTrap_level (h : m.isTile = false) (hl : m.level ≠ 0) :
    takeTrap m c w v = enter (m.csr 0x810 &&& 0x3FFFC) level2Entry
      ((saveTrap false 0x811 0x812 0x813 m c w v).setCsr 0x800 (BitVec.ofNat 64 (4 * m.level + 2))) := by
  have ht : (((unwaited m).setCsr 0x811 (m.core.rf.pc &&& codeMask false)).setCsr 0x812 (dw (c + 256 * (w % 8)))).setCsr 0x813 v =
    saveTrap false 0x811 0x812 0x813 m c w v := rfl
  have hcc : (saveTrap false 0x811 0x812 0x813 m c w v).isTile = false := (unwaited_isTile m).trans h
  have hlvl : (saveTrap false 0x811 0x812 0x813 m c w v).level = m.level := by
    rw [level_of_csr hcc, level_of_csr h, saveTrap_csr]; rfl
  have hvec : ((saveTrap false 0x811 0x812 0x813 m c w v).setCsr 0x800 (dw (4 * m.level + 2))).csr 0x810 &&& codeMask false =
    m.csr 0x810 &&& 0x3FFFC := by rw [Mach.csr_setCsr, saveTrap_csr]; rfl
  unfold takeTrap
  rw [leaveWq_unwaited]
  dsimp only
  rw [if_neg (by rw [unwaited_isTile, h]; decide), if_neg (by rw [unwaited_level]; exact hl), unwaited_rf, ht, hlvl, hvec]
  rfl

end

/-! ### Steps that leave a task's registers and the launches alone (R135, R178) -/

/-- What a change of an agent leaves alone, the issuing agent keeps. -/
theorem modAgent_keeps {β : Type} (g : Core → β) {f : Core → Core} (h : ∀ c, g (f c) = g c) (m : Mach) (a : Nat) :
    g (m.modAgent a f).core = g m.core := by
  unfold Mach.modAgent Mach.setAgent
  split
  · next ha => subst ha; rw [Mach.agent_me]; exact h _
  · rfl

/-- The issuing agent keeps its place and its registers, and every launch is as before. -/
structure Quiet (m m' : Mach) : Prop where
  me : m'.me = m.me
  rf : m'.core.rf = m.core.rf
  launches : m'.sys.launches = m.sys.launches

theorem Quiet.refl (m : Mach) : Quiet m m := ⟨rfl, rfl, rfl⟩
theorem Quiet.trans {m m' m'' : Mach} (h : Quiet m m') (h' : Quiet m' m'') : Quiet m m'' :=
  ⟨h'.me.trans h.me, h'.rf.trans h.rf, h'.launches.trans h.launches⟩
theorem Quiet.foldl {α : Type} {f : Mach → α → Mach} (h : ∀ m x, Quiet m (f m x)) (l : List α) (m : Mach) : Quiet m (l.foldl f m) :=
  List.foldlRecOn l f (Quiet.refl m) fun _ hm x _ => hm.trans (h _ x)
theorem Quiet.onSys (m : Mach) {f : Sys → Sys} (h : ∀ s, (f s).launches = s.launches) : Quiet m (m.onSys f) := ⟨rfl, rfl, h _⟩
theorem Quiet.modCtl (m : Mach) (a : Nat) (f : Ctl → Ctl) : Quiet m (m.modAgent a fun c => c.modCtl f) :=
  ⟨Mach.modAgent_me m a _, modAgent_keeps Core.rf (by intro; rfl) m a, by rw [Mach.modAgent_sys]⟩
theorem Quiet.setSem (m : Mach) (p i : Nat) (x : Sem) : Quiet m (m.setSem p i x) := ⟨rfl, rfl, rfl⟩
theorem Quiet.setSite (m : Mach) (a : Nat) (x : Site) : Quiet m (m.setSite a x) := ⟨rfl, rfl, rfl⟩
theorem Quiet.gsEvent (m : Mach) (l : List Nat) : Quiet m (gsEvent m l) :=
  Quiet.foldl (fun m p => Quiet.modCtl m (ccOf p) _) _ m

theorem Quiet.leaveWaits (m : Mach) (a : Nat) : Quiet m (leaveWaits m a) := by
  unfold Machine.leaveWaits
  refine Quiet.trans ?_ (Quiet.onSys _ fun _ => rfl)
  split
  · refine Quiet.trans ?_ (Quiet.setSem _ _ _ _)
    split
    · exact Quiet.modCtl m a _
    · exact Quiet.refl m
  · exact Quiet.refl m

/-- A gang that does not run does not stop; one that runs is FROZEN. -/
theorem stopGang_inv (m : Mach) (n key g why : Nat) :
    (((m.launch key).gang g).st ≠ 1 ∧ stopGang m n key g why = m) ∨
    ∃ m' x, Quiet m m' ∧ x.st = 3 ∧ Quiet (m'.setLaunch key ((m.launch key).setGang g x)) (stopGang m n key g why) := by
  unfold stopGang
  dsimp only
  split
  · refine .inr ⟨_, _, Quiet.foldl (fun m a => ?_) _ m, rfl, Quiet.gsEvent _ _⟩
    split
    · exact Quiet.refl m
    · exact ((Quiet.leaveWaits m a).trans (Quiet.modCtl _ a _)).trans (Quiet.setSite _ a _)
  · next h => exact .inl ⟨h, rfl⟩

theorem stopGang_me (m : Mach) (n key g why : Nat) : (stopGang m n key g why).me = m.me := by
  rcases stopGang_inv m n key g why with ⟨-, h⟩ | ⟨m', x, h, -, h'⟩
  · rw [h]
  · exact h'.me.trans h.me
theorem stopGang_rf (m : Mach) (n key g why : Nat) : (stopGang m n key g why).core.rf = m.core.rf := by
  rcases stopGang_inv m n key g why with ⟨-, h⟩ | ⟨m', x, h, -, h'⟩
  · rw [h]
  · exact h'.rf.trans h.rf
theorem freezeGang_me (m : Mach) (key g why : Nat) : (freezeGang m key g why).me = m.me := stopGang_me _ _ _ _ _
theorem freezeGang_rf (m : Mach) (key g why : Nat) : (freezeGang m key g why).core.rf = m.core.rf := stopGang_rf _ _ _ _ _

theorem Mach.launch_congr {m m' : Mach} (h : m'.sys.launches = m.sys.launches) (k : Nat) : m'.launch k = m.launch k := by
  unfold Mach.launch; rw [h]
theorem Launch.gang_setGang_self (l : Launch) (g : Nat) (x : Gang) : (l.setGang g x).gang g = x := SMap.get_set_self _ _ _ _

/-- A RESIDENT gang that freezes is FROZEN. -/
theorem freezeGang_st {m : Mach} {key g : Nat} (h : ((m.launch key).gang g).st = 1) (why : Nat) :
    (((freezeGang m key g why).launch key).gang g).st = 3 := by
  rcases stopGang_inv (m.onSys fun s => { s with seq := s.seq + 1 }) (m.sys.seq + 1) key g why with ⟨hne, -⟩ | ⟨m', x, -, hx, hs⟩
  · exact absurd h hne
  · have hl : (freezeGang m key g why).launch key = (m.launch key).setGang g x :=
      (Mach.launch_congr hs.launches key).trans (Mach.launch_setLaunch_self ..)
    rw [hl, Launch.gang_setGang_self, hx]

/-! ### A launch that has ended stays away (R145) -/

/-- The machine has no launch `k`. -/
def NoLaunch (k : Nat) (m : Mach) : Prop := m.hasLaunch k = false

theorem NoLaunch.of_launches {k : Nat} {m m' : Mach} (hm : NoLaunch k m) (h : m'.sys.launches = m.sys.launches) : NoLaunch k m' := by
  unfold NoLaunch Mach.hasLaunch at *; rw [h]; exact hm
theorem NoLaunch.iff {k : Nat} {m : Mach} : NoLaunch k m ↔ ∀ e ∈ m.sys.launches, e.1 ≠ k := by
  unfold NoLaunch Mach.hasLaunch
  simp
theorem NoLaunch.setLaunch {k n : Nat} {m : Mach} (h : NoLaunch k m) (hn : n ≠ k) (x : Launch) : NoLaunch k (m.setLaunch n x) := by
  refine NoLaunch.iff.mpr fun e he => ?_
  have hs : (m.setLaunch n x).sys.launches = SMap.set (fun _ => {}) m.sys.launches n x := rfl
  rcases SMap.mem_set (hs ▸ he) with rfl | he
  · exact hn
  · exact NoLaunch.iff.mp h e he

theorem NoLaunch.stopGang {k key : Nat} {m : Mach} (h : NoLaunch k m) (hk : key ≠ k) (n g why : Nat) :
    NoLaunch k (stopGang m n key g why) := by
  rcases stopGang_inv m n key g why with ⟨-, he⟩ | ⟨m', x, hm, -, hs⟩
  · rw [he]; exact h
  · exact ((h.of_launches hm.launches).setLaunch hk _).of_launches hs.launches
theorem NoLaunch.freezeLaunch {k key : Nat} {m : Mach} (h : NoLaunch k m) (hk : key ≠ k) (why : Nat) :
    NoLaunch k (freezeLaunch m key why) := by
  refine List.foldlRecOn _ _ (h.of_launches rfl) fun m hm e he => ?_
  obtain ⟨x, -, rfl⟩ := List.mem_map.mp he
  exact hm.stopGang hk _ _ _

theorem modTask_launches (m : Mach) (t : TaskId) (f : Core → Core) : (m.modTask t f).sys.launches = m.sys.launches := by
  unfold Mach.modTask
  dsimp only
  split
  · rw [Mach.modAgent_sys]
  · rfl
theorem NoLaunch.bumpLaunch {k key : Nat} {m : Mach} (h : NoLaunch k m) (hk : key ≠ k) (d : Nat) : NoLaunch k (bumpLaunch m key d) := by
  have hb : ∀ l : List Nat, NoLaunch k (l.foldl (fun m t => m.modTask ⟨key, t⟩ (bumpPhases d)) m) := fun l =>
    List.foldlRecOn l _ h fun m hm t _ => hm.of_launches (modTask_launches m _ _)
  unfold Machine.bumpLaunch
  dsimp only
  split
  · exact (((hb _).setLaunch hk _).freezeLaunch hk 0).setLaunch hk _
  · exact (hb _).setLaunch hk _

/-- A barrier of a domain completes only for launches that are there. -/
theorem NoLaunch.tryDomain {k : Nat} {m : Mach} (h : NoLaunch k m) (part dom : Nat) : NoLaunch k (tryDomain m part dom) := by
  unfold Machine.tryDomain
  dsimp only
  split
  · refine List.foldlRecOn _ _ (h.of_launches rfl) fun m hm j _ => ?_
    split
    · next hj => exact hm.bumpLaunch (fun hjk => by rw [hjk, hm] at hj; cases hj) 3
    · exact hm
  · exact h

theorem NoLaunch.headUpdate {k : Nat} {m : Mach} (h : NoLaunch k m) : NoLaunch k (headUpdate m) := by
  unfold Machine.headUpdate
  split
  · exact h
  · refine List.foldlRecOn _ _ (h.of_launches rfl) fun m' hm e he => hm.setLaunch ?_ _
    exact NoLaunch.iff.mp h e (List.mem_filter.mp he).1

theorem complete_launches (m : Mach) (q : Nat) (c : Cmd) (st d w i : Nat) :
    (complete m q c st d w i).sys.launches = m.sys.launches := by
  rw [HostOnly.complete m]; rfl
theorem graphSettle_launches (m : Mach) (r : Nat) : (graphSettle m r).sys.launches = m.sys.launches := by
  unfold graphSettle
  dsimp only
  split
  · rfl
  · exact complete_launches _ _ _ _ _ _ _
theorem nodeDone_launches (m : Mach) (r n st : Nat) (succ : List Nat) : (nodeDone m r n st succ).sys.launches = m.sys.launches := by
  unfold nodeDone
  dsimp only
  split
  · rfl
  · rw [graphSettle_launches]; rfl
theorem tellOrigin_launches (m : Mach) (l : Launch) (st d : Nat) : (tellOrigin m l st d).sys.launches = m.sys.launches := by
  unfold tellOrigin
  split
  · exact complete_launches ..
  · exact nodeDone_launches ..
  · rfl

/-- What is left of a machine whose launch `k` ends. -/
def withoutLaunch (m : Mach) (k : Nat) : Mach := m.onSys fun s => { s with launches := SMap.erase s.launches k }

theorem NoLaunch.withoutLaunch (m : Mach) (k : Nat) : NoLaunch k (withoutLaunch m k) :=
  NoLaunch.iff.mpr fun _ he => (SMap.mem_erase he).2

/-- The end of a launch erases it; its domain's barriers, the heads of the sources and its origin follow. -/
theorem endLaunch_inv {m : Mach} {k : Nat} (h : m.hasLaunch k = true) (st d : Nat) : ∃ m',
    endLaunch m k st d = tellOrigin (headUpdate (if (m.launch k).img.domid = 0xFFFF then withoutLaunch m' k
      else tryDomain (withoutLaunch m' k) (m.launch k).part (m.launch k).img.domid)) (m.launch k) st d :=
  ⟨_, by unfold endLaunch; exact if_pos h⟩

theorem NoLaunch.endLaunch (m : Mach) (k st d : Nat) : NoLaunch k (endLaunch m k st d) := by
  by_cases h : m.hasLaunch k = true
  · obtain ⟨m', he⟩ := endLaunch_inv h st d
    rw [he]
    refine (NoLaunch.headUpdate ?_).of_launches (tellOrigin_launches ..)
    split
    · exact NoLaunch.withoutLaunch m' k
    · exact (NoLaunch.withoutLaunch m' k).tryDomain _ _
  · unfold Machine.endLaunch
    rw [if_neg h]
    exact Bool.eq_false_iff.mpr h

theorem escalate_noLaunch {m : Mach} {a : Nat} {t : TaskId} (h : (m.agent a).ctl.task = some t) (c : Nat) :
    NoLaunch t.launch (escalate m a c) := by
  unfold escalate
  rw [h]
  exact NoLaunch.endLaunch _ _ _ _

/-! ### Absent features (R187) -/

/-- A feature that no die supplies ends the launch. -/
theorem featureAbsent_noLaunch {m : Mach} {a : Nat} {t : TaskId} (h : (m.agent a).ctl.task = some t) {f : Nat} (hf : 6 ≤ f) :
    NoLaunch t.launch (featureAbsent m a f) := by
  unfold featureAbsent
  rw [h]
  dsimp only
  rw [if_pos hf]
  exact NoLaunch.endLaunch _ _ _ _

/-- Another one freezes the gang, which then requires it. -/
theorem featureAbsent_freezes {m : Mach} {a : Nat} {t : TaskId} (h : (m.agent a).ctl.task = some t) {f : Nat} (hf : f < 6) :
    let l := m.launch t.launch
    let gg := l.gang (l.gangOf t.task)
    featureAbsent m a f = freezeGang (m.setLaunch t.launch (l.setGang (l.gangOf t.task) { gg with rfeat := gg.rfeat ||| 2 ^ f }))
      t.launch (l.gangOf t.task) 1 := by
  unfold featureAbsent
  rw [h]
  dsimp only
  rw [if_neg (by omega)]

/-! ### Double faults (R180) -/

theorem noteRead_me_ctl (m : Mach) (a ary off n : Nat) :
    (noteRead m a ary off n).me = m.me ∧ (noteRead m a ary off n).core.ctl = m.core.ctl := by
  unfold noteRead
  split
  · exact ⟨rfl, rfl⟩
  · refine List.foldlRecOn (motive := fun x : Mach => x.me = m.me ∧ x.core.ctl = m.core.ctl) _ _ ⟨rfl, rfl⟩ fun x hx i _ => ?_
    obtain ⟨hme, hctl⟩ := id hx
    dsimp only
    split
    · exact hx
    · exact ⟨(Mach.modAgent_me ..).trans hme, (modAgent_keeps Core.ctl (by intro; rfl) _ a).trans hctl⟩
    · split <;> exact hx

/-- A task whose handler cannot be fetched crashes. -/
theorem crash_crashed {m : Mach} (h : m.core.ctl.task.isSome = true) (cause kind : Nat) :
    ((crash m m.me cause kind).site m.me).tst = 6 ∧ (crash m m.me cause kind).core.ctl.crash = some (cause, kind) := by
  unfold crash
  rw [Mach.agent_me, if_pos h]
  refine ⟨by rw [Mach.site_setSite_self], ?_⟩
  rw [Mach.setSite_core]
  unfold Mach.modAgent Mach.setAgent
  rw [if_pos (by rfl)]
  rfl

/-! ### Return from a trap (R454, R455) -/

theorem SMap.get_map_entries {α : Type} {d : Nat → α} {f : α → α} (hd : ∀ n, f (d n) = d n) (m : SMap α) (n : Nat) :
    SMap.get d (m.map fun e => (e.1, f e.2)) n = f (SMap.get d m n) := by
  induction m with
  | nil => exact (hd n).symm
  | cons e t ih =>
    simp only [List.map_cons, SMap.get]
    split
    · rfl
    · exact ih

/-- `s` after a return, which is a transfer of engine S. -/
def returned (s : State) : State := { s with m := returnTrap s.old s.m, bundle := s.bundle.map fun b => { b with sNext := true } }

theorem exec_tret {s : State} (h : Legal .tret s) (hp : s.old.isTile = true ∨ s.old.level ≠ 0) : exec .tret s = .next (returned s) := by
  have hc : (s.old.isTile || s.old.level != 0) = true := by simpa using hp
  refine word_ok h ?_
  unfold tretWord
  rw [bind_ok (by rfl : getOld s = .ok (s.old, s)), hc]
  rfl

theorem exec_tret_level0 {s : State} (h : Legal .tret s) (ht : s.old.isTile = false) (hl : s.old.level = 0) :
    exec .tret s = .next (stopState (.trap 0x0E s.wordBits) s) := by
  refine word_error h ?_
  unfold tretWord
  rw [bind_ok (by rfl : getOld s = .ok (s.old, s)), ht, hl]
  exact bind_error (needWord_false 0x0E s)

section
variable (old : Mach) {m : Mach}

/-- Where a suspended loop stands when issue goes on at `pc` (R454). -/
def resumed (pc : Dword) (l : LoopS) : Option LoopS :=
  if l.susp = false then some l else if l.start ≤ pc.toNat ∧ pc.toNat < l.stop then some { l with susp := false } else none

theorem returnTrap_tile_regs (h : m.isTile = true) : (returnTrap old m).core.rf = { m.core.rf with npc := old.csr 0x022 &&& 0xFFFC } ∧
    (returnTrap old m).core.mem = m.core.mem := by
  unfold returnTrap; rw [if_pos h]; exact ⟨rfl, rfl⟩

theorem returnTrap_tile_ctl (h : m.isTile = true) : (returnTrap old m).core.ctl.sfc0 = m.core.ctl.cyc + 1 ∧
    (returnTrap old m).core.ctl.loop = m.core.ctl.loop.bind (resumed (old.csr 0x022 &&& 0xFFFC)) := by
  unfold returnTrap
  rw [if_pos h]
  refine ⟨rfl, congrArg m.core.ctl.loop.bind (funext fun l => ?_)⟩
  unfold resumed
  cases l.susp <;> rfl

theorem returnTrap_tile_eng (h : m.isTile = true) : let e := (returnTrap old m).core.eng
    e.mhalt = false ∧ e.ihalt = false ∧ e.ghalt = false ∧ e.xhalt = false ∧ e.thalt = false := by
  unfold returnTrap; rw [if_pos h]; exact ⟨rfl, rfl, rfl, rfl, rfl⟩
theorem returnTrap_tile_se (h : m.isTile = true) (n : Nat) : (returnTrap old m).core.se n = { m.core.se n with halted := false } := by
  unfold returnTrap
  rw [if_pos h]
  exact SMap.get_map_entries (f := fun x : SEng => { x with halted := false }) (fun _ => rfl) _ n
theorem returnTrap_tile_chan (h : m.isTile = true) (n : Nat) :
    (returnTrap old m).core.chan n = { m.core.chan n with halted := false } := by
  unfold returnTrap
  rw [if_pos h]
  exact SMap.get_map_entries (f := fun x : Chan => { x with halted := false }) (fun _ => rfl) _ n

theorem bits_and_0xC (x : Dword) : bits (x &&& 0xC) 1 0 = 0 := by
  unfold bits
  rw [BitVec.toNat_and, Nat.shiftRight_zero, Nat.and_mod_two_pow]
  exact Nat.and_zero _
theorem bits_plvl (x : Dword) : bits (dw (4 * bits x 3 2 + bits x 3 2)) 1 0 = x.toNat / 4 % 4 := by
  unfold bits dw
  rw [BitVec.toNat_ofNat]
  omega

theorem returnTrap_cc_inv (h : m.isTile = false) : ∃ v pc, returnTrap old m = (m.setCsr 0x800 v).modRf (fun r => { r with npc := pc }) ∧
    bits v 1 0 = (if old.level = 1 then 0 else (old.csr 0x800).toNat / 4 % 4) ∧
    pc = old.csr (if old.level = 1 then 0x022 else 0x811) &&& 0x3FFFC := by
  unfold returnTrap
  rw [if_neg (by rw [h]; decide)]
  by_cases hl : old.level = 1
  · simp only [if_pos hl]
    exact ⟨_, _, rfl, bits_and_0xC _, rfl⟩
  · simp only [if_neg hl]
    exact ⟨_, _, rfl, bits_plvl _, rfl⟩

theorem returnTrap_cc (h : m.isTile = false) : let t := returnTrap old m
    t.core.rf.npc = old.csr (if old.level = 1 then 0x022 else 0x811) &&& 0x3FFFC ∧
    t.level = (if old.level = 1 then 0 else (old.csr 0x800).toNat / 4 % 4) ∧ (∀ n, n ≠ 0x800 → t.csr n = m.csr n) ∧
    t.core.rf.s = m.core.rf.s ∧ t.core.mem = m.core.mem := by
  obtain ⟨v, pc, hret, hlvl, hpc⟩ := returnTrap_cc_inv old h
  have hcsr : ∀ n, (m.setCsr 0x800 v).csr n = if n = 0x800 then v else m.csr n := fun n => Mach.csr_setCsr ..
  have hbits := level_of_csr (m := (m.setCsr 0x800 v).modRf fun r => { r with npc := pc }) h
  dsimp only
  rw [hret]
  refine ⟨hpc, hbits.trans ?_, fun n hn => (hcsr n).trans (if_neg hn), rfl, rfl⟩
  rw [← hlvl]
  exact congrArg (bits · 1 0) ((hcsr 0x800).trans (if_pos rfl))

end

/-! ### What a trap changes of the machine -/

/-- A bundle that takes effect ends with its trap. -/
theorem stopState_trap {s : State} (h : Issuing s) (c : Nat) (v : Dword) :
    stopState (.trap c v) s = { s with m := takeTrap s.old c (wordIdx s) v, bundle := none } := by
  unfold stopState stopped wordIdx
  cases hb : s.bundle with
  | none => rfl
  | some b =>
    dsimp only
    rw [h b hb]
    rfl

@[simp] theorem Mach.setCsr_s (m : Mach) (n : Nat) (x : Dword) : (m.setCsr n x).core.rf.s = m.core.rf.s := rfl
@[simp] theorem Mach.setCsr_p (m : Mach) (n : Nat) (x : Dword) : (m.setCsr n x).core.rf.p = m.core.rf.p := rfl
@[simp] theorem Mach.setCsr_mem (m : Mach) (n : Nat) (x : Dword) : (m.setCsr n x).core.mem = m.core.mem := rfl
@[simp] theorem Mach.setCsr_ctl (m : Mach) (n : Nat) (x : Dword) : (m.setCsr n x).core.ctl = m.core.ctl := rfl
@[simp] theorem Mach.setCsr_rest (m : Mach) (n : Nat) (x : Dword) : (m.setCsr n x).rest = m.rest := rfl
@[simp] theorem Mach.setCsr_sys (m : Mach) (n : Nat) (x : Dword) : (m.setCsr n x).sys = m.sys := rfl

theorem Mach.csr_congr {m m' : Mach} (hme : m'.me = m.me) (hrf : m'.core.rf = m.core.rf) (n : Nat) : m'.csr n = m.csr n := by
  unfold Mach.csr Core.csr Mach.isTile; rw [hme, hrf]

section
variable {m : Mach} {c : Nat} (w : Nat) (v : Dword)

/-- The issuing agent has its task still. -/
theorem agent_task {m' : Mach} {t : TaskId} (hme : m'.me = m.me) (hc : m'.core.ctl = (unwaited m).core.ctl)
    (h : m.core.ctl.task = some t) : (m'.agent m.me).ctl.task = some t := by
  rw [← hme, Mach.agent_me, hc, unwaited_ctl]; exact h

/-- A handler whose first word is lost is a double fault (R180). -/
theorem takeTrap_doubleFault (h : m.isTile = true) (h3 : c ≠ 3) (hd : (m.csr 0x024).getLsbD c = false)
    (he : errIn m.core 2 (m.csr 0x020 &&& 0xFFFC).toNat 4 = 2) (ht : m.core.ctl.task.isSome = true) :
    ((takeTrap m c w v).site m.me).tst = 6 ∧ (takeTrap m c w v).core.ctl.crash = some (c, 1) := by
  rw [takeTrap_entry w v h h3 hd, if_pos (Nat.le_of_eq he.symm)]
  obtain ⟨hme, hctl⟩ := noteRead_me_ctl (saveTrap true 0x022 0x021 0x023 m c w v) m.me 2 (m.csr 0x020 &&& 0xFFFC).toNat 4
  have hc := crash_crashed (hctl ▸ (congrArg (fun k : Ctl => k.task.isSome) (unwaited_ctl m)).trans ht) c 1
  rwa [hme.trans (unwaited_me m)] at hc

theorem takeTrap_delegated_noLaunch {t : TaskId} (h : m.isTile = true) (h3 : c ≠ 3) (hd : (m.csr 0x024).getLsbD c = true)
    (ht : m.core.ctl.task = some t) : (takeTrap m c w v).hasLaunch t.launch = false := by
  rw [takeTrap_delegated w v h h3 hd]
  exact escalate_noLaunch (agent_task (unwaited_me m) rfl ht) c

/-- The feature-absent trap of a feature that no die has, and of another (R187). -/
theorem takeTrap_feature_noLaunch {t : TaskId} (h : m.isTile = true) (ht : m.core.ctl.task = some t) (hv : 6 ≤ v.toNat) :
    (takeTrap m 3 w v).hasLaunch t.launch = false := by
  rw [takeTrap_feature w v h]
  exact featureAbsent_noLaunch (agent_task (m' := savedAbsent m) (unwaited_me m) rfl ht) hv
theorem takeTrap_feature_freezes {t : TaskId} (h : m.isTile = true) (ht : m.core.ctl.task = some t) (hv : v.toNat < 6) :
    let l := m.launch t.launch
    (takeTrap m 3 w v).csr 0x022 = m.core.rf.pc &&& 0xFFFC ∧
    ((l.gang (l.gangOf t.task)).st = 1 → (((takeTrap m 3 w v).launch t.launch).gang (l.gangOf t.task)).st = 3) := by
  intro l
  have hl : (savedAbsent m).launch t.launch = l := unwaited_launch m _
  rw [takeTrap_feature w v h, featureAbsent_freezes (agent_task (m' := savedAbsent m) (unwaited_me m) rfl ht) hv, hl]
  refine ⟨?_, fun hst => freezeGang_st ?_ 1⟩
  · rw [Mach.csr_congr (freezeGang_me ..) (freezeGang_rf ..)]
    exact (Mach.csr_setCsr ..).trans (if_pos rfl)
  · rw [Mach.launch_setLaunch_self, Launch.gang_setGang_self]
    exact hst

/-- The entry of a handler keeps registers, memory, other agents and package. -/
theorem enter_saveTrap (vec : Dword) (f : Ctl → Ctl) (tile : Bool) (ra rc rv : Nat) :
    let t := enter vec f (saveTrap tile ra rc rv m c w v)
    t.core.rf.s = m.core.rf.s ∧ t.core.rf.p = m.core.rf.p ∧ t.core.mem = m.core.mem ∧ t.rest = m.rest ∧ t.sys = (unwaited m).sys ∧
      t.core.ctl = f { m.core.ctl with blockAt := none, blockOn := none, own := none } := by
  simp [enter, saveTrap]
/-- The same with another level. -/
theorem enter_saveTrap_plvl (vec : Dword) (f : Ctl → Ctl) (tile : Bool) (ra rc rv : Nat) (plvl : Dword) :
    let t := enter vec f ((saveTrap tile ra rc rv m c w v).setCsr 0x800 plvl)
    t.core.rf.s = m.core.rf.s ∧ t.core.mem = m.core.mem := by
  simp [enter, saveTrap]

end

/-! ### The obligation -/

/-- Settles O46: clause by clause, from the equation of `takeTrap` for each way a trap can go and the facts about `returnTrap`. -/
theorem trapsAndReturns : Obligations.TrapsAndReturns := by
  refine ⟨?refused, ?privileged, ?words, ?traps, ?returns⟩
  case refused => exact fun s i c f hi h => exec_refused hi h
  case privileged => exact fun s d a b y n i l hp hw h => exec_privileged hp hw h
  case words => exact fun s n => ⟨exec_trap, exec_brk, exec_ecall⟩
  case traps =>
    intro s c v hs
    rw [stopState_trap hs]
    refine ⟨rfl, ?taken, ?delegated, ?feature, ?level0, ?level⟩
    case taken =>
      intro h h3 hd
      refine ⟨takeTrap_doubleFault _ _ h h3 hd, fun he => ?_⟩
      dsimp only
      rw [takeTrap_entry _ _ h h3 hd, if_neg (by omega)]
      obtain ⟨hscal, hpred, hmem, hrest, hsys, hctl⟩ := enter_saveTrap (m := s.old) (c := c) (wordIdx s) v
        (s.old.csr 0x020 &&& 0xFFFC) taskEntry true 0x022 0x021 0x023
      simp only [enter_csr, saveTrap_csr]
      refine ⟨rfl, rfl, rfl, fun n hn => ?_, hscal, hpred, rfl, rfl, hmem, hrest, fun hw => hsys.trans (unwaited_sys hw),
        congrArg Ctl.cyc hctl, rfl, congrArg Ctl.loop hctl⟩
      simp only [List.mem_cons, List.not_mem_nil, or_false, not_or] at hn
      simp only [hn, if_false]
    case delegated => exact fun h h3 hd k ht => takeTrap_delegated_noLaunch _ _ h h3 hd ht
    case feature =>
      rintro h rfl k ht
      exact ⟨takeTrap_feature_noLaunch _ _ h ht, takeTrap_feature_freezes _ _ h ht⟩
    case level0 =>
      intro h hl
      dsimp only
      rw [takeTrap_level0 _ _ h hl]
      obtain ⟨hscal, hmem⟩ := enter_saveTrap_plvl (m := s.old) (c := c) (wordIdx s) v (s.old.csr 0x020 &&& 0x3FFFC)
        (level1Entry (s.old.csr 0x020 &&& 0x3FFFC)) false 0x022 0x021 0x023 ((s.old.csr 0x800 &&& 0xC) ||| 1)
      simp only [enter_csr, Mach.csr_setCsr, saveTrap_csr]
      refine ⟨rfl, rfl, rfl, rfl, fun n hn => ?_, hscal, rfl, rfl, hmem⟩
      simp only [List.mem_cons, List.not_mem_nil, or_false, not_or] at hn
      simp only [hn, if_false]
    case level =>
      intro h hl
      dsimp only
      rw [takeTrap_level _ _ h hl]
      obtain ⟨hscal, hmem⟩ := enter_saveTrap_plvl (m := s.old) (c := c) (wordIdx s) v (s.old.csr 0x810 &&& 0x3FFFC)
        level2Entry false 0x811 0x812 0x813 (BitVec.ofNat 64 (4 * s.old.level + 2))
      simp only [enter_csr, Mach.csr_setCsr, saveTrap_csr]
      refine ⟨rfl, rfl, rfl, rfl, fun n hn => ?_, hscal, rfl, rfl, hmem⟩
      simp only [List.mem_cons, List.not_mem_nil, or_false, not_or] at hn
      simp only [hn, if_false]
  case returns =>
    intro s hs hme
    have ht : s.m.isTile = s.old.isTile := congrArg isTileAgent hme
    refine ⟨fun h => ?tile, exec_tret_level0 hs, fun h hl => ?cc⟩
    case tile =>
      have hm := ht.trans h
      obtain ⟨hrf, hmem⟩ := returnTrap_tile_regs s.old hm
      obtain ⟨hsfc, hloop⟩ := returnTrap_tile_ctl s.old hm
      obtain ⟨hmh, hih, hgh, hxh, hth⟩ := returnTrap_tile_eng s.old hm
      exact ⟨_, exec_tret hs (.inl h), hrf, hmem, hsfc, hmh, hih, hgh, hxh, hth, fun n =>
        ⟨congrArg SEng.halted (returnTrap_tile_se s.old hm n), congrArg Chan.halted (returnTrap_tile_chan s.old hm n)⟩, hloop⟩
    case cc => exact ⟨_, exec_tret hs (.inr hl), returnTrap_cc s.old (ht.trans h)⟩

end Sys2Proof.Machine
end

section
/-!
SUPPORT. Words of engines V and F (12 R291-R298, 16 R379-R401): the frame of a word built up read by read, how a word of rows runs,
what the lanes of a word are as integers and as rounded numbers; and from these the obligations on row arithmetic, words of one row,
lane moves, reductions and dot products.
-/
namespace Sys2Proof.Safety

open Sys2Proof.Machine

/-! ### What a word reads of the machine as its bundle found it (R318) -/

/-- Control registers that a word leaves alone are the same in the machine that its bundle found. -/
theorem Kept.old_csr {s t : State} {sr pr vr cr : List Nat} {qs : Nat → Prop} (h : Kept s t sr pr vr cr qs) {n : Nat} (hn : n ∉ cr) :
    t.old.csr n = s.old.csr n := by
  have hc := h.context
  unfold State.old
  cases hs : s.bundle <;> cases ht : t.bundle <;> simp only [hs, ht, Option.map_some, Option.map_none, reduceCtorEq,
    Option.some.injEq, Prod.mk.injEq] at hc ⊢
  · exact h.csrs n hn
  · rw [hc.1]

/-- The row that a vector name stands for rests on the window registers (R197). -/
theorem rowOf_congr {m m' : Mach} (h : ∀ n, 0x010 ≤ n → m'.csr n = m.csr n) (i : Nat) : m'.rowOf i = m.rowOf i := by
  unfold Mach.rowOf
  rw [h 0x010 (by omega), h 0x011 (by omega), h 0x012 (by omega), h 0x013 (by omega)]

/-- A scalar read leaves the type of every vector name as the bundle found it. -/
theorem rdS_nameType {r : Nat} {s t : State} {x : SReg} (h : rdS r s = .ok (x, t)) (i : Nat) : t.old.nameType i = s.old.nameType i := by
  obtain ⟨hrf, -, htile⟩ := rdS_old h
  have hcsr : ∀ n, t.old.csr n = s.old.csr n := fun n => by unfold Mach.csr Core.csr; rw [hrf, htile]
  unfold Mach.nameType Mach.nameTile Mach.tagOf
  rw [hcsr 0x010, hcsr 0x011, hcsr 0x014, hcsr 0x015]

/-! ### Flags (R295, R300) -/

/-- A key that is not written reads the same, whatever the unlisted keys read as. -/
theorem get_set_other {α : Type} [DecidableEq α] (d d' : Nat → α) (m : SMap α) {k j : Nat} (x : α) (h : j ≠ k) :
    SMap.get d (SMap.set d' m k x) j = SMap.get d m j := by
  unfold SMap.set
  split
  · exact SMap.get_erase_ne d m h
  · exact SMap.get_put_ne d m x h

theorem unarmed_setCsr {m : Mach} {p n : Nat} (v : Dword) (hn : n ≠ csrEINJC) (h : Unarmed m p) : Unarmed (m.setCsr n v) p := by
  have hc : (m.setCsr n v).ccCsr p csrEINJC = m.ccCsr p csrEINJC := by
    unfold Mach.ccCsr Mach.agent
    change (if ccOf p = m.me then m.core.setCsr m.isTile n v else _ : Core).csr _ _ = _
    split
    · exact get_set_other _ _ _ v hn.symm
    · rfl
  unfold Unarmed
  rwa [hc]

/-- A change of one control register, not that of injections, keeps everything else. -/
theorem SameBut.of_setCsr {s : State} {n : Nat} {v : Dword} {qs : Nat → Prop} (hn : n ≠ csrEINJC) :
    SameBut s { s with m := s.m.setCsr n v } [] [] [] [n] qs := fun hs =>
  { faultless := ⟨hs.1, unarmed_setCsr v hn hs.2.1, hs.2.2⟩
    agent := rfl
    scalars := fun _ _ => rfl
    preds := fun _ _ => rfl
    rows := fun _ _ => rfl
    csrs := fun k hk => (Mach.csr_setCsr s.m n k v).trans (if_neg (by simpa using hk))
    pc := rfl
    queues := fun _ _ => rfl
    bindings := fun _ => ⟨rfl, rfl⟩
    engines := rfl
    bytesS := fun _ => rfl
    bytesA := fun _ => rfl
    bytesW := fun _ => rfl
    bytesI := fun _ => rfl
    groups := ⟨rfl, rfl⟩
    control := rfl
    others := rfl
    package := ⟨rfl, rfl⟩
    pending := ⟨rfl, rfl⟩
    context := rfl }

theorem flagsRaised_none (p : Bool) (s : State) : FlagsRaised 0 false p s s := by cases p <;> rfl

/-- FFLAGS with the bits `ff` set. -/
def withFlags (m : Mach) (ff : Nat) : Mach := if ff % 32 = 0 then m else m.setCsr 0x000 (m.csr 0x000 ||| dw (ff % 32))

theorem flagsRaised_inv {ff : Nat} {sat : Bool} {s t : State} (h : FlagsRaised ff sat false s t) :
    t = { s with m := if sat then (withFlags s.m ff).setCsr 0x001 ((withFlags s.m ff).csr 0x001 ||| 1) else withFlags s.m ff } :=
  modM_inv (f := fun m => if sat then (withFlags m ff).setCsr 0x001 ((withFlags m ff).csr 0x001 ||| 1) else withFlags m ff) h

/-- Raising flags writes FFLAGS when one of its bits is raised, and SATF when a lane saturated. -/
theorem FlagsRaised.same {ff : Nat} {sat p : Bool} {s t : State} (h : FlagsRaised ff sat p s t) {cr : List Nat} {qs : Nat → Prop}
    (h0 : ff % 32 = 0 ∨ 0x000 ∈ cr) (h1 : sat = false ∨ 0x001 ∈ cr) : SameBut s t [] [] [] cr qs := by
  cases p with
  | true => rw [(pure_inv h).2]; exact SameBut.refl _ _ _ _ _ _
  | false =>
    have hset : ∀ {u : State} {n : Nat} {v : Dword}, n ∈ cr → n < 2 → SameBut u { u with m := u.m.setCsr n v } [] [] [] cr qs :=
      fun hn hlt => (SameBut.of_setCsr (by unfold csrEINJC; omega)).mono (by simp) (by simp) (by simp) (by simpa using hn) fun _ => id
    rw [flagsRaised_inv h]
    have hff : SameBut s { s with m := withFlags s.m ff } [] [] [] cr qs := by
      unfold withFlags
      split
      · exact SameBut.refl _ _ _ _ _ _
      · next hne => exact hset (h0.resolve_left hne) (by omega)
    cases sat with
    | false => exact hff
    | true => exact hff.trans (hset (h1.resolve_left (by simp)) (by omega))

/-! ### The frame of a word, operation by operation -/

section
variable {s t u : State} {cr : List Nat} {qs : Nat → Prop}

/-- One more operation of a word, on the port that `r` may stand for. -/
theorem SameBut.andThen {sc : Bool} {r : Nat} {sr pr vr : List Nat} (h : SameBut s t [] [] [] cr qs)
    (g : SameBut t u sr pr vr [] (OnPort t sc r)) (hq : ∀ n, OnPort s sc r n → qs n) : SameBut s u sr pr vr cr qs := fun hs =>
  ((h hs).mono (by simp) (by simp) (by simp) (fun _ => id) fun _ => id).trans
    ((g (h hs).faultless).mono (fun _ => id) (fun _ => id) (fun _ => id) (by simp) fun n hn => hq n ((h hs).onPort hn))

theorem SameBut.readS {r : BitVec 6} {x : SReg} (h : SameBut s t [] [] [] cr qs) (g : ReadsS r t x u)
    (hq : ∀ n, OnPort s true r.toNat n → qs n) : SameBut s u [] [] [] cr qs := h.andThen (rdS_same g) hq

theorem SameBut.readV {r : BitVec 6} {x : RowP} (h : SameBut s t [] [] [] cr qs) (g : ReadsV r t x u)
    (hq : ∀ n, OnPort s false r.toNat n → qs n) : SameBut s u [] [] [] cr qs := h.andThen (rdV_same g) hq

theorem SameBut.readOld {r : BitVec 6} {x : RowP} (h : SameBut s t [] [] [] cr qs) (g : ReadsOld r t x u)
    (hq : ∀ n, OnPort s false r.toNat n → qs n) : SameBut s u [] [] [] cr qs := by
  unfold ReadsOld rdOldV at g
  split at g
  · rw [(pure_inv g).2]; exact h
  · exact h.andThen (rdV_same g) hq

theorem SameBut.raise {ff : Nat} {sat p : Bool} (h : SameBut s t [] [] [] cr qs) (g : FlagsRaised ff sat p t u)
    (h0 : ff % 32 = 0 ∨ 0x000 ∈ cr) (h1 : sat = false ∨ 0x001 ∈ cr) : SameBut s u [] [] [] cr qs := h.trans (g.same h0 h1)

theorem SameBut.writeS {r : BitVec 6} {x : SReg} {lat : Nat} (h : SameBut s t [] [] [] cr qs) (g : WritesS r x lat t u)
    (hq : ∀ n, OnPort s true r.toNat n → qs n) : SameBut s u [r.toNat] [] [] cr qs := h.andThen (wrS_same g) hq

/-- The row that is written is the one that the destination named before the word. -/
theorem SameBut.writeV {r : BitVec 6} {x : RowP} {lat : Nat} (h : SameBut s t [] [] [] cr qs) (g : WritesV r x lat t u)
    (hq : ∀ n, OnPort s false r.toNat n → qs n) (hcr : ∀ n ∈ cr, n < 0x010) : SameBut s u [] [] (dstRow r s) cr qs := fun hs => by
  have hrow : t.old.rowOf r.toNat = s.old.rowOf r.toNat :=
    rowOf_congr (fun n hn => (h hs).old_csr fun hc => absurd (hcr n hc) (by omega)) _
  have hw := wrV_same g
  rw [hrow] at hw
  exact h.andThen hw hq hs

end

end Sys2Proof.Safety

namespace Sys2Proof.Machine

open Sys2Proof.Safety

/-! ### How a word of rows runs (R380, R381) -/

theorem toRow_ok {d lat : Nat} {e : Exec RowP} {x : RowP} {s s1 t : State} (he : e s = .ok (x, s1)) (hw : wrV d x lat s1 = .ok ((), t)) :
    toRow d lat e s = .ok ((), t) := orLate_ok ((bind_ok he).trans hw)

theorem toScalar_ok {d lat : Nat} {e : Exec SReg} {x : SReg} {s s1 t : State} (he : e s = .ok (x, s1))
    (hw : wrS d x lat s1 = .ok ((), t)) : toScalar d lat e s = .ok ((), t) := orLate_ok ((bind_ok he).trans hw)

/-- A trap in the place of a late operand stays one. -/
theorem orLate_trap {body late : Exec Unit} {s : State} {c : Nat} {v : Dword} (h : body s = .error (.trap c v)) :
    orLate body late s = .error (.trap c v) := by simp [orLate, h]

theorem elemType_ok (i : BitVec 6) (s : State) : elemType (fld i) s = .ok (typeOf i s, s) := rfl
theorem readFrm_ok (s : State) : readFrm s = .ok (frmOf s, s) := rfl

theorem rdCount_ok {r : BitVec 6} {s t : State} {v : Dword} (h : ReadsC r s v t) : rdCount (fld r) s = .ok (v, t) := by
  unfold rdCount; rw [rdClean_ok h]

theorem rdS_wordBits {r : Nat} {s t : State} {x : SReg} (h : rdS r s = .ok (x, t)) : t.wordBits = s.wordBits := by
  unfold State.wordBits; rw [rdS_bundle h]

/-- A poisoned count raises the poison trap (R301). -/
theorem rdCount_poisoned {r : BitVec 6} {s t : State} {v : Dword} (h : ReadsS r s ⟨v, true⟩ t) :
    rdCount (fld r) s = .error (.trap 0x04 s.wordBits) := by
  have hclean : rdClean (fld r) s = .error (.trap 0x04 s.wordBits) := by
    unfold rdClean
    rw [bind_ok h, ← rdS_wordBits h]
    exact bind_error (needWord_false 0x04 t)
  unfold rdCount; rw [hclean]

theorem laneOut_ok {t : Nat} {p : Bool} {xs : List (Nat × Nat × Bool)} {s s' : State}
    (h : FlagsRaised (gather xs).ff (gather xs).sat p s s') : laneOut t p xs s = .ok (⟨rowOf (typeWidth t) (gather xs).v, p⟩, s') := by
  unfold laneOut
  rw [bind_ok (show laneFlags (gather xs) p s = .ok ((), s') from h)]
  rfl

section
variable {s s1 s2 s3 s4 t : State} {d a b : BitVec 6} {x y o z : RowP} {lat : Nat}

theorem vUn_ok {f : Nat → FCtl → Nat → Nat × Nat × Bool} (hx : ReadsV a s x s1)
    (hl : laneOut (typeOf d s) x.p ((lanesBy (widthOf d s) x).map (f (typeOf d s) (frmOf s))) s1 = .ok (z, s2))
    (hw : WritesV d z lat s2 t) : vUn (fld d) (fld a) lat f s = .ok ((), t) := by
  refine toRow_ok (x := z) (s1 := s2) ?_ hw
  rw [bind_ok (elemType_ok d s), bind_ok (readFrm_ok s), bind_ok hx]
  exact hl

theorem vBin_ok {f : Nat → FCtl → Nat → Nat → Nat × Nat × Bool} (hx : ReadsV a s x s1) (hy : ReadsV b s1 y s2)
    (hl : laneOut (typeOf d s) (x.p || y.p)
      (List.zipWith (f (typeOf d s) (frmOf s)) (lanesBy (widthOf d s) x) (lanesBy (widthOf d s) y)) s2 = .ok (z, s3))
    (hw : WritesV d z lat s3 t) : vBin (fld d) (fld a) (fld b) lat f s = .ok ((), t) := by
  refine toRow_ok (x := z) (s1 := s3) ?_ hw
  rw [bind_ok (elemType_ok d s), bind_ok (readFrm_ok s), bind_ok hx, bind_ok hy]
  exact hl

theorem vTri_ok {f : Nat → FCtl → Nat → Nat → Nat → Nat × Nat × Bool} (hx : ReadsV a s x s1) (hy : ReadsV b s1 y s2)
    (ho : ReadsOld d s2 o s3)
    (hl : laneOut (typeOf d s) (x.p || y.p || o.p)
      ((((lanesBy (widthOf d s) x).zip (lanesBy (widthOf d s) y)).zip (lanesBy (widthOf d s) o)).map fun l =>
        f (typeOf d s) (frmOf s) l.1.1 l.1.2 l.2) s3 = .ok (z, s4))
    (hw : WritesV d z lat s4 t) : vTri (fld d) (fld a) (fld b) lat f s = .ok ((), t) := by
  refine toRow_ok (x := z) (s1 := s4) ?_ hw
  rw [bind_ok (elemType_ok d s), bind_ok (readFrm_ok s), bind_ok hx, bind_ok hy, bind_ok ho]
  rw [List.map_zip_eq_zipWith] at hl
  exact hl

theorem vBits_ok {f : Row → Row → Row} (hx : ReadsV a s x s1) (hy : ReadsV b s1 y s2)
    (hw : WritesV d ⟨f x.v y.v, x.p || y.p⟩ 1 s2 t) : vBits (fld d) (fld a) (fld b) f s = .ok ((), t) := by
  refine toRow_ok (s1 := s2) ?_ hw
  rw [bind_ok hx, bind_ok hy]
  rfl

/-- Engine F is not busy (R381). -/
theorem needF_ok (h : FreeF s) : needF s = .ok ((), s) := by
  unfold needF
  rw [bind_ok (by rfl : getOld s = .ok (s.old, s)), if_neg (Nat.not_lt.mpr h)]
  rfl

end

/-! ### Integer lanes (R290, R297, R382-R388) -/

theorem packLanes_mod (w : Nat) (xs : List Nat) : packLanes w (xs.map (· % 2 ^ w)) = packLanes w xs := by
  induction xs with
  | nil => rfl
  | cons x xs ih => simp only [List.map_cons, packLanes, Nat.mod_mod, ih]

/-- A row holds the low bits of its lanes. -/
theorem rowOf_mod (w : Nat) (xs : List Nat) : rowOf w (xs.map (· % 2 ^ w)) = rowOf w xs := by unfold rowOf; rw [packLanes_mod]
theorem rowOf_congr_mod {ι : Type} {w : Nat} {l : List ι} {f g : ι → Nat} (h : ∀ i ∈ l, f i % 2 ^ w = g i % 2 ^ w) :
    rowOf w (l.map f) = rowOf w (l.map g) := by
  rw [← rowOf_mod w (l.map f), ← rowOf_mod w (l.map g), List.map_map, List.map_map]
  exact congrArg _ (List.map_congr_left h)

/-- The signed value of a lane of `w` bits. -/
theorem sext_eq_toInt {w : Nat} (hw : 0 < w) (v : Nat) : sext w v = (BitVec.ofNat w v).toInt := by
  rw [← sext_toInt _ hw, BitVec.toNat_ofNat]
  unfold sext
  rw [Nat.mod_mod]

theorem sext_emod (w v : Nat) : sext w v % 2 ^ w = (v : Int) % 2 ^ w := by
  unfold sext
  dsimp only
  split
  · next hw => simp [hw]
  · split
    · simp
    · rw [Int.sub_emod]; simp

theorem laneInt_emod (t x : Nat) : laneInt t x % 2 ^ typeWidth t = (x : Int) % 2 ^ typeWidth t := by
  unfold laneInt
  split
  · exact sext_emod _ _
  · simp

theorem wrapN_eq (w : Nat) (z : Int) : wrapN w z = (z % 2 ^ w).toNat := by unfold wrapN; push_cast; rfl

theorem wrapN_cast (w : Nat) (z : Int) : (wrapN w z : Int) = z % 2 ^ w := by
  rw [wrapN_eq, Int.toNat_of_nonneg (Int.emod_nonneg _ (Int.pow_ne_zero (by decide)))]

/-- A lane result without flags whose low `w` bits are those of the integer `z`. -/
def Wraps (w : Nat) (l : Nat × Nat × Bool) (z : Int) : Prop := l.2 = (0, false) ∧ (l.1 : Int) % 2 ^ w = z % 2 ^ w

theorem wraps_plain {w x : Nat} {z : Int} (h : (x : Int) % 2 ^ w = z % 2 ^ w) : Wraps w (plain x) z := ⟨rfl, h⟩
theorem wraps_wrapLane (t : Nat) (z : Int) : Wraps (typeWidth t) (wrapLane t z) z :=
  wraps_plain (by rw [wrapN_cast, Int.emod_emod])

theorem Wraps.toNat {w : Nat} {l : Nat × Nat × Bool} {z : Int} (h : Wraps w l z) : l.1 % 2 ^ w = (z % 2 ^ w).toNat % 2 ^ w := by
  have hz : ((l.1 % 2 ^ w : Nat) : Int) = z % 2 ^ w := by rw [← h.2]; push_cast; rfl
  rw [← hz, Int.toNat_natCast, Nat.mod_mod]

section
variable {ι : Type} {l : List ι} {f : ι → Nat × Nat × Bool}

theorem gather_v (l : List ι) (f : ι → Nat × Nat × Bool) : (gather (l.map f)).v = l.map fun i => (f i).1 := List.map_map

theorem gather_ff (h : ∀ i ∈ l, (f i).2.1 = 0) : (gather (l.map f)).ff = 0 := by
  have hfold : ∀ l' : List ι, (∀ i ∈ l', (f i).2.1 = 0) → (l'.map f).foldl (fun k x => k ||| x.2.1) 0 = 0 := by
    intro l' h'
    induction l' with
    | nil => rfl
    | cons i l' ih =>
      rw [List.map_cons, List.foldl_cons, h' i (List.mem_cons_self ..), Nat.or_self]
      exact ih fun j hj => h' j (List.mem_cons_of_mem _ hj)
  exact hfold l h

theorem gather_sat (h : ∀ i ∈ l, (f i).2.2 = false) : (gather (l.map f)).sat = false := by
  simpa [gather] using h

/-- Integer lanes: the row of the wrapped integers, and no flag. -/
theorem laneOut_int {t : Nat} {g : ι → Int} (h : ∀ i ∈ l, Wraps (typeWidth t) (f i) (g i)) (p : Bool) (s : State) :
    laneOut t p (l.map f) s = .ok (⟨intRow (typeWidth t) (l.map g), p⟩, s) := by
  have hff := gather_ff fun i hi => congrArg Prod.fst (h i hi).1
  have hsat := gather_sat fun i hi => congrArg Prod.snd (h i hi).1
  rw [laneOut_ok (s' := s) (by rw [hff, hsat]; exact flagsRaised_none p s), gather_v, intRow, List.map_map,
    rowOf_congr_mod fun i hi => (h i hi).toNat]
  rfl

/-- Lane results without flags. -/
theorem laneOut_plain {t : Nat} (g : ι → Nat) (p : Bool) (s : State) :
    laneOut t p (l.map fun i => plain (g i)) s = .ok (⟨rowOf (typeWidth t) (l.map g), p⟩, s) := by
  rw [laneOut_ok (s' := s) (by rw [gather_ff fun _ _ => rfl, gather_sat fun _ _ => rfl]; exact flagsRaised_none p s), gather_v]
  rfl

/-- Floating-point lanes: the row of the rounded lanes, and the OR of their flags. -/
theorem laneOut_flagged {t : Nat} {p : Bool} {s s' : State} {rs : List (Nat × Nat)} (h : FlagsRaised (orAll rs) false p s s') :
    laneOut t p (rs.map flagged) s = .ok (⟨rowOf (typeWidth t) (rs.map Prod.fst), p⟩, s') := by
  have hff : (gather (rs.map flagged)).ff = orAll rs := List.foldl_map
  rw [laneOut_ok (s' := s') (by rw [hff, gather_sat fun _ _ => rfl]; exact h), gather_v]
  rfl

end

/-- Words of two rows: the same lane by lane. -/
theorem laneOut_int_zip {t : Nat} {f : Nat → Nat → Nat × Nat × Bool} {g : Nat → Nat → Int}
    (h : ∀ i j, Wraps (typeWidth t) (f i j) (g i j)) (xs ys : List Nat) (p : Bool) (s : State) :
    laneOut t p (List.zipWith f xs ys) s = .ok (⟨intRow (typeWidth t) (List.zipWith g xs ys), p⟩, s) := by
  rw [← List.map_uncurry_zip_eq_zipWith, ← List.map_uncurry_zip_eq_zipWith]
  exact laneOut_int (fun i _ => h i.1 i.2) p s

end Sys2Proof.Machine
end

section
/-!
SUPPORT. Words of two and three source rows (16 R380-R383, R388, R389, R400).
-/
namespace Sys2Proof.Machine

open Sys2Proof.Safety

/-! ### Lanes of an integer type and of a floating-point type (R379) -/

theorem isInt_cases {t : Nat} (h : isInt t = true) : t = 0 ∨ t = 1 ∨ t = 2 ∨ t = 11 ∨ t = 12 ∨ t = 13 := by
  simpa only [isInt, Bool.or_eq_true, beq_iff_eq, or_assoc] using h
theorem isFl_cases {t : Nat} (h : isFl t = true) : t = 4 ∨ t = 5 ∨ t = 6 ∨ t = 7 ∨ t = 8 ∨ t = 9 := by
  simp only [isFl, Bool.and_eq_true, decide_eq_true_eq] at h
  omega

theorem isFl_of_isInt {t : Nat} (h : isInt t = true) : isFl t = false := by
  rcases isInt_cases h with rfl | rfl | rfl | rfl | rfl | rfl <;> rfl

theorem typeWidth_pos {t : Nat} (h : isInt t = true ∨ isFl t = true) : 0 < typeWidth t := by
  rcases h with h | h
  · rcases isInt_cases h with rfl | rfl | rfl | rfl | rfl | rfl <;> decide
  · rcases isFl_cases h with rfl | rfl | rfl | rfl | rfl | rfl <;> decide

section
variable {t : Nat}

theorem addLane_int (h : isInt t = true) (c : FCtl) (x y : Nat) : Wraps (typeWidth t) (addLane t c x y) (x + y) := by
  unfold addLane; rw [isFl_of_isInt h]; exact wraps_wrapLane t _
theorem subLane_int (h : isInt t = true) (c : FCtl) (x y : Nat) : Wraps (typeWidth t) (subLane t c x y) ((x : Int) - y) := by
  unfold subLane; rw [isFl_of_isInt h]; exact wraps_wrapLane t _
theorem mulLane_int (h : isInt t = true) (c : FCtl) (x y : Nat) : Wraps (typeWidth t) (mulLane t c x y) (x * y) := by
  unfold mulLane; rw [isFl_of_isInt h]; exact wraps_wrapLane t _

theorem fmaLane_int (h : isInt t = true) (sub : Bool) (c : FCtl) (x y o : Nat) :
    Wraps (typeWidth t) (fmaLane sub t c x y o) (o + (if sub then -1 else 1) * (x * y)) := by
  unfold fmaLane
  rw [isFl_of_isInt h]
  cases sub with
  | true => simpa [← Int.sub_eq_add_neg] using wraps_wrapLane t ((o : Int) - x * y)
  | false => simpa using wraps_wrapLane t ((o : Int) + x * y)

/-- VMIN and VMAX answer one of the two lanes: the lesser or the greater as numbers of the type. -/
theorem minMaxLane_int (h : isInt t = true) (mx : Bool) (c : FCtl) (x y : Nat) :
    Wraps (typeWidth t) (minMaxLane mx t c x y)
      (if mx then max (laneInt t x) (laneInt t y) else min (laneInt t x) (laneInt t y)) := by
  unfold minMaxLane
  rw [isFl_of_isInt h]
  refine wraps_plain ?_
  cases mx with
  | true =>
    by_cases hlt : laneInt t x < laneInt t y
    · simp [hlt, Int.max_eq_right (Int.le_of_lt hlt), laneInt_emod]
    · simp [hlt, Int.max_eq_left (Int.not_lt.mp hlt), laneInt_emod]
  | false =>
    by_cases hlt : laneInt t x < laneInt t y
    · simp [hlt, Int.min_eq_left (Int.le_of_lt hlt), laneInt_emod]
    · simp [hlt, Int.min_eq_right (Int.not_lt.mp hlt), laneInt_emod]

theorem cmpLane_int (h : isInt t = true) (c : FCtl) (x y : Nat) :
    Wraps (typeWidth t) (cmpLane t c x y) (if laneInt t x < laneInt t y then 1 else if laneInt t x = laneInt t y then 2 else 4) := by
  unfold cmpLane
  rw [isFl_of_isInt h]
  refine wraps_plain (congrArg (· % _) ?_)
  rcases Int.lt_trichotomy (laneInt t x) (laneInt t y) with hlt | heq | hgt
  · simp [hlt]
  · simp [heq]
  · simp [hgt, Int.not_lt.mpr (Int.le_of_lt hgt), Int.ne_of_gt hgt]

theorem cmpLane_fl (h : isFl t = true) (c : FCtl) (x y : Nat) :
    cmpLane t c x y = flagged (if (unpack t x).isNaN ∨ (unpack t y).isNaN then (8, flagNV)
      else if flLt false (unpack t x) (unpack t y) then (1, 0) else if flLt false (unpack t y) (unpack t x) then (4, 0) else (2, 0)) := by
  unfold cmpLane
  rw [if_pos h]
  by_cases hn : (unpack t x).isNaN ∨ (unpack t y).isNaN
  · rw [if_pos hn]
    exact if_pos (by simpa using hn)
  · rw [if_neg hn]
    dsimp only
    rw [if_neg (by simpa using hn)]
    split
    · rfl
    · split <;> rfl

end

/-! ### The words -/

/-- The words of R382, R383 and R388 on integer lanes: each is a word of two rows whose lanes wrap the exact result. -/
theorem vInt2Of_exec {d a b : BitVec 6} {i : Instr} {lat : Nat} {f : Nat → Nat → Nat → Int} (h : (i, lat, f) ∈ vInt2Of d a b) :
    ∃ g, (∀ s, exec i s = word i (vBin (fld d) (fld a) (fld b) lat g) s) ∧
      ∀ t c x y, isInt t = true → Wraps (typeWidth t) (g t c x y) (f t x y) := by
  simp only [vInt2Of, List.mem_cons, Prod.mk.injEq, List.not_mem_nil, or_false] at h
  rcases h with ⟨rfl, rfl, rfl⟩ | ⟨rfl, rfl, rfl⟩ | ⟨rfl, rfl, rfl⟩ | ⟨rfl, rfl, rfl⟩ | ⟨rfl, rfl, rfl⟩ | ⟨rfl, rfl, rfl⟩
  · exact ⟨addLane, fun _ => rfl, fun t c x y ht => addLane_int ht c x y⟩
  · exact ⟨subLane, fun _ => rfl, fun t c x y ht => subLane_int ht c x y⟩
  · exact ⟨mulLane, fun _ => rfl, fun t c x y ht => mulLane_int ht c x y⟩
  · exact ⟨minMaxLane false, fun _ => rfl, fun t c x y ht => minMaxLane_int ht false c x y⟩
  · exact ⟨minMaxLane true, fun _ => rfl, fun t c x y ht => minMaxLane_int ht true c x y⟩
  · exact ⟨cmpLane, fun _ => rfl, fun t c x y ht => cmpLane_int ht c x y⟩

/-- The same words and FSCALE on floating-point lanes: FSCALE needs engine F, then each is a word of two rows. -/
theorem vFl2Of_exec {d a b : BitVec 6} {i : Instr} {lat : Nat} {f : Nat → FCtl → Nat → Nat → Nat × Nat}
    (h : (i, lat, f) ∈ vFl2Of d a b) :
    ∃ e g, (∀ s, exec i s = word i e s) ∧ (∀ s, (i = .fscale d a b → FreeF s) → e s = vBin (fld d) (fld a) (fld b) lat g s) ∧
      ∀ t c x y, isFl t = true → g t c x y = flagged (f t c x y) := by
  simp only [vFl2Of, List.mem_cons, Prod.mk.injEq, List.not_mem_nil, or_false] at h
  rcases h with ⟨rfl, rfl, rfl⟩ | ⟨rfl, rfl, rfl⟩ | ⟨rfl, rfl, rfl⟩ | ⟨rfl, rfl, rfl⟩ | ⟨rfl, rfl, rfl⟩ | ⟨rfl, rfl, rfl⟩ | ⟨rfl, rfl, rfl⟩
  · exact ⟨_, addLane, fun _ => rfl, fun _ _ => rfl, fun t c x y ht => if_pos ht⟩
  · exact ⟨_, subLane, fun _ => rfl, fun _ _ => rfl, fun t c x y ht => if_pos ht⟩
  · exact ⟨_, mulLane, fun _ => rfl, fun _ _ => rfl, fun t c x y ht => if_pos ht⟩
  · exact ⟨_, minMaxLane false, fun _ => rfl, fun _ _ => rfl, fun t c x y ht => if_pos ht⟩
  · exact ⟨_, minMaxLane true, fun _ => rfl, fun _ _ => rfl, fun t c x y ht => if_pos ht⟩
  · exact ⟨_, cmpLane, fun _ => rfl, fun _ _ => rfl, fun t c x y ht => cmpLane_fl ht c x y⟩
  · exact ⟨_, _, fun _ => rfl, fun s hF => bind_ok (needF_ok (hF rfl)),
      fun t c x y ht => by rw [sext_eq_toInt (typeWidth_pos (.inr ht))]⟩

/-- VFMA and VFMS (R382). -/
theorem fma_exec {d a b : BitVec 6} {i : Instr} {sub : Bool} (h : (i, sub) ∈ [(Instr.vfma d a b, false), (.vfms d a b, true)]) (s : State) :
    exec i s = word i (vTri (fld d) (fld a) (fld b) 4 (fmaLane sub)) s := by
  simp only [List.mem_cons, Prod.mk.injEq, List.not_mem_nil, or_false] at h
  rcases h with ⟨rfl, rfl⟩ | ⟨rfl, rfl⟩ <;> rfl

theorem vsel_exec (d a b : BitVec 6) (s : State) : exec (.vsel d a b) s =
    word (.vsel d a b) (vTri (fld d) (fld a) (fld b) 1 fun _ _ x y o => plain (if o = 0 then y else x)) s := rfl

/-- Settles O31: the words of two and three rows run as `vBin` and `vTri`; their lanes are those of the lemmas above. -/
theorem rowArithmeticWords : Obligations.RowArithmeticWords := by
  refine ⟨⟨?int, ?float⟩, ?three⟩
  case int =>
    intro s s1 s2 t d a b x y i lat f hi hl _ hty hx hy w hw
    obtain ⟨g, hexec, hlane⟩ := vInt2Of_exec hi
    refine ⟨(hexec s).trans (word_ok hl (vBin_ok hx hy (laneOut_int_zip (fun _ _ => hlane _ _ _ _ hty) _ _ _ _) hw)), ?_⟩
    exact (((SameBut.refl s [] [] [] [] _).readV hx fun _ => .inl).readV hy fun _ h => .inr (.inl h)).writeV hw
      (fun _ h => .inr (.inr h)) (by simp)
  case float =>
    intro s s1 s2 s3 t d a b x y i lat f hi hl _ hty hF hx hy w rs hf hw
    obtain ⟨e, g, hexec, hrun, hlane⟩ := vFl2Of_exec hi
    have hrs : List.zipWith (g (typeOf d s) (frmOf s)) (lanesBy w x) (lanesBy w y) = rs.map flagged := by
      rw [List.map_zipWith]
      exact congrArg (fun k => List.zipWith k _ _) (funext fun _ => funext fun _ => hlane _ _ _ _ hty)
    have hout := laneOut_flagged (t := typeOf d s) hf
    rw [← hrs] at hout
    refine ⟨(hexec s).trans (word_ok hl ((hrun s hF).trans (vBin_ok hx hy hout hw))), ?_⟩
    exact ((((SameBut.refl s [] [] [] _ _).readV hx fun _ => .inl).readV hy fun _ h => .inr (.inl h)).raise hf (by simp)
      (by simp)).writeV hw (fun _ h => .inr (.inr h)) (by simp)
  case three =>
    intro s s1 s2 s3 d a b x y o _ hx hy ho w p port ls
    have hframe : ∀ cr, SameBut s s3 [] [] [] cr port := fun cr =>
      (((SameBut.refl s [] [] [] cr port).readV hx fun _ => .inl).readV hy fun _ h => .inr (.inl h)).readOld ho
        fun _ h => .inr (.inr h)
    refine ⟨?fmaInt, ?fmaFloat, ?select⟩
    case fmaInt =>
      intro i sub t hi hl hty hw
      refine ⟨(fma_exec hi s).trans (word_ok hl (vTri_ok hx hy ho (laneOut_int (fun l _ => fmaLane_int hty sub _ _ _ _) _ _) hw)), ?_⟩
      exact (hframe []).writeV hw (fun _ h => .inr (.inr h)) (by simp)
    case fmaFloat =>
      intro i sub s4 t hi hl hty rs hf hw
      have hrs : (ls.map fun l => fmaLane sub (typeOf d s) (frmOf s) l.1.1 l.1.2 l.2) = rs.map flagged := by
        rw [List.map_map]
        exact List.map_congr_left fun _ _ => if_pos hty
      have hout := laneOut_flagged (t := typeOf d s) hf
      rw [← hrs] at hout
      refine ⟨(fma_exec hi s).trans (word_ok hl (vTri_ok hx hy ho hout hw)), ?_⟩
      exact ((hframe _).raise hf (by simp) (by simp)).writeV hw (fun _ h => .inr (.inr h)) (by simp)
    case select =>
      intro t hl hw
      have hout := laneOut_plain (t := typeOf d s) (l := ls) (fun l => if l.2 = 0 then l.1.2 else l.1.1) p s3
      refine ⟨(vsel_exec d a b s).trans (word_ok hl (vTri_ok hx hy ho hout hw)), ?_⟩
      exact (hframe []).writeV hw (fun _ h => .inr (.inr h)) (by simp)

end Sys2Proof.Machine
end

section
/-!
SUPPORT. Words of one source row, bitwise words, shifts and fills (16 R384-R387, R390, R399, R401).
-/
namespace Sys2Proof.Machine

open Sys2Proof.Safety

/-! ### Lanes -/

theorem floorShift_eq (x : Int) (k : Nat) : floorShift x k = x / 2 ^ k := by
  unfold floorShift
  rw [Int.fdiv_eq_ediv_of_nonneg _ (Int.natCast_nonneg _)]
  push_cast
  rfl

/-- Rnd of R387: half of the last place, then the floor. -/
theorem rndShift_eq (x : Int) (k : Nat) : rndShift x k = (x + if k = 0 then 0 else 2 ^ (k - 1)) / 2 ^ k := by
  have hhalf : ((if k = 0 then 0 else 2 ^ (k - 1) : Nat) : Int) = if k = 0 then 0 else 2 ^ (k - 1) := by
    split
    · rfl
    · exact Int.natCast_pow 2 _
  unfold rndShift
  rw [floorShift_eq, hhalf]

section
variable {t : Nat}

theorem signLane_abs_int (h : isInt t = true) (c : FCtl) (x : Nat) : Wraps (typeWidth t) (signLane false t c x) (laneInt t x).natAbs := by
  unfold signLane; rw [isFl_of_isInt h]; exact wraps_wrapLane t _
theorem signLane_neg_int (h : isInt t = true) (c : FCtl) (x : Nat) : Wraps (typeWidth t) (signLane true t c x) (-x) := by
  unfold signLane; rw [isFl_of_isInt h]; exact wraps_wrapLane t _
theorem shlLane_int (k : Nat) (c : FCtl) (x : Nat) : Wraps (typeWidth t) (shlLane k t c x) (x * 2 ^ k) :=
  wraps_plain (by push_cast; exact Int.emod_emod ..)
theorem shrLane_int (k : Nat) (c : FCtl) (x : Nat) : Wraps (typeWidth t) (shrLane k t c x) (x / 2 ^ k) := wraps_plain (by push_cast; rfl)
theorem sraLane_int (h : isInt t = true) (k : Nat) (c : FCtl) (x : Nat) :
    Wraps (typeWidth t) (sraLane k t c x) ((BitVec.ofNat (typeWidth t) x).toInt / 2 ^ k) := by
  unfold sraLane
  rw [sext_eq_toInt (typeWidth_pos (.inl h)), floorShift_eq]
  exact wraps_wrapLane t _

theorem typeMin_le_typeMax (t : Nat) : typeMin t ≤ typeMax t := by
  have h1 : (0 : Int) < ((2 ^ (typeWidth t - 1) : Nat) : Int) := Int.natCast_pos.mpr (Nat.two_pow_pos _)
  have h2 : (0 : Int) < ((2 ^ typeWidth t : Nat) : Int) := Int.natCast_pos.mpr (Nat.two_pow_pos _)
  unfold typeMin typeMax
  split <;> omega

/-- A saturating fit is the low bits of the clamped number, and raises SAT outside the range (R297). -/
theorem satT_eq (t : Nat) (v : Int) : satT t v = (wrapN (typeWidth t) (clamped t v), outside t v) := by
  have hle := typeMin_le_typeMax t
  unfold satT clamped outside
  by_cases hlo : v < typeMin t
  · rw [if_pos hlo, Int.min_eq_right (by omega), Int.max_eq_left (Int.le_of_lt hlo), decide_eq_true (.inl hlo)]
  · rw [if_neg hlo]
    by_cases hhi : typeMax t < v
    · rw [if_pos hhi, Int.min_eq_left (Int.le_of_lt hhi), Int.max_eq_right hle, decide_eq_true (.inr hhi)]
    · rw [if_neg hhi, Int.min_eq_right (Int.not_lt.mp hhi), Int.max_eq_right (Int.not_lt.mp hlo), decide_eq_false (by simp [hlo, hhi])]

end

/-- Saturating lanes: the row of the clamped numbers, and SATF when one lay outside. -/
theorem laneOut_sat {ι : Type} {l : List ι} {v : ι → Int} {t : Nat} {p : Bool} {s s' : State}
    (h : FlagsRaised 0 ((l.map v).any (outside t)) p s s') :
    laneOut t p (l.map fun i => ((satT t (v i)).1, 0, (satT t (v i)).2)) s =
      .ok (⟨intRow (typeWidth t) ((l.map v).map (clamped t)), p⟩, s') := by
  have hsat : (gather (l.map fun i => ((satT t (v i)).1, 0, (satT t (v i)).2))).sat = (l.map v).any (outside t) := by
    simp [gather, satT_eq, Function.comp_def]
  rw [laneOut_ok (s' := s') (by rw [gather_ff fun _ _ => rfl, hsat]; exact h), gather_v, intRow, List.map_map, List.map_map]
  simp only [satT_eq, wrapN_eq]
  rfl

/-! ### The words -/

/-- Words of one row on integer lanes: each is a word whose lanes wrap the exact result. -/
theorem vInt1Of_exec {d a k : BitVec 6} {i : Instr} {lat : Nat} {f : Nat → Nat → Int} (h : (i, lat, f) ∈ vInt1Of d a k) :
    ∃ g, (∀ s, exec i s = word i (vUn (fld d) (fld a) lat g) s) ∧
      ∀ t c x, isInt t = true → Wraps (typeWidth t) (g t c x) (f t x) := by
  simp only [vInt1Of, List.mem_cons, Prod.mk.injEq, List.not_mem_nil, or_false] at h
  rcases h with ⟨rfl, rfl, rfl⟩ | ⟨rfl, rfl, rfl⟩ | ⟨rfl, rfl, rfl⟩ | ⟨rfl, rfl, rfl⟩ | ⟨rfl, rfl, rfl⟩
  · exact ⟨signLane false, fun _ => rfl, fun t c x ht => signLane_abs_int ht c x⟩
  · exact ⟨signLane true, fun _ => rfl, fun t c x ht => signLane_neg_int ht c x⟩
  · exact ⟨shlLane (fld k), fun _ => rfl, fun t c x _ => shlLane_int _ c x⟩
  · exact ⟨shrLane (fld k), fun _ => rfl, fun t c x _ => shrLane_int _ c x⟩
  · exact ⟨sraLane (fld k), fun _ => rfl, fun t c x ht => sraLane_int ht _ c x⟩

section
variable {s : State} {d a : BitVec 6}

/-- A special function on engine F (R399). -/
theorem specWord_eq {f : SpecFn} (hF : FreeF s) :
    specWord (fld d) (fld a) f s = vUn (fld d) (fld a) 12 (fun t _ x => flagged (laneSpecial f t x)) s := bind_ok (needF_ok hF)

/-- Reciprocals and roots on 16 and 32 bits. -/
theorem rootWord_eq {f : Nat → FCtl → Nat → Nat × Nat} (hF : FreeF s) (h9 : typeOf d s ≠ 9) :
    rootWord (fld d) (fld a) f s = vUn (fld d) (fld a) 12 (fun t c x => flagged (f t c x)) s := by
  unfold rootWord
  rw [bind_ok (needF_ok hF), bind_ok (elemType_ok d s), if_neg h9, if_neg h9]

/-- On FP64 the engine is busy for 4 cycles, and the result comes in 24 (R381, R399). -/
def busyF (s : State) : State := { s with m := s.m.modCtl fun c => { c with rdy := SMap.set (fun _ => 0) c.rdy rdyF (c.cyc + 4) } }
theorem rootWord_fp64 {f : Nat → FCtl → Nat → Nat × Nat} (hF : FreeF s) (h9 : typeOf d s = 9) :
    rootWord (fld d) (fld a) f s = vUn (fld d) (fld a) 24 (fun t c x => flagged (f t c x)) (busyF s) := by
  unfold rootWord
  rw [bind_ok (needF_ok hF), bind_ok (elemType_ok d s), if_pos h9, if_pos h9]
  rfl

theorem busyF_old (h : s.bundle ≠ none) : (busyF s).old = s.old := by
  unfold State.old busyF
  cases hb : s.bundle with
  | none => exact absurd hb h
  | some b => rfl

end

/-- Words of one row on floating-point lanes: those of engine F need it free, the roots also a type of at most 32 bits. -/
theorem vFl1Of_exec {d a : BitVec 6} {i : Instr} {lat : Nat} {f : Nat → FCtl → Nat → Nat × Nat} (h : (i, lat, f) ∈ vFl1Of d a) :
    ∃ e g, (∀ s, exec i s = word i e s) ∧
      (∀ s, (i ≠ .vabs d a → i ≠ .vneg d a → FreeF s) → ((i = .frcp d a ∨ i = .frsq d a ∨ i = .fsqrt d a) → typeOf d s ≠ 9) →
        e s = vUn (fld d) (fld a) lat g s) ∧
      ∀ t c x, isFl t = true → g t c x = flagged (f t c x) := by
  simp only [vFl1Of, List.mem_cons, Prod.mk.injEq, List.not_mem_nil, or_false] at h
  rcases h with ⟨rfl, rfl, rfl⟩ | ⟨rfl, rfl, rfl⟩ | ⟨rfl, rfl, rfl⟩ | ⟨rfl, rfl, rfl⟩ | ⟨rfl, rfl, rfl⟩ | ⟨rfl, rfl, rfl⟩ |
    ⟨rfl, rfl, rfl⟩ | ⟨rfl, rfl, rfl⟩ | ⟨rfl, rfl, rfl⟩ | ⟨rfl, rfl, rfl⟩ | ⟨rfl, rfl, rfl⟩
  · exact ⟨_, signLane false, fun _ => rfl, fun _ _ _ => rfl, fun t c x ht => if_pos ht⟩
  · exact ⟨_, signLane true, fun _ => rfl, fun _ _ _ => rfl, fun t c x ht => if_pos ht⟩
  · exact ⟨_, _, fun _ => rfl, fun _ hF _ => bind_ok (needF_ok (hF nofun nofun)), fun _ _ _ _ => rfl⟩
  · exact ⟨_, _, fun _ => rfl, fun _ hF _ => specWord_eq (hF nofun nofun), fun _ _ _ _ => rfl⟩
  · exact ⟨_, _, fun _ => rfl, fun _ hF _ => specWord_eq (hF nofun nofun), fun _ _ _ _ => rfl⟩
  · exact ⟨_, _, fun _ => rfl, fun _ hF _ => specWord_eq (hF nofun nofun), fun _ _ _ _ => rfl⟩
  · exact ⟨_, _, fun _ => rfl, fun _ hF _ => specWord_eq (hF nofun nofun), fun _ _ _ _ => rfl⟩
  · exact ⟨_, _, fun _ => rfl, fun _ hF _ => specWord_eq (hF nofun nofun), fun _ _ _ _ => rfl⟩
  · exact ⟨_, _, fun _ => rfl, fun _ hF h9 => rootWord_eq (hF nofun nofun) (h9 (.inl rfl)), fun _ _ _ _ => rfl⟩
  · exact ⟨_, _, fun _ => rfl, fun _ hF h9 => rootWord_eq (hF nofun nofun) (h9 (.inr (.inl rfl))), fun _ _ _ _ => rfl⟩
  · exact ⟨_, _, fun _ => rfl, fun _ hF h9 => rootWord_eq (hF nofun nofun) (h9 (.inr (.inr rfl))), fun _ _ _ _ => rfl⟩

theorem root_exec {d a : BitVec 6} {i : Instr} {f : Nat → FCtl → Nat → Nat × Nat}
    (h : (i, f) ∈ [(Instr.frcp d a, laneRcp), (.frsq d a, fun t _ => laneSpecial .rsq t), (.fsqrt d a, laneSqrt)]) (s : State) :
    exec i s = word i (rootWord (fld d) (fld a) f) s := by
  simp only [List.mem_cons, Prod.mk.injEq, List.not_mem_nil, or_false] at h
  rcases h with ⟨rfl, rfl⟩ | ⟨rfl, rfl⟩ | ⟨rfl, rfl⟩ <;> rfl

theorem vBits2Of_exec {d a b : BitVec 6} {i : Instr} {f : Row → Row → Row} (h : (i, f) ∈ vBits2Of d a b) (s : State) :
    exec i s = word i (vBits (fld d) (fld a) (fld b) f) s := by
  simp only [vBits2Of, List.mem_cons, Prod.mk.injEq, List.not_mem_nil, or_false] at h
  rcases h with ⟨rfl, rfl⟩ | ⟨rfl, rfl⟩ | ⟨rfl, rfl⟩ <;> rfl

/-- VMOV and VNOT. -/
theorem vMove_exec {s s1 t : State} {d a : BitVec 6} {x : RowP} {i : Instr} {v : Row}
    (h : (i, v) ∈ [(Instr.vmov d a, x.v), (.vnot d a, ~~~x.v)]) (hl : Legal i s) (hx : ReadsV a s x s1)
    (hw : WritesV d ⟨v, x.p⟩ 1 s1 t) : exec i s = .next t := by
  simp only [List.mem_cons, Prod.mk.injEq, List.not_mem_nil, or_false] at h
  rcases h with ⟨rfl, rfl⟩ | ⟨rfl, rfl⟩
  · exact word_ok hl (toRow_ok hx hw)
  · exact word_ok hl (toRow_ok (bind_ok hx) hw)

/-- VBCAST and VIOTA: each lane is the scalar, plus its number for VIOTA (R390). -/
theorem vFill_exec {s s1 t : State} {d a : BitVec 6} {x : SReg} {i : Instr} {step : Nat}
    (h : (i, step) ∈ [(Instr.vbcast d a, 0), (.viota d a, 1)]) (hl : Legal i s) (hx : ReadsS a s x s1)
    (hw : WritesV d ⟨rowOf (widthOf d s) ((List.range (2048 / widthOf d s)).map fun n => x.v.toNat + step * n), x.p⟩ 1 s1 t) :
    exec i s = .next t := by
  have hfill : ∀ iota : Bool, (∀ n, (if iota then x.v.toNat + n else x.v.toNat) = x.v.toNat + step * n) →
      vfillWord (fld d) (fld a) iota s = .ok ((), t) := by
    intro iota hiota
    refine toRow_ok (s1 := s1) ?_ hw
    rw [bind_ok (elemType_ok d s), bind_ok hx]
    simp only [hiota]
    rfl
  simp only [List.mem_cons, Prod.mk.injEq, List.not_mem_nil, or_false] at h
  rcases h with ⟨rfl, rfl⟩ | ⟨rfl, rfl⟩
  · exact word_ok hl (hfill false fun n => by simp)
  · exact word_ok hl (hfill true fun n => by simp)

/-! ### VRSHR (R387) -/

/-- Where the checks of step 3 pass, the word is well formed. -/
theorem wellFormed_of_legal {i : Instr} {s : State} (h : Legal i s) : i.wellFormed = true := by
  unfold Legal trap3 at h
  cases hw : i.wellFormed with
  | true => rfl
  | false => rw [hw] at h; exact absurd h (by simp)

theorem typeWidth_pos_of_signed {t : Nat} (h : isSigned t = true) : 0 < typeWidth t := by
  have ht : t = 0 ∨ t = 1 ∨ t = 2 ∨ t = 3 := by
    simp only [isSigned, decide_eq_true_eq] at h
    omega
  rcases ht with rfl | rfl | rfl | rfl <;> decide

/-- The second row of a pair. -/
theorem succ_toNat {a : BitVec 6} (h : a ≤ 58) : (a + 1).toNat = a.toNat + 1 := by bv_omega
theorem succ_not_onPort {a : BitVec 6} (h : a ≤ 58) {s : State} {sc : Bool} {n : Nat} : ¬OnPort s sc (a + 1).toNat n := fun hp => by
  have h60 := hp.1
  bv_omega

section
variable {s s1 s2 s3 t : State} {d a : BitVec 6} {k : BitVec 5} {x y : RowP}

theorem vrshr_row (hx : ReadsV a s x s1)
    (hw : WritesV d ⟨intRow (widthOf d s) ((lanesBy (widthOf d s) x).map fun v => rndShift (laneInt (typeOf d s) v) k.toNat), x.p⟩ 4 s1 t) :
    vrshrWord (fld d) (fld a) 0 (fld k) s = .ok ((), t) := by
  refine toRow_ok (s1 := s1) ?_ hw
  rw [bind_ok (elemType_ok d s), if_pos rfl, bind_ok hx]
  exact laneOut_int (fun v _ => wraps_wrapLane _ _) _ _

/-- The lanes of the pair, of twice the width, as numbers. -/
def pairVals (ty : Nat) (k : Nat) (x y : RowP) : List Int :=
  (lanesBy (2 * typeWidth ty) x ++ lanesBy (2 * typeWidth ty) y).map fun v =>
    rndShift (if isSigned ty then (BitVec.ofNat (2 * typeWidth ty) v).toInt else v) k

theorem vrshr_pair (ha : a ≤ 58) (hx : ReadsV a s x s1) (hy : ReadsV (a + 1) s1 y s2)
    (hf : FlagsRaised 0 ((pairVals (typeOf d s) k.toNat x y).any (outside (typeOf d s))) (x.p || y.p) s2 s3)
    (hw : WritesV d ⟨intRow (widthOf d s) ((pairVals (typeOf d s) k.toNat x y).map (clamped (typeOf d s))), x.p || y.p⟩ 4 s3 t) :
    vrshrWord (fld d) (fld a) 1 (fld k) s = .ok ((), t) := by
  have hval : ∀ v, (if isSigned (typeOf d s) then sext (2 * typeWidth (typeOf d s)) v else (v : Int)) =
      if isSigned (typeOf d s) then (BitVec.ofNat (2 * typeWidth (typeOf d s)) v).toInt else v := fun v => by
    split
    · next hsg => exact sext_eq_toInt (by have := typeWidth_pos_of_signed hsg; omega) v
    · rfl
  unfold ReadsV at hy
  rw [succ_toNat ha] at hy
  refine toRow_ok (s1 := s3) ?_ hw
  rw [bind_ok (elemType_ok d s), if_neg (by decide), bind_ok hx, bind_ok hy]
  simp only [hval]
  exact laneOut_sat hf

end

/-- Settles O32: the words of one row run as `vUn`, the others by the lemmas above. -/
theorem oneRowWords : Obligations.OneRowWords := by
  refine ⟨⟨?int, ?float, ?fp64, ?move, ?bitwise, ?zero, ?fill⟩, ?shift, ?shiftPair⟩
  case int =>
    intro s s1 t d a k x i lat f hi hl _ hty hx hw
    obtain ⟨g, hexec, hlane⟩ := vInt1Of_exec hi
    refine ⟨(hexec s).trans (word_ok hl (vUn_ok hx (laneOut_int (fun _ _ => hlane _ _ _ hty) _ _) hw)), ?_⟩
    exact ((SameBut.refl s [] [] [] [] _).readV hx fun _ => .inl).writeV hw (fun _ => .inr) (by simp)
  case float =>
    intro s s1 s2 t d a x i lat f hi hl _ hty hF h9 hx rs hf hw
    obtain ⟨e, g, hexec, hrun, hlane⟩ := vFl1Of_exec hi
    have hrs : (lanesBy (widthOf d s) x).map (g (typeOf d s) (frmOf s)) = rs.map flagged := by
      rw [List.map_map]
      exact List.map_congr_left fun _ _ => hlane _ _ _ hty
    have hout := laneOut_flagged (t := typeOf d s) hf
    rw [← hrs] at hout
    refine ⟨(hexec s).trans (word_ok hl ((hrun s hF h9).trans (vUn_ok hx hout hw))), ?_⟩
    exact (((SameBut.refl s [] [] [] _ _).readV hx fun _ => .inl).raise hf (by simp) (by simp)).writeV hw (fun _ => .inr) (by simp)
  case fp64 =>
    intro s s0 s1 s2 t d a x i f hi hl _ h9 hF hb h0 hx rs hf hw
    have hold : s0.old = s.old := by rw [h0]; exact busyF_old hb
    have hty : typeOf d s0 = 9 := by unfold typeOf; rw [hold]; exact h9
    have hfrm : frmOf s0 = frmOf s := by unfold frmOf; rw [hold]
    have hout := laneOut_flagged (t := 9) hf
    have hrs : rs.map flagged = (lanesBy (widthOf d s0) x).map fun v => flagged (f (typeOf d s0) (frmOf s0) v) := by
      rw [List.map_map]; unfold widthOf; rw [hty, hfrm]; rfl
    rw [hrs, ← hty] at hout
    have hrun : rootWord (fld d) (fld a) f s = .ok ((), t) := by
      rw [rootWord_fp64 hF h9, show busyF s = s0 from h0.symm]
      exact vUn_ok hx hout (by rw [hty]; exact hw)
    refine ⟨(root_exec hi s).trans (word_ok hl hrun), ?_⟩
    have hbusy : SameBut s s0 [] [] [] [0x000, 0x001] fun n => OnPort s false a.toNat n ∨ OnPort s false d.toNat n := by
      rw [h0]; exact SameBut.of_ctl fun _ => rfl
    exact ((hbusy.readV hx fun _ => .inl).raise hf (by simp) (by simp)).writeV hw (fun _ => .inr) (by simp)
  case move =>
    intro s s1 t d a x i v _ hi hl hx hw
    refine ⟨vMove_exec hi hl hx hw, ?_⟩
    exact ((SameBut.refl s [] [] [] [] _).readV hx fun _ => .inl).writeV hw (fun _ => .inr) (by simp)
  case bitwise =>
    intro s s1 s2 t d a b x y i f hi hl hx hy hw
    refine ⟨(vBits2Of_exec hi s).trans (word_ok hl (vBits_ok hx hy hw)), ?_⟩
    exact (((SameBut.refl s [] [] [] [] _).readV hx fun _ => .inl).readV hy fun _ h => .inr (.inl h)).writeV hw
      (fun _ h => .inr (.inr h)) (by simp)
  case zero =>
    intro s t d hl hw
    exact ⟨word_ok hl hw, (SameBut.refl s [] [] [] [] _).writeV hw (fun _ => id) (by simp)⟩
  case fill =>
    intro s s1 t d a x i step hi hl hx hw
    refine ⟨vFill_exec hi hl hx hw, ?_⟩
    exact ((SameBut.refl s [] [] [] [] _).readS hx fun _ => .inl).writeV hw (fun _ => .inr) (by simp)
  case shift =>
    intro s s1 t d a k x hl _ hx hw
    simp only [← rndShift_eq] at hw
    refine ⟨word_ok hl (vrshr_row hx hw), ?_⟩
    exact ((SameBut.refl s [] [] [] [] _).readV hx fun _ => .inl).writeV hw (fun _ => .inr) (by simp)
  case shiftPair =>
    intro s s1 s2 s3 t d a k x y hl _ hx hy ty w vs hf hw
    have hwf : decide ((1 : BitVec 1) = 0 ∨ a ≤ 58) = true := wellFormed_of_legal hl
    have ha : a ≤ 58 := (of_decide_eq_true hwf).resolve_left (by decide)
    have hvs : vs = pairVals ty k.toNat x y := by
      unfold pairVals; simp only [rndShift_eq]; rfl
    rw [hvs] at hf hw
    refine ⟨word_ok hl (vrshr_pair ha hx hy hf hw), ?_⟩
    exact ((((SameBut.refl s [] [] [] _ _).readV hx fun _ => .inl).readV hy fun _ h => absurd h (succ_not_onPort ha)).raise hf
      (by simp) (by simp)).writeV hw (fun _ => .inr) (by simp)

end Sys2Proof.Machine
end

section
/-!
SUPPORT. Words that move lanes (16 R390-R392).
-/
namespace Sys2Proof.Machine

open Sys2Proof.Safety

/-! ### Lanes -/

/-- A lane extended to a scalar by its type (R390); 64-bit lanes fill it. -/
theorem extLane_eq (t v : Nat) : (if isSigned t then dwInt (sext (typeWidth t) v) else dw v) =
    if t ≤ 2 then (BitVec.ofNat (typeWidth t) v).signExtend 64 else BitVec.ofNat 64 v := by
  by_cases hsg : isSigned t = true
  · rw [if_pos hsg, sext_eq_toInt (typeWidth_pos_of_signed hsg)]
    by_cases h2 : t ≤ 2
    · rw [if_pos h2]; rfl
    · have h3 : t ≤ 3 := by simpa [isSigned] using hsg
      obtain rfl : t = 3 := by omega
      rw [if_neg h2]
      exact BitVec.ofInt_toInt ..
  · have h2 : ¬t ≤ 2 := fun h => hsg (by simp only [isSigned, decide_eq_true_eq]; omega)
    rw [if_neg hsg, if_neg h2]
    rfl

/-- A replaced lane holds the low bits of its value. -/
theorem putLanes_eq (w : Nat) (o : RowP) (base v : Nat) : putLanes w o.v base [v % 2 ^ w] = laneSet w o base [v] := by
  unfold putLanes laneSet
  dsimp only
  rw [← rowOf_mod w (_ ++ _), ← rowOf_mod w (_ ++ _)]
  simp [lanesBy]

/-- The lanes of a slide: of the row, of its neighbour, or zero beyond the pair (R392). -/
theorem slideLanes_eq (n k : Nat) (up : Bool) (a f : List Nat) : slideLanes n k up a f = (List.range n).map (slidLane n up k a f) := by
  unfold slideLanes
  refine List.map_congr_left fun i hi => ?_
  have hin : i < n := List.mem_range.mp hi
  unfold slidLane
  simp only [List.getD_eq_getElem?_getD]
  cases up with
  | true =>
    simp only [if_true]
    by_cases hself : k ≤ i
    · rw [if_pos hself, if_pos (by omega), show ((i : Int) - k).toNat = i - k by omega]
    · by_cases hnext : k ≤ i + n
      · rw [if_neg hself, if_pos hnext, if_neg (by omega), if_neg (by omega), if_pos (by omega),
          show ((n : Int) + ((i : Int) - k)).toNat = n + i - k by omega]
      · rw [if_neg hself, if_neg hnext, if_neg (by omega), if_neg (by omega), if_neg (by omega)]
  | false =>
    simp only [Bool.false_eq_true, if_false]
    by_cases hself : i + k < n
    · rw [if_pos hself, if_pos (by omega), show ((i : Int) + k).toNat = i + k by omega]
    · by_cases hnext : i + k < 2 * n
      · rw [if_neg hself, if_pos hnext, if_neg (by omega), if_pos (by omega), show ((i : Int) + k - n).toNat = i + k - n by omega]
      · rw [if_neg hself, if_neg hnext, if_neg (by omega), if_neg (by omega), if_neg (by omega)]

/-! ### The words -/

section
variable {s s0 s1 s2 s3 t : State} {d a b : BitVec 6} {v : Dword}

theorem vext_ok {x : RowP} (hk : ReadsC b s v s1) (hx : ReadsV a s1 x s2)
    (hw : let u := laneAt (widthOf a s) x.v (v.toNat % 256 % (2048 / widthOf a s))
      WritesS d ⟨if typeOf a s ≤ 2 then (BitVec.ofNat (widthOf a s) u).signExtend 64 else BitVec.ofNat 64 u, x.p⟩ 3 s2 t) :
    vextWord (fld d) (fld a) (fld b) s = .ok ((), t) := by
  dsimp only [widthOf] at hw
  rw [← extLane_eq] at hw
  refine toScalar_ok (s1 := s2) ?_ hw
  rw [bind_ok (elemType_ok a s), bind_ok (rdCount_ok hk), bind_ok hx]
  rfl

theorem vins_ok {x : SReg} {o : RowP} (hk : ReadsC b s v s1) (hx : ReadsS a s1 x s2) (ho : ReadsOld d s2 o s3)
    (hw : WritesV d ⟨laneSet (widthOf d s) o (v.toNat % 256 % (2048 / widthOf d s)) [x.v.toNat], o.p || x.p⟩ 3 s3 t) :
    vinsWord (fld d) (fld a) (fld b) s = .ok ((), t) := by
  rw [← putLanes_eq] at hw
  refine toRow_ok (s1 := s3) ?_ hw
  rw [bind_ok (elemType_ok d s), bind_ok (rdCount_ok hk), bind_ok hx, bind_ok ho]
  rfl

theorem vperm_ok {x y : RowP} (hx : ReadsV a s x s1) (hy : ReadsV b s1 y s2)
    (hw : WritesV d ⟨rowOf (widthOf d s) ((lanesBy (widthOf d s) y).map fun i => (lanesBy (widthOf d s) x).getD i 0), x.p || y.p⟩ 3 s2 t) :
    vpermWord (fld d) (fld a) (fld b) s = .ok ((), t) := by
  refine toRow_ok (s1 := s2) ?_ hw
  rw [bind_ok (elemType_ok d s), bind_ok hx, bind_ok hy]
  simp only [List.getD_eq_getElem?_getD]
  rfl

/-- What a slide reads beside its row: its neighbour, or a zero row. -/
theorem slideRow_ok {x f : RowP} {k : Nat} {up zero : Bool} (hx : ReadsV a s x s1) (hzero : zero = true → f = ⟨0, false⟩ ∧ s2 = s1)
    (hnext : zero = false → a.toNat ≤ 58 ∧ ReadsV (a + 1) s1 f s2) :
    slideRow (fld d) (fld a) k up zero s = .ok (⟨rowOf (widthOf d s) ((List.range (2048 / widthOf d s)).map
      (slidLane (2048 / widthOf d s) up k (lanesBy (widthOf d s) x) (lanesBy (widthOf d s) f))), x.p || f.p⟩, s2) := by
  unfold slideRow
  rw [bind_ok (elemType_ok d s), bind_ok hx]
  cases zero with
  | true =>
    obtain ⟨rfl, rfl⟩ := hzero rfl
    rw [← slideLanes_eq]
    rfl
  | false =>
    obtain ⟨ha, hy⟩ := hnext rfl
    unfold ReadsV at hy
    rw [succ_toNat (BitVec.le_def.mpr ha)] at hy
    rw [if_neg (by decide), bind_ok hy, ← slideLanes_eq]
    rfl

/-- The amount and the flags of VSLIDE come from its scalar. -/
theorem vslide_ok {x f : RowP} (hk : ReadsC b s v s0) (hx : ReadsV a s0 x s1)
    (hzero : v.getLsbD 9 = true → f = ⟨0, false⟩ ∧ s2 = s1) (hnext : v.getLsbD 9 = false → a.toNat ≤ 58 ∧ ReadsV (a + 1) s1 f s2)
    (hw : WritesV d ⟨rowOf (widthOf d s) ((List.range (2048 / widthOf d s)).map (slidLane (2048 / widthOf d s) (v.getLsbD 8)
      (v.toNat % 256) (lanesBy (widthOf d s) x) (lanesBy (widthOf d s) f))), x.p || f.p⟩ 3 s2 t) :
    vslideWord (fld d) (fld a) (fld b) s = .ok ((), t) := by
  have hty : widthOf d s0 = widthOf d s := congrArg typeWidth (rdS_nameType hk _)
  have hok : (bit v 9 || decide (fld a ≤ 58)) = true := by
    unfold bit
    cases h9 : v.getLsbD 9 with
    | true => rfl
    | false => exact decide_eq_true (hnext h9).1
  rw [← hty] at hw
  refine toRow_ok (s1 := s2) ?_ hw
  rw [bind_ok (rdCount_ok hk), hok, bind_ok (needWord_true 0x01 s0)]
  exact slideRow_ok hx hzero hnext

/-- Beside a row that has no neighbour only zeros can be taken. -/
theorem vslide_unpaired (hk : ReadsC b s v s1) (h9 : v.getLsbD 9 = false) (ha : 58 < a.toNat) :
    vslideWord (fld d) (fld a) (fld b) s = .error (.trap 0x01 s.wordBits) := by
  have hno : (bit v 9 || decide (fld a ≤ 58)) = false := by
    unfold bit
    rw [h9, decide_eq_false (Nat.not_le.mpr ha)]
    rfl
  refine orLate_trap (bind_error ?_)
  rw [bind_ok (rdCount_ok hk), hno, ← rdS_wordBits hk]
  exact bind_error (needWord_false 0x01 s1)

end

/-- VEXT, VINS and VSLIDE trap on a poisoned index or count (R301). -/
theorem lane_poisoned {s s1 : State} {d a b : BitVec 6} {v : Dword} {i : Instr} (hi : i ∈ [Instr.vext d a b, .vins d a b, .vslide d a b])
    (hl : Legal i s) (hk : ReadsS b s ⟨v, true⟩ s1) : exec i s = .next (stopState (.trap 0x04 s.wordBits) s) := by
  have hcount := rdCount_poisoned hk
  simp only [List.mem_cons, List.not_mem_nil, or_false] at hi
  rcases hi with rfl | rfl | rfl
  · exact word_error hl (orLate_trap (bind_error ((bind_ok (elemType_ok a s)).trans (bind_error hcount))))
  · exact word_error hl (orLate_trap (bind_error ((bind_ok (elemType_ok d s)).trans (bind_error hcount))))
  · exact word_error hl (orLate_trap (bind_error (bind_error hcount)))

/-- Settles O33: word by word, by the lemmas above. -/
theorem laneMoves : Obligations.LaneMoves := by
  refine ⟨?ext, ?ins, ?perm, ?slide, ?unpaired, ?poisoned⟩
  case ext =>
    intro s s1 s2 t d a b k x hl hk hx w v hw
    refine ⟨word_ok hl (vext_ok hk hx hw), ?_⟩
    exact (((SameBut.refl s [] [] [] [] _).readS hk fun _ => .inl).readV hx fun _ h => .inr (.inl h)).writeS hw fun _ h => .inr (.inr h)
  case ins =>
    intro s s1 s2 s3 t d a b k x o hl hk hx ho w hw
    refine ⟨word_ok hl (vins_ok hk hx ho hw), ?_⟩
    exact ((((SameBut.refl s [] [] [] [] _).readS hk fun _ => .inl).readS hx fun _ h => .inr (.inl h)).readOld ho
      fun _ h => .inr (.inr h)).writeV hw (fun _ h => .inr (.inr h)) (by simp)
  case perm =>
    intro s s1 s2 t d a b x y hl hx hy w hw
    refine ⟨word_ok hl (vperm_ok hx hy hw), ?_⟩
    exact (((SameBut.refl s [] [] [] [] _).readV hx fun _ => .inl).readV hy fun _ h => .inr (.inl h)).writeV hw
      (fun _ h => .inr (.inr h)) (by simp)
  case slide =>
    intro s s0 s1 s2 t d a b r z k4 k up zero x f i hi hl hx hzero hnext w n hw
    have hframe : SameBut s s0 [] [] [] []
        (fun n => OnPort s true b.toNat n ∨ OnPort s false a.toNat n ∨ OnPort s false d.toNat n) → SameBut s t [] [] (dstRow d s) []
        fun n => OnPort s true b.toNat n ∨ OnPort s false a.toNat n ∨ OnPort s false d.toNat n := by
      intro h0
      have h1 := h0.readV hx fun _ h => .inr (.inl h)
      refine SameBut.writeV (t := s2) ?_ hw (fun _ h => .inr (.inr h)) (by simp)
      cases zero with
      | true => rw [(hzero rfl).2]; exact h1
      | false =>
        obtain ⟨ha, hy⟩ := hnext rfl
        exact h1.readV hy fun _ h => absurd h (succ_not_onPort (BitVec.le_def.mpr ha))
    rcases hi with ⟨v, rfl, hk, rfl, rfl, rfl⟩ | ⟨rfl, rfl, rfl, rfl, rfl⟩
    · exact ⟨word_ok hl (vslide_ok hk hx hzero hnext hw), hframe ((SameBut.refl s [] [] [] [] _).readS hk fun _ => .inl)⟩
    · exact ⟨word_ok hl (toRow_ok (slideRow_ok hx hzero hnext) hw), hframe (SameBut.refl _ _ _ _ _ _)⟩
  case unpaired => exact fun s s1 d a b v hl hk h9 ha => word_error hl (vslide_unpaired hk h9 ha)
  case poisoned => exact fun s s1 d a b v i hi hl hk => lane_poisoned hi hl hk

end Sys2Proof.Machine
end

section
/-!
SUPPORT. Reductions and dot products (16 R393, R394, 12 R297, R298).
-/
namespace Sys2Proof.Machine

open Sys2Proof.Safety

/-! ### The pairwise tree (R393) -/

/-- A lane of the tree: a value and the flags raised on the way to it. -/
def pairNode (g : Nat → Nat → Nat × Nat) (p q : Nat × Nat × Bool) : Nat × Nat × Bool :=
  ((g p.1 q.1).1, p.2.1 ||| q.2.1 ||| (g p.1 q.1).2, false)

/-- The tree over 2^n lanes, from its root down. -/
def treeDown (op : Nat × Nat × Bool → Nat × Nat × Bool → Nat × Nat × Bool) : Nat → List (Nat × Nat × Bool) → Nat × Nat × Bool
  | 0, xs => xs.head?.getD (0, 0, false)
  | n + 1, xs => op (treeDown op n (xs.take (2 ^ n))) (treeDown op n (xs.drop (2 ^ n)))

theorem treeDown_plain (g : Nat → Nat → Nat × Nat) (n : Nat) (xs : List Nat) :
    treeDown (pairNode g) n (xs.map plain) = flagged (treeOf g n xs) := by
  induction n generalizing xs with
  | zero => cases xs <;> rfl
  | succ n ih => rw [treeDown, ← List.map_take, ← List.map_drop, ih, ih]; rfl

section
variable (op : Nat × Nat × Bool → Nat × Nat × Bool → Nat × Nat × Bool)

theorem pairUp_append (xs ys : List (Nat × Nat × Bool)) {k : Nat} (h : xs.length = 2 * k) :
    pairUp op (xs ++ ys) = pairUp op xs ++ pairUp op ys := by
  induction k generalizing xs with
  | zero => rw [List.length_eq_zero_iff.mp h]; rfl
  | succ k ih =>
    match xs, h with
    | x :: y :: zs, h =>
      have hz : zs.length = 2 * k := by simp only [List.length_cons] at h; omega
      simp only [List.cons_append, pairUp, ih zs hz]

theorem pairUp_length (xs : List (Nat × Nat × Bool)) {k : Nat} (h : xs.length = 2 * k) : (pairUp op xs).length = k := by
  induction k generalizing xs with
  | zero => rw [List.length_eq_zero_iff.mp h]; rfl
  | succ k ih =>
    match xs, h with
    | x :: y :: zs, h =>
      have hz : zs.length = 2 * k := by simp only [List.length_cons] at h; omega
      simp only [pairUp, List.length_cons, ih zs hz]

/-- The lowest level of the tree is one pairing of neighbours. -/
theorem treeDown_pairUp (n : Nat) (xs : List (Nat × Nat × Bool)) (h : xs.length = 2 ^ (n + 1)) :
    treeDown op n (pairUp op xs) = treeDown op (n + 1) xs := by
  induction n generalizing xs with
  | zero =>
    match xs, h with
    | [x, y], _ => rfl
  | succ n ih =>
    have hl : (xs.take (2 ^ (n + 1))).length = 2 * 2 ^ n := by rw [List.length_take, h]; omega
    have hr : (xs.drop (2 ^ (n + 1))).length = 2 * 2 ^ n := by rw [List.length_drop, h]; omega
    have hp : (pairUp op (xs.take (2 ^ (n + 1)))).length = 2 ^ n := pairUp_length op _ hl
    rw [treeDown, treeDown, ← ih _ (by rw [hl, Nat.pow_succ']), ← ih _ (by rw [hr, Nat.pow_succ'])]
    conv => lhs; rw [← List.take_append_drop (2 ^ (n + 1)) xs, pairUp_append op _ _ hl]
    rw [List.take_left' hp, List.drop_left' hp]

/-- Enough rounds of pairing leave the root. -/
theorem reduceTree_eq (n : Nat) {fuel : Nat} (hf : n ≤ fuel) (xs : List (Nat × Nat × Bool)) (h : xs.length = 2 ^ n) :
    reduceTree fuel op xs = treeDown op n xs := by
  induction fuel generalizing n xs with
  | zero => obtain rfl := Nat.le_zero.mp hf; rfl
  | succ fuel ih =>
    cases n with
    | zero =>
      match xs, h with
      | [x], _ => exact ih 0 (by omega) [x] rfl
    | succ n =>
      rw [reduceTree, ih n (by omega) _ (pairUp_length op xs (by rw [h, Nat.pow_succ'])), treeDown_pairUp op n xs h]

end

/-- A row of a floating-point type holds 2^n lanes, with n at most 8. -/
theorem lanes_pow {t : Nat} (h : isFl t = true) : 2048 / typeWidth t = 2 ^ Nat.log2 (2048 / typeWidth t) ∧ Nat.log2 (2048 / typeWidth t) ≤ 8 := by
  rcases isFl_cases h with rfl | rfl | rfl | rfl | rfl | rfl <;> decide

theorem lanesBy_length (w : Nat) (x : RowP) : (lanesBy w x).length = 2048 / w := by simp [lanesBy, lanes]

theorem reduceTree_lanes {t : Nat} (h : isFl t = true) (g : Nat → Nat → Nat × Nat) (x : RowP) :
    reduceTree 8 (pairNode g) ((lanesBy (typeWidth t) x).map plain) =
      flagged (treeOf g (Nat.log2 (2048 / typeWidth t)) (lanesBy (typeWidth t) x)) := by
  obtain ⟨hpow, hle⟩ := lanes_pow h
  rw [reduceTree_eq _ _ hle _ (by rw [List.length_map, lanesBy_length]; exact hpow), treeDown_plain]

/-! ### VRED -/

/-- What FN makes of two lanes: their sum, or the lesser or greater one. -/
def redOp (t : Nat) (c : FCtl) (fn p q : Nat) : Nat × Nat := if fn = 0 then laneAdd t c p q else laneMinMax t c (fn == 2) p q

theorem redOp_eq (t : Nat) (c : FCtl) (fn : BitVec 2) :
    redOp t c (fld fn) = if fn = 0 then laneAdd t c else laneMinMax t c (fn == 2) := by
  have h0 : fld fn = 0 ↔ fn = 0 := BitVec.toNat_inj (y := 0)
  have h2 : (fld fn == 2) = (fn == 2) := by rw [Bool.eq_iff_iff, beq_iff_eq, beq_iff_eq]; exact BitVec.toNat_inj (y := 2)
  funext p q
  unfold redOp
  simp only [h0, h2]
  split <;> rfl

/-- What FN makes of a row of integers. -/
theorem redInt_eq (fn : BitVec 2) (vs : List Int) :
    (if fld fn = 0 then vs.foldl (· + ·) 0 else vs.foldl (fun m y => if fld fn = 1 then min m y else max m y) (vs.head?.getD 0)) =
      if fn = 0 then vs.sum else if fn = 1 then vs.foldl min (vs.headD 0) else vs.foldl max (vs.headD 0) := by
  have h0 : fld fn = 0 ↔ fn = 0 := BitVec.toNat_inj (y := 0)
  have h1 : fld fn = 1 ↔ fn = 1 := BitVec.toNat_inj (y := 1)
  simp only [h0, h1, List.sum_eq_foldl, List.headD_eq_head?_getD]
  by_cases hmin : fn = 1
  · simp only [hmin, if_true]
  · simp only [hmin, if_false]

section
variable {s s1 s2 s3 s4 t : State} {d a b : BitVec 6} {fn : BitVec 2} {x y o : RowP}

theorem vred_int (hx : ReadsV a s x s1) (hty : isInt (typeOf a s) = true)
    (hw : let vs := (lanesBy (widthOf a s) x).map (laneInt (typeOf a s))
      WritesS d ⟨BitVec.ofInt 64 (if fn = 0 then vs.sum else if fn = 1 then vs.foldl min (vs.headD 0) else vs.foldl max (vs.headD 0)),
        x.p⟩ 10 s1 t) : vredWord (fld d) (fld a) (fld fn) s = .ok ((), t) := by
  dsimp only at hw
  rw [← redInt_eq] at hw
  refine toScalar_ok (s1 := s1) ?_ hw
  rw [bind_ok (elemType_ok a s), bind_ok (readFrm_ok s), bind_ok hx, if_neg (by rw [isFl_of_isInt hty]; simp)]
  rfl

/-- The root of the tree as the word's result. -/
theorem redOut_ok {p : Bool} {z : Nat × Nat × Bool} {r : Nat × Nat} (hz : z = flagged r) (hf : FlagsRaised r.2 false p s1 s2) :
    (laneFlags ⟨[], z.2.1, false⟩ p >>= fun _ => pure (⟨dw z.1, p⟩ : SReg)) s1 = .ok (⟨BitVec.ofNat 64 r.1, p⟩, s2) := by
  subst hz
  exact bind_ok hf

theorem vred_float {r : Nat × Nat} (hx : ReadsV a s x s1) (hty : isFl (typeOf a s) = true)
    (hr : r = treeOf (redOp (typeOf a s) (frmOf s).noFtz (fld fn)) (Nat.log2 (2048 / typeWidth (typeOf a s)))
      (lanesBy (typeWidth (typeOf a s)) x))
    (hf : FlagsRaised r.2 false x.p s1 s2) (hw : WritesS d ⟨BitVec.ofNat 64 r.1, x.p⟩ 10 s2 t) :
    vredWord (fld d) (fld a) (fld fn) s = .ok ((), t) := by
  have hred := reduceTree_lanes hty (redOp (typeOf a s) (frmOf s).noFtz (fld fn)) x
  rw [← hr] at hred
  refine toScalar_ok (s1 := s2) ?_ hw
  rw [bind_ok (elemType_ok a s), bind_ok (readFrm_ok s), bind_ok hx, if_pos hty]
  exact redOut_ok hred hf

/-! ### VMAC2 and VDOT4 (R394) -/

/-- The exact total of lane `l`: its old value and `n` products of lanes of `w` bits. -/
def dotSum (w n : Nat) (x y o : RowP) (l : Nat) : Int :=
  (BitVec.ofNat 32 ((lanesBy 32 o).getD l 0)).toInt +
    ((List.range n).map fun j => (BitVec.ofNat w ((lanesBy w x).getD (n * l + j) 0)).toInt *
      (BitVec.ofNat w ((lanesBy w y).getD (n * l + j) 0)).toInt).sum

theorem foldl_add_eq_sum (xs : List Int) (z : Int) : xs.foldl (· + ·) z = z + xs.sum := by
  rw [List.sum_eq_foldl, ← List.foldl_assoc (op := fun x y : Int => x + y), Int.add_zero]

theorem getD_of_lt {α : Type} (xs : List α) (z : α) {i : Nat} (h : i < xs.length) : xs.getD i z = xs[i] := by
  rw [List.getD_eq_getElem?_getD, List.getElem?_eq_getElem h, Option.getD_some]

/-- A run of a list, entry by entry. -/
theorem take_drop_eq_map {α : Type} (xs : List α) (z : α) (i n : Nat) (h : i + n ≤ xs.length) :
    (xs.drop i).take n = (List.range n).map fun j => xs.getD (i + j) z := by
  refine List.ext_getElem (by simp; omega) fun j hj hj' => ?_
  have hn : j < n := by simpa using hj'
  rw [List.getElem_take, List.getElem_drop, List.getElem_map, List.getElem_range, getD_of_lt _ _ (by omega)]

/-- The running total of the model is the exact one. -/
theorem dotTotal_eq {w n l : Nat} (hw : 0 < w) (hn : 64 * n = 2048 / w) (hl : l < 64) (x y o : RowP) :
    ((((List.zipWith (fun p q => sext w p * sext w q) (lanesBy w x) (lanesBy w y)).drop (n * l)).take n).foldl (· + ·)
      (sext 32 ((lanesBy 32 o).getD l 0))) = dotSum w n x y o l := by
  have hrun : n * l + n ≤ 2048 / w := by
    calc n * l + n = n * (l + 1) := (Nat.mul_succ n l).symm
      _ ≤ n * 64 := Nat.mul_le_mul_left n hl
      _ = 2048 / w := by rw [← hn, Nat.mul_comm]
  have hlen : (List.zipWith (fun p q => sext w p * sext w q) (lanesBy w x) (lanesBy w y)).length = 2048 / w := by
    rw [List.length_zipWith, lanesBy_length, lanesBy_length, Nat.min_self]
  rw [foldl_add_eq_sum, take_drop_eq_map _ 0 _ _ (by omega), sext_eq_toInt (by omega)]
  unfold dotSum
  congr 2
  refine List.map_congr_left fun j hj => ?_
  have hj : n * l + j < 2048 / w := by have := List.mem_range.mp hj; omega
  rw [getD_of_lt _ _ (by omega), List.getElem_zipWith, getD_of_lt _ _ (by rw [lanesBy_length]; exact hj),
    getD_of_lt _ _ (by rw [lanesBy_length]; exact hj), sext_eq_toInt hw, sext_eq_toInt hw]

/-- A list with the numbers of its entries. -/
theorem map_zipIdx_eq {α β : Type} (xs : List α) (z : α) (f : α × Nat → β) :
    xs.zipIdx.map f = (List.range xs.length).map fun i => f (xs.getD i z, i) := by
  refine List.ext_getElem (by simp) fun i hi hi' => ?_
  have hlt : i < xs.length := by simpa using hi'
  rw [List.getElem_map, List.getElem_zipIdx, List.getElem_map, List.getElem_range, getD_of_lt _ _ hlt, Nat.zero_add]

theorem vdot_ok {w n : Nat} (hw0 : 0 < w) (hn : 64 * n = 2048 / w) (hx : ReadsV a s x s1) (hy : ReadsV b s1 y s2) (ho : ReadsOld d s2 o s3)
    (hf : FlagsRaised 0 (((List.range 64).map (dotSum w n x y o)).any (outside 2)) (x.p || y.p || o.p) s3 s4)
    (hw : WritesV d ⟨intRow 32 (((List.range 64).map (dotSum w n x y o)).map (clamped 2)), x.p || y.p || o.p⟩ 4 s4 t) :
    vdotWord (fld d) (fld a) (fld b) w n s = .ok ((), t) := by
  refine toRow_ok (s1 := s4) ?_ hw
  rw [bind_ok hx, bind_ok hy, bind_ok ho]
  refine Eq.trans (congrArg (laneOut 2 (x.p || y.p || o.p) · s3) ?_) (laneOut_sat (t := 2) hf)
  rw [map_zipIdx_eq (lanes 32 64 o.v) 0, show (lanes 32 64 o.v).length = 64 from lanesBy_length 32 o]
  refine List.map_congr_left fun l hl => ?_
  rw [← dotTotal_eq hw0 hn (List.mem_range.mp hl) x y o]
  rfl

end

theorem vdot_exec {d a b : BitVec 6} {i : Instr} {w n : Nat} (h : (i, w, n) ∈ [(Instr.vmac2 d a b, 16, 2), (.vdot4 d a b, 8, 4)]) (s : State) :
    exec i s = word i (vdotWord (fld d) (fld a) (fld b) w n) s ∧ 0 < w ∧ 64 * n = 2048 / w := by
  simp only [List.mem_cons, Prod.mk.injEq, List.not_mem_nil, or_false] at h
  rcases h with ⟨rfl, rfl, rfl⟩ | ⟨rfl, rfl, rfl⟩
  · exact ⟨rfl, by decide, by decide⟩
  · exact ⟨rfl, by decide, by decide⟩

/-- Settles O34: the pairwise tree of the word is the tree over halves, and its running totals are the exact ones. -/
theorem reductionsAndDotProducts : Obligations.ReductionsAndDotProducts := by
  refine ⟨?int, ?float, ?dot⟩
  case int =>
    intro s s1 t d a fn x hl _ hx hty vs v hw
    refine ⟨word_ok hl (vred_int hx hty hw), ?_⟩
    exact ((SameBut.refl s [] [] [] [] _).readV hx fun _ => .inl).writeS hw fun _ => .inr
  case float =>
    intro s s1 s2 t d a fn x hl _ hx hty ty c z hf hw
    refine ⟨word_ok hl (vred_float (r := z) hx hty (by rw [redOp_eq]; rfl) hf hw), ?_⟩
    exact (((SameBut.refl s [] [] [] _ _).readV hx fun _ => .inl).raise hf (by simp) (by simp)).writeS hw fun _ => .inr
  case dot =>
    intro s s1 s2 s3 s4 t d a b x y o i w n hi hl _ hx hy ho sx vs p hf hw
    obtain ⟨hexec, hw0, hn⟩ := vdot_exec hi s
    refine ⟨hexec.trans (word_ok hl (vdot_ok hw0 hn hx hy ho hf hw)), ?_⟩
    exact (((((SameBut.refl s [] [] [] _ _).readV hx fun _ => .inl).readV hy fun _ h => .inr (.inl h)).readOld ho
      fun _ h => .inr (.inr h)).raise hf (by simp) (by simp)).writeV hw (fun _ h => .inr (.inr h)) (by simp)

end Sys2Proof.Machine
end
